-- ==== Sys2Proof/Word.lean ====
section
/-! DEFINITION. The word types of the Svetaux 4600 model and their plainest arithmetic (R2, R79). -/

namespace Sys2Proof

/-- One byte of a memory, a line or a chain entry (R2: little-endian throughout). -/
abbrev Byte := BitVec 8

/-- A 64-bit scalar register, control register or memory word. -/
abbrev W := BitVec 64

/-- A 32-bit instruction word, lane word or FP32/i32 pattern. -/
abbrev W32 := BitVec 32

/-- A register field of an instruction, as numbered by the manual (R103, R105). -/
abbrev Reg := BitVec 6

/-- A line index of the shared text (R37). -/
abbrev Line := BitVec 12

/-- A line that a transfer or a release leads to: it may lie past the last index, 4,095 (R40, R47, R293). -/
abbrev LineIx := BitVec 13

/-- A 23-bit well offset (R12). -/
abbrev Off := BitVec 23

/-- A vector register: 512 bytes read as one little-endian 4,096-bit value (R203). -/
abbrev VReg := BitVec 4096

/-- The five sticky flags, laid out as VFLG and MFLG lay them out (R97): IX, UF, OF, DZ, IV from bit 4 down. -/
abbrev Flags := BitVec 5

namespace Flags
/-- IV, bit 0 (R84). -/
def iv : Flags := 1
/-- DZ, bit 1 (R84). -/
def dz : Flags := 2
/-- OF, bit 2 (R84). -/
def of : Flags := 4
/-- UF, bit 3 (R84). -/
def uf : Flags := 8
/-- IX, bit 4 (R84). -/
def ix : Flags := 16
end Flags

end Sys2Proof
end

