-- ==== Sys2Proof/Syntax.lean ====
section
/-! DEFINITION. The instructions of the part: one constructor per row of the opcode table, with its operand fields
as the manual's formats give them (R103, R168), and the environment's part of each event. -/

namespace Sys2Proof

/-- The four engines of a core (R37, R107 order C, A, V, M). -/
inductive Engine where
  | c | a | v | m
  deriving DecidableEq, Repr, Inhabited

/-- The transport on which an SPDM message arrives (R360). -/
inductive Transport where
  | mailbox | doe | mctp
  deriving DecidableEq, Repr, Inhabited

/-- The header of a data entry, bytes 0x00–0x0F (R168). -/
structure EntHdr where
  acq : Bool := false
  rel : Bool := false
  fill : Bool := false
  drain : Bool := false
  post : Bool := false
  norm : Bool := false
  naxis : Bool := false
  spS : BitVec 2 := 0
  spD : BitVec 2 := 0
  spX : BitVec 2 := 0
  spY : BitVec 2 := 0
  esz : BitVec 2 := 0
  ftile : Byte := 0
  dtile : Byte := 0
  every : BitVec 16 := 0
  sem : Off := 0
  cnt : Byte := 0
  normoff : Off := 0
  deriving DecidableEq, Repr, Inhabited

/-- Where a host access lands: the BAR2 window or the HDM decoder (R355). -/
inductive HostWin where
  | bar2 | hdm
  deriving DecidableEq, Repr, Inhabited

/-- What a peer package asks of this one (R357): plain accesses, and the read-modify-writes of R313. -/
inductive PeerOp where
  | read (len : Nat)
  | write (data : List Byte)
  | atom (op : BitVec 3) (w64 : Bool) (opnd cmpv : W)
  | red (op : BitVec 2) (typ : BitVec 2) (val : W32)
  | sempr (amt : W32)
  deriving DecidableEq, Repr, Inhabited

/-- What the firmware does as its policy decides (R363): it writes TICKETS or CLASS of a queue or a partition's scheduling
register, or changes the partitions, given as the dies of each. -/
inductive PolicyWrite where
  | tickets (q : BitVec 10) (v : BitVec 16)
  | cls (q : BitVec 10) (v : Byte)
  | sched (p : BitVec 3) (v : W)
  | layout (parts : List (List Nat))
  deriving DecidableEq, Repr, Inhabited

/-- A routing-table entry of the configuration record (R357, R362): a set of peer links with the alternate that traffic moves
to when it fails, an Ethernet port with its peer address and queue pair, or none. -/
inductive Route where
  | none
  | links (set : Nat) (alt : Route)
  | ether (port : Bool) (peer qp : Nat)
  deriving DecidableEq, Repr, Inhabited

/-- The configuration record signed with the boot image (R362). -/
structure ConfigRecord where
  pkgNum : Nat := 0
  /-- The compute dies of each partition, in partition order. -/
  parts : List (List Nat) := []
  hdmSize : Nat := 0
  /-- Per package: its route, and the context used for its incoming accesses. -/
  routes : List (Nat × Route × Nat) := []
  /-- Base and size of the staging area. -/
  staging : Nat × Nat := (0, 0)
  /-- Base and size of the handover area. -/
  handover : Nat × Nat := (0, 0)
  /-- MAC and IP of each Ethernet port (R362). -/
  ports : List (Nat × Nat) := []
  deriving DecidableEq, Repr, Inhabited

/-- A firmware image as the boot ROM meets it (R358, R362): its bytes, those of the configuration record signed with it, the LMS
public key and the signature (RFC 8554). -/
structure BootImage where
  bytes : List Byte := []
  recBytes : List Byte := []
  pub : List Byte := []
  sig : List Byte := []
  deriving DecidableEq, Repr, Inhabited

/-- Where a pending write waits to be performed with respect to further observers (R300, R301). -/
inductive WSpace where
  | hbm | host | well (core : Fin 128) | urs (core : Fin 128) | cist (core : Fin 128)
  deriving DecidableEq, Repr, Inhabited

/-- One constructor per row of the opcode table, in its order. -/
inductive Instr where
  -- scalar group (R127-R133)
  | add (d a b : Reg) | sub (d a b : Reg) | and (d a b : Reg) | or (d a b : Reg) | xor (d a b : Reg)
  | shl (d a b : Reg) | shr (d a b : Reg) | sra (d a b : Reg) | min (d a b : Reg) | max (d a b : Reg)
  | minw (d a b : Reg) | maxw (d a b : Reg) | mul (d a b : Reg) | mulh (d a b : Reg) | mulhw (d a b : Reg)
  | div (d a b : Reg) | divw (d a b : Reg) | rem (d a b : Reg) | remw (d a b : Reg)
  | clz (d a : Reg) | popc (d a : Reg) | sel (d a b : Reg)
  | addi (d a : Reg) (i : BitVec 14) | andi (d a : Reg) (i : BitVec 14) | ori (d a : Reg) (i : BitVec 14)
  | xori (d a : Reg) (i : BitVec 14)
  | shli (d a : Reg) (s : BitVec 6) | shri (d a : Reg) (s : BitVec 6) | srai (d a : Reg) (s : BitVec 6)
  | lui (d : Reg) (i : BitVec 20) | li (d : Reg) (i : BitVec 52)
  | cmpEq (d a b : Reg) (p : BitVec 6) | cmpNe (d a b : Reg) (p : BitVec 6)
  | cmpLt (d a b : Reg) (p : BitVec 6) | cmpLtw (d a b : Reg) (p : BitVec 6)
  | cmpGe (d a b : Reg) (p : BitVec 6) | cmpGew (d a b : Reg) (p : BitVec 6)
  | cmpTst (d a b : Reg) (p : BitVec 6) | cmpTstz (d a b : Reg) (p : BitVec 6)
  | bext (d a : Reg) (p w : BitVec 6) | bins (d a : Reg) (p w : BitVec 6)
  | ld (d b : Reg) (z : BitVec 2) (i : BitVec 12) | lds (d b : Reg) (z : BitVec 2) (i : BitVec 12)
  | st (d b : Reg) (z : BitVec 2) (i : BitVec 12)
  | addr (d a b : Reg) (h : BitVec 2) (i : BitVec 6)
  -- common group (R134-R143)
  | semw (b : Reg) (o : BitVec 8) (n : BitVec 11) | semwReg (b : Reg) (o : BitVec 8) (r : Reg)
  | semp (b : Reg) (o : BitVec 8) (n : BitVec 11) | sempReg (b : Reg) (o : BitVec 8) (r : Reg)
  | brf | brfCall | brfRet | rfjoin | rfret | nop | endEngine
  | fence (f s : BitVec 5) | trap (c : BitVec 16) | send (r : Reg) (e : Engine) | recv (r : Reg) (e : Engine)
  -- C (R144-R155)
  | prep (b : BitVec 3) (o : BitVec 13)
  | br (b : BitVec 3) (g i : BitVec 6) (s : Bool) (m : BitVec 3) | brUncond (b : BitVec 3) (m : BitVec 3)
  | call (b : BitVec 3) (g i : BitVec 6) (s : Bool) (m : BitVec 3) | callUncond (b : BitVec 3) (m : BitVec 3)
  | ret (g i : BitVec 6) (s : Bool) (m : BitVec 3) | retUncond (m : BitVec 3)
  | loopb (g : Reg) (l : BitVec 7) (m : BitVec 3) (v w : BitVec 4)
  | csrr (d : Reg) (i : BitVec 12) | csrw (s : Reg) (i : BitVec 12)
  | binit (r : Reg) (p : BitVec 5) | barv (r : Reg) (p : BitVec 5) | bwt (r : Reg) (p : BitVec 5)
  | refine (a : Reg) (i : BitVec 14) | launch (d a b : Reg) | mcw (s : Reg) (i : BitVec 12) | rett
  -- A (R158-R163)
  | mvx (k : Reg) (s : BitVec 2) | mvq (k : Reg) (s : BitVec 2) | mva (k : Reg) (s : BitVec 2)
  | mvw (k : Reg) (s : BitVec 2)
  | tdef (b e : Reg) (i : BitVec 8) (l : Reg) | tset (e : Reg) (i : BitVec 8) (s : BitVec 2)
  | tget (d e : Reg) (i : BitVec 8)
  -- V (R220)
  | vld (d s : Reg) (i : BitVec 14) | vst (a s : Reg) (i : BitVec 14)
  | vldt (d r : Reg) (t : BitVec 8) | vstt (a r : Reg) (t : BitVec 8)
  | vmov (d a : Reg) (t : BitVec 4) | vsplat (d s : Reg) (t : BitVec 4) | vmovs (d a i : Reg) (t : BitVec 4)
  | vadd (d a b : Reg) (t : BitVec 4) | vsub (d a b : Reg) (t : BitVec 4) | vmul (d a b : Reg) (t : BitVec 4)
  | vmin (d a b : Reg) (t : BitVec 4) | vmax (d a b : Reg) (t : BitVec 4)
  | vabs (d a : Reg) (t : BitVec 4) | vneg (d a : Reg) (t : BitVec 4)
  | vand (d a b : Reg) (t : BitVec 4) | vor (d a b : Reg) (t : BitVec 4) | vxor (d a b : Reg) (t : BitVec 4)
  | vshl (d a b : Reg) (t : BitVec 4) | vshr (d a b : Reg) (t : BitVec 4) | vsra (d a b : Reg) (t : BitVec 4)
  | vadds (d a b : Reg) (t : BitVec 4) | vsubs (d a b : Reg) (t : BitVec 4)
  | vfma (d a b c : Reg) (t t2 : BitVec 4) (dyn : Bool) (rm : BitVec 3)
  | vfms (d a b c : Reg) (t t2 : BitVec 4) (dyn : Bool) (rm : BitVec 3)
  | vcmp (d a b : Reg) (t c : BitVec 4) | vsel (d a b : Reg) (t : BitVec 4)
  | vcvt (d a : Reg) (t t2 : BitVec 4) (dyn : Bool) (rm : BitVec 3)
  | vwid (d a : Reg) (t t2 : BitVec 4) (dyn : Bool) (rm : BitVec 3)
  | vnar (d a : Reg) (t t2 : BitVec 4) (dyn : Bool) (rm : BitVec 3)
  | vscl (d a b : Reg) (t t2 : BitVec 4) (dyn : Bool) (rm p : BitVec 3)
  | vamax (d a : Reg) (t f : BitVec 4)
  | vqnt (d a b : Reg) (t t2 : BitVec 4) (dyn : Bool) (rm p : BitVec 3)
  | vrcp (d a : Reg) (t : BitVec 4) | vsqrt (d a : Reg) (t : BitVec 4) | vrsq (d a : Reg) (t : BitVec 4)
  | vexp2 (d a : Reg) (t : BitVec 4) | vlog2 (d a : Reg) (t : BitVec 4)
  | vperm (d a b c : Reg) (t : BitVec 4)
  | vred (d a : Reg) (t o : BitVec 4) | vscan (d a : Reg) (t : BitVec 4) (x : Bool) (o : BitVec 2)
  | vbcst (d a i : Reg) (t : BitVec 4) | vvoteAny (d a : Reg) (t : BitVec 4) | vvoteAll (d a : Reg) (t : BitVec 4)
  | vbnet (d a : Reg) (p : BitVec 3) | vbpat (p s : Reg) (i : BitVec 14) | vchain (s : Reg) (i : BitVec 14)
  | vmvl (d p : Reg) (u : BitVec 4) | vdot (d a b c : Reg) (t t2 : BitVec 4)
  -- M (R265, R275, R277, R282)
  | mgo | mgoKeep | mma | mmaRst | mcfg (d : Reg) (i : BitVec 11) | mcfgSh (d : Reg) (i : BitVec 11)
  | azero (n : Reg) | astat (d n : Reg) | astatVal (d n : Reg) | astatCln (d n : Reg) | arel (n : Reg)
  | acpyChA (d s : Reg) | acpyACh (d s : Reg) | acpyAddChA (d s : Reg) | acpyAddACh (d s : Reg)
  | acpyI32ChA (d s : Reg) | acpyI32ACh (d s : Reg) | acpyAddI32ChA (d s : Reg) | acpyAddI32ACh (d s : Reg)
  | crel (n : Reg) | cstat (d n : Reg) | cstatClr (d n : Reg) | malias | msamp
  | msrd (d : Reg) (i : BitVec 12) | mswr (s : Reg) (i : BitVec 12)
  -- steps inside a core (R211, R243, R259, R283, R290, R292, R74)
  | vResultLanding | vchainElement | mStep | msampGroup | refineCall | refineNormTest | stallWatchdog (aclk : Nat)
  -- cells, supersteps and the scheduler (R34, R36, R346, R347)
  | cellStart | superstepEnd (p : BitVec 3) | schedulerChoice (p : BitVec 3) | timesliceExpiry (p : BitVec 3)
  -- streams (R166, R167, R179, R319, R325)
  | chainStart | pumpTransferUnit | streamWaitSatisfied | commandCompletion | pageWalk (va : W) (useL2 : Bool)
  | faultRecordPost
  -- Muevo entries (R169)
  | copy (h : EntHdr) (s d : W) (n0 n1 n2 n3 : BitVec 16) (ss1 ss2 ss3 ds1 ds2 ds3 : W32)
  | gath (h : EntHdr) (s d x : W) (n rlen : W32) (rstr : W) (isz : Byte)
  | scat (h : EntHdr) (s d x : W) (n rlen : W32) (rstr : W) (isz : Byte)
  | xpose (h : EntHdr) (s d : W) (rows cols : W32) (sstr dstr : W)
  | conv (h : EntHdr) (s d x : W) (n : W32) (smoff : Off) (fmt : BitVec 4) (srcbf16 smooth : Bool) (rm : BitVec 3)
      (slen : BitVec 16) (seed : W)
  | decomp (h : EntHdr) (s d : W) (n : W32)
  | cmprs (h : EntHdr) (s d x y : W) (n : W32) (rm : BitVec 3) (seed : W)
  | mcast (h : EntHdr) (s x : W) (n : W32) (nd : Byte)
  | red (h : EntHdr) (x d : W) (n : W32) (ns : Byte) (op : BitVec 2) (acc : Bool) (typ : Byte)
  | fill (h : EntHdr) (d : W) (n : W32) (val : W)
  | atom (h : EntHdr) (d opnd cmpv : W) (retoff : Off) (op : BitVec 3) (w64 : Bool)
  | sempr (h : EntHdr) (d : W) (amt : W32)
  | flipv (h : EntHdr) (region ver : Byte) (inc : Bool)
  | pref (h : EntHdr) (d len : W)
  | loop (n : W32) (ds dd dx : W)
  | endl
  | ifsem (addr : Off) (n skip : W32) | waits (addr : Off) (n : W32) | jmp (off : W32)
  | chainFence (kind scope : Byte) | chainEnd
  -- windows and atomic engines (R20, R313)
  | windowAccess (id : Nat) | atomicOp (eng : Fin 40)
  -- queues and packets (R336, R339, R341, R344, R349)
  | queueBind (w : W) | queueUnbind (w : W) | queueReset (w : W) | doorbell (q : BitVec 10) (w : W)
  | packetHeaderPoll (q : BitVec 10) | launchPacket (q : BitVec 10) | opchain (q : BitVec 10)
  | waitsig (q : BitVec 10) | waitsigPoll (q : BitVec 10) | signal (q : BitVec 10) | nopPacket (q : BitVec 10)
  -- stream control and shootdown (R327, R354)
  | resume (w : W) | abort (w : W) | shootdown (w : W) | shootdownAck
  -- mailbox, SPDM and firmware (R358-R364)
  | mailboxRequest (w : W) | mailboxResponse
  | getMeasurements (tr : Transport) (signed : Bool) | negotiateAlgorithms (tr : Transport) (offersLms : Bool)
  | keyExchange (tr : Transport) (session : BitVec 32) | challenge (tr : Transport)
  -- the vendor-defined requests, each with the bytes of its payload after CMD, in pieces that follow one another (R361)
  | keyload (tr : Transport) (session : Option (BitVec 32)) (zero slot rest : List Byte)
  | keyclear (tr : Transport) (session : Option (BitVec 32)) (zero rest : List Byte)
  | fwstage (tr : Transport) (session : Option (BitVec 32)) (zero offset rest : List Byte)
  | fwactivate (tr : Transport) (session : Option (BitVec 32)) (zero slot pad length digest : List Byte)
  | fwquery (msg : Transport × List Byte)
  | policyRequest (req queue tickets : BitVec 16) (cls zero : Byte)
  | hbeat (v : W) | updateHbeatTimeout | heartbeatMissed | deviceReset (img : BootImage)
  -- host, peers, registers (R353-R357)
  | hostMemoryAccess (win : HostWin) (addr : W) (len : Nat) (wr : Option (List Byte))
  | peerAccess (pkg : BitVec 15) (va : W) (op : PeerOp)
  | registerWrite (off : BitVec 20) (size : Nat) (v : W)
  | linkDown (link : Fin 36) | correctedError (ctr : Fin 6)
  | supplyDroop (block : Nat) | thermalThrottle (block : Nat) | thermalShutdown
  -- lines and visibility (R38, R300, R363)
  | lineAdvance | writePerformed (sp : WSpace) (id : Nat) (obs : Nat) | firmwarePolicyWrite (w : PolicyWrite)
  deriving DecidableEq, Repr, Inhabited

end Sys2Proof
end

