-- ==== Sys2Proof/WellFormed.lean ====
section
/-! DEFINITION. Which instructions are legal in which engine: register ranges, types, modes and indices (R105, R110,
R148, R154, R205-R207, R219, R220, R254, R265, R275), and which chain entries are well formed (R168, R174). -/

namespace Sys2Proof

/-- Number of registers of an engine's scalar file (R105). -/
def scalarCount : Engine → Nat
  | .c => 64 | .a => 32 | .v => 32 | .m => 16

/-- A scalar register of the engine's own file (R105). -/
def sReg (e : Engine) (r : Reg) : Bool := decide (r.toNat < scalarCount e)

/-- Element width of a V type code (R204). -/
def typeWidth (t : BitVec 4) : Nat :=
  match t.toNat with
  | 0 => 8 | 1 => 8 | 2 => 16 | 3 => 16 | 4 => 32 | 5 => 32 | 6 => 64 | 7 => 4
  | 8 => 16 | 9 => 16 | 10 => 32 | 11 => 64 | 12 => 8 | 13 => 8 | 14 => 8 | _ => 4

/-- Elements per register (R204). -/
def typeCount (t : BitVec 4) : Nat := 4096 / typeWidth t

/-- Types 0 to 7 are integers, 8 to 15 floating (R204). -/
def typeInt (t : BitVec 4) : Bool := decide (t.toNat < 8)

/-- A vector source: a register or a bypass tap (R105, R220). -/
def vSrc (r : Reg) : Bool := r != 63
/-- A vector destination: a register or the transient one (R105). -/
def vDst (r : Reg) : Bool := decide (r.toNat < 60) || r == 63
/-- A source group of `k` registers (R205): one register may be a tap, more may not. -/
def vSrcGroup (r : Reg) (k : Nat) : Bool := if k ≤ 1 then vSrc r else decide (r.toNat + k ≤ 60)
/-- A destination group of `k` registers (R205). -/
def vDstGroup (r : Reg) (k : Nat) : Bool := decide (r.toNat + k ≤ 60) || r == 63
/-- A group that names registers even when it has one (the fields marked g in R220). -/
def vGroup (r : Reg) (k : Nat) : Bool := decide (r.toNat + k ≤ 60)

/-- The rounding fields of VX (R103): DYN = 1 needs rm 0, DYN = 0 a mode of R82. -/
def rmOk (dyn : Bool) (rm : BitVec 3) : Bool := if dyn then rm == 0 else decide (rm.toNat ≤ 4)

/-- Control-register numbers of the map (R149). -/
def csrOk (i : BitVec 12) : Bool :=
  [0x001, 0x002, 0x003, 0x004, 0x005, 0x006, 0x010, 0x011, 0x012, 0x013, 0x014, 0x015, 0x018, 0x019, 0x01A, 0x020].contains
    i.toNat

/-- Configuration indices that are assigned and RW (R254). -/
def cfgRw (i : Nat) : Bool :=
  i < 0x00A || (0x010 ≤ i && i < 0x016) || (0x018 ≤ i && i < 0x01E) || (0x020 ≤ i && i < 0x026)
    || (0x028 ≤ i && i < 0x02E) || (0x030 ≤ i && i < 0x035)

/-- Configuration indices that MCFG reads: the RW ones, and POS0–5 and NSTEP (R254). -/
def cfgRead (i : Nat) : Bool := cfgRw i || (0x040 ≤ i && i < 0x047)

/-- Sampling indices that are assigned, and those that are RW (R273). -/
def sampRead (i : Nat) : Bool := (0x100 ≤ i && i < 0x10D) || (0x110 ≤ i && i < 0x116)
def sampRw (i : Nat) : Bool := (0x100 ≤ i && i < 0x10D) || (0x110 ≤ i && i < 0x112)

/-- Type pairs of VDOT (R219). -/
def dotOk (t t2 : BitVec 4) : Bool :=
  if [0, 1, 2, 3, 7].contains t.toNat then t2 == 4 else [8, 9, 12, 13, 14, 15].contains t.toNat && t2 == 10

/-- Three vector registers. -/
def v3 (d a b : Reg) : Bool := vDst d && vSrc a && vSrc b

/-- Is the instruction one that decoding of engine `e` may yield? -/
def wellFormed (e : Engine) : Instr → Bool
  | .add d a b | .sub d a b | .and d a b | .or d a b | .xor d a b | .shl d a b | .shr d a b | .sra d a b | .min d a b
  | .max d a b | .minw d a b | .maxw d a b | .mul d a b | .mulh d a b | .mulhw d a b | .div d a b | .divw d a b
  | .rem d a b | .remw d a b | .sel d a b => sReg e d && sReg e a && sReg e b
  | .clz d a | .popc d a => sReg e d && sReg e a
  | .addi d a _ | .andi d a _ | .ori d a _ | .xori d a _ | .shli d a _ | .shri d a _ | .srai d a _ => sReg e d && sReg e a
  | .lui d _ | .li d _ => sReg e d
  | .cmpEq d a b _ | .cmpNe d a b _ | .cmpLt d a b _ | .cmpLtw d a b _ | .cmpGe d a b _ | .cmpGew d a b _
  | .cmpTst d a b _ | .cmpTstz d a b _ => sReg e d && sReg e a && sReg e b
  | .bext d a _ _ | .bins d a _ _ => sReg e d && sReg e a
  | .ld d b _ _ | .lds d b _ _ | .st d b _ _ => sReg e d && sReg e b
  | .addr d a b _ _ => sReg e d && sReg e a && sReg e b
  | .semw b _ _ | .semp b _ _ => sReg e b
  | .semwReg b _ r | .sempReg b _ r => sReg e b && sReg e r
  | .brf | .brfCall | .brfRet | .rfjoin => e != .c
  | .rfret | .nop | .endEngine | .fence _ _ | .trap _ => true
  | .send r x | .recv r x => sReg e r && x != e
  | .prep _ _ => e == .c
  | .br _ g _ _ _ | .call _ g _ _ _ | .ret g _ _ _ => e == .c && sReg e g
  | .brUncond _ _ | .callUncond _ _ | .retUncond _ => e == .c
  | .loopb g _ _ _ _ => e == .c && sReg e g
  | .csrr r i | .csrw r i => e == .c && sReg e r && csrOk i
  | .binit r _ | .barv r _ | .bwt r _ => e == .c && sReg e r
  | .refine a _ => e == .c && sReg e a
  | .launch d a b => e == .c && sReg e d && sReg e a && sReg e b
  | .mcw r i => e == .c && sReg e r && cfgRw i.toNat
  | .rett => e == .c
  | .mvx k _ | .mvq k _ | .mva k _ | .mvw k _ => e == .a && sReg e k
  | .tdef b x _ l => e == .a && sReg e b && sReg e x && sReg e l
  | .tset x _ _ => e == .a && sReg e x
  | .tget d x _ => e == .a && sReg e d && sReg e x
  | .vld d s _ => e == .v && vDst d && sReg e s
  | .vst a s _ => e == .v && vSrc a && sReg e s
  | .vldt d r _ => e == .v && vDst d && sReg e r
  | .vstt a r _ => e == .v && vSrc a && sReg e r
  | .vmov d a _ => e == .v && vDst d && vSrc a
  | .vsplat d s _ => e == .v && vDst d && sReg e s
  | .vmovs d a i _ => e == .v && sReg e d && vSrc a && sReg e i
  | .vadd d a b t | .vsub d a b t | .vmul d a b t | .vmin d a b t | .vmax d a b t =>
    e == .v && v3 d a b && decide (t.toNat < 12)
  | .vabs d a t | .vneg d a t => e == .v && vDst d && vSrc a && decide (t.toNat < 12)
  | .vand d a b _ | .vor d a b _ | .vxor d a b _ => e == .v && v3 d a b
  | .vshl d a b t | .vshr d a b t | .vsra d a b t | .vadds d a b t | .vsubs d a b t => e == .v && v3 d a b && typeInt t
  | .vfma d a b c t t2 dyn rm | .vfms d a b c t t2 dyn rm =>
    e == .v && vSrc a && vSrc b && rmOk dyn rm && [8, 9, 10, 11].contains t.toNat
      && (if t2 == t then vDst d && vSrc c
          else decide (t.toNat < 10) && t2 == 10 && vDstGroup d 2 && vSrcGroup c 2)
  | .vcmp d a b _ c => e == .v && v3 d a b && decide (c.toNat < 8)
  | .vsel d a b _ => e == .v && v3 d a b
  | .vcvt d a t t2 dyn rm => e == .v && vDst d && vSrc a && rmOk dyn rm && typeWidth t == typeWidth t2
  | .vwid d a t t2 dyn rm =>
    e == .v && vSrc a && rmOk dyn rm && decide (typeWidth t < typeWidth t2) && vDstGroup d (typeWidth t2 / typeWidth t)
  | .vnar d a t t2 dyn rm =>
    e == .v && vDst d && rmOk dyn rm && decide (typeWidth t2 < typeWidth t) && vGroup a (typeWidth t / typeWidth t2)
  | .vscl d a b t t2 dyn rm p =>
    e == .v && v3 d a b && rmOk dyn rm && decide (12 ≤ t.toNat) && [8, 9, 10].contains t2.toNat
      && decide (p.toNat < typeWidth t2 / typeWidth t)
  | .vqnt d a b t t2 dyn rm p =>
    e == .v && v3 d a b && rmOk dyn rm && decide (12 ≤ t2.toNat) && [8, 9, 10].contains t.toNat
      && decide (p.toNat < typeWidth t / typeWidth t2)
  | .vamax d a t f => e == .v && vDst d && vSrc a && [8, 9, 10].contains t.toNat && decide (f.toNat < 4)
  | .vrcp d a t | .vsqrt d a t | .vrsq d a t | .vexp2 d a t | .vlog2 d a t =>
    e == .v && vDst d && vSrc a && [8, 10].contains t.toNat
  | .vperm d a b c t => e == .v && v3 d a c && vSrcGroup b (typeCount t / 256)
  | .vred d a t o =>
    e == .v && sReg e d && vSrc a
      && (if o.toNat < 3 then decide (t.toNat < 12) else decide (o.toNat < 6) && decide (t.toNat < 8))
  | .vscan d a t _ o => e == .v && vDst d && vSrc a && decide (t.toNat < 12) && decide (o.toNat < 3)
  | .vbcst d a i _ => e == .v && vDst d && vSrc a && sReg e i
  | .vvoteAny d a _ | .vvoteAll d a _ => e == .v && sReg e d && vSrc a
  | .vbnet d a _ => e == .v && vDst d && vGroup a 2
  | .vbpat p s _ => e == .v && decide (p.toNat < 8) && sReg e s
  | .vchain s _ => e == .v && sReg e s
  | .vmvl d p u => e == .v && vDst d && decide (p.toNat < 16) && decide (u.toNat < 8)
  | .vdot d a b c t t2 => e == .v && v3 d a b && vSrc c && dotOk t t2
  | .mgo | .mgoKeep | .mma | .mmaRst | .malias | .msamp => e == .m
  | .mcfg d i => e == .m && sReg e d && cfgRead i.toNat
  | .mcfgSh d i => e == .m && sReg e d && cfgRead i.toNat
  | .azero n | .arel n => e == .m && decide (n.toNat < 8)
  | .astat d n | .astatVal d n | .astatCln d n => e == .m && sReg e d && decide (n.toNat < 8)
  | .acpyChA _ s | .acpyAddChA _ s | .acpyI32ChA _ s | .acpyAddI32ChA _ s => e == .m && decide (s.toNat < 8)
  | .acpyACh d _ | .acpyAddACh d _ | .acpyI32ACh d _ | .acpyAddI32ACh d _ => e == .m && decide (d.toNat < 8)
  | .crel _ => e == .m
  | .cstat d _ | .cstatClr d _ => e == .m && sReg e d
  | .msrd d i => e == .m && sReg e d && sampRead i.toNat
  | .mswr s i => e == .m && sReg e s && sampRw i.toNat
  | .vResultLanding | .vchainElement | .mStep | .msampGroup | .refineCall | .refineNormTest | .stallWatchdog _
  | .cellStart | .superstepEnd _ | .schedulerChoice _ | .timesliceExpiry _ | .chainStart | .pumpTransferUnit
  | .streamWaitSatisfied | .commandCompletion | .pageWalk _ _ | .faultRecordPost | .copy .. | .gath .. | .scat ..
  | .xpose .. | .conv .. | .decomp .. | .cmprs .. | .mcast .. | .red .. | .fill .. | .atom .. | .sempr .. | .flipv ..
  | .pref .. | .loop .. | .endl | .ifsem .. | .waits .. | .jmp _ | .chainFence .. | .chainEnd | .windowAccess _
  | .atomicOp _ | .queueBind _ | .queueUnbind _ | .queueReset _ | .doorbell _ _ | .packetHeaderPoll _
  | .launchPacket _ | .opchain _ | .waitsig _ | .waitsigPoll _ | .signal _ | .nopPacket _ | .resume _ | .abort _
  | .shootdown _ | .shootdownAck | .mailboxRequest _ | .mailboxResponse | .getMeasurements _ _
  | .negotiateAlgorithms _ _ | .keyExchange _ _ | .challenge _ | .keyload .. | .keyclear .. | .fwstage ..
  | .fwactivate .. | .fwquery .. | .policyRequest .. | .hbeat _ | .updateHbeatTimeout | .heartbeatMissed | .deviceReset _
  | .hostMemoryAccess .. | .peerAccess .. | .registerWrite .. | .linkDown _ | .correctedError _ | .supplyDroop _
  | .thermalThrottle _ | .thermalShutdown | .lineAdvance | .writePerformed .. | .firmwarePolicyWrite _ => false

/-- Element size in bytes of a header's ESZ (R168). -/
def EntHdr.size (h : EntHdr) : Nat := 2 ^ h.esz.toNat

/-- The flags' own rules: unused header fields are zero, and FILL and DRAIN do not share a tile (R168, R171, R174). -/
def EntHdr.flagsOk (h : EntHdr) : Bool :=
  (h.fill || h.ftile == 0) && (h.drain || h.dtile == 0)
    && (h.post || (h.every == 0 && h.sem == 0 && h.cnt == 0))
    && (h.norm || (h.normoff == 0 && !h.naxis))
    && !(h.fill && h.drain && h.ftile == h.dtile)

/-- Spaces: a selector is one of the spaces it allows (R174, R193). -/
def spAny (sp : BitVec 2) : Bool := sp != 3
def spVaWell (sp : BitVec 2) : Bool := sp == 0 || sp == 1
def spNone (sp : BitVec 2) : Bool := sp == 0

/-- A CIST operand: zero fields zero, lo ≤ hi, and a 4-byte element (R170). -/
def cistOk (sp : BitVec 2) (x : W) (esz : BitVec 2) : Bool :=
  sp != 2 || (x.extractLsb' 6 2 == 0 && x.extractLsb' 12 4 == 0 && x.extractLsb' 30 34 == 0
    && decide ((x.extractLsb' 8 2).toNat ≤ (x.extractLsb' 10 2).toNat) && esz == 2)

/-- NORM on a moved element needs 2 or 4 bytes (R173). -/
def normMove (h : EntHdr) : Bool := !h.norm || h.esz == 1 || h.esz == 2

/-- An entry that is not malformed (R168-R193, R174). A LOOP with N = 0 needs the chain's text and is tested when it runs. -/
def entryOk : Instr → Bool
  | .copy h s d n0 n1 n2 n3 _ _ _ _ _ _ =>
    h.flagsOk && spAny h.spS && spAny h.spD && spNone h.spX && spNone h.spY && cistOk h.spS s h.esz
      && cistOk h.spD d h.esz && normMove h && decide (n0.toNat * n1.toNat * n2.toNat * n3.toNat < 2 ^ 32)
  | .gath h s d _ n rlen _ isz =>
    h.flagsOk && spVaWell h.spS && spAny h.spD && spVaWell h.spX && spNone h.spY && cistOk h.spD d h.esz
      && cistOk h.spS s h.esz && normMove h && (isz == 1 || isz == 2) && decide (n.toNat * rlen.toNat < 2 ^ 32)
  | .scat h s d _ n rlen _ isz =>
    h.flagsOk && spAny h.spS && spVaWell h.spD && spVaWell h.spX && spNone h.spY && cistOk h.spS s h.esz
      && cistOk h.spD d h.esz && normMove h && (isz == 1 || isz == 2) && decide (n.toNat * rlen.toNat < 2 ^ 32)
  | .xpose h s d rows cols _ _ =>
    h.flagsOk && spAny h.spS && spAny h.spD && spNone h.spX && spNone h.spY && cistOk h.spS s h.esz
      && cistOk h.spD d h.esz && normMove h && h.esz != 3 && decide (rows.toNat * cols.toNat < 2 ^ 32)
  | .conv h s _ x n smoff fmt srcbf16 smooth rm slen _ =>
    h.flagsOk && spAny h.spS && spVaWell h.spD && spNone h.spY && h.esz == 0 && decide (fmt.toNat < 6)
      && decide (rm.toNat < 5) && cistOk h.spS s (if srcbf16 then 1 else 2)
      && (if fmt == 3 || fmt == 5 then h.spX == 0 && x == 0 else spVaWell h.spX)
      && (if smooth then slen != 0 else slen == 0 && smoff == 0) && decide (n.toNat < 2 ^ 32)
  | .decomp h _ d _ =>
    h.flagsOk && spVaWell h.spS && spAny h.spD && spNone h.spX && spNone h.spY && cistOk h.spD d h.esz
      && normMove h && h.esz != 3
  | .cmprs h s _ _ _ _ rm _ =>
    h.flagsOk && spAny h.spS && spVaWell h.spD && spVaWell h.spX && spVaWell h.spY && h.esz == 0
      && cistOk h.spS s 2 && (rm == 0 || rm == 4)
  | .mcast h s _ n nd =>
    h.flagsOk && spAny h.spS && spVaWell h.spD && h.spX == 1 && spNone h.spY && cistOk h.spS s h.esz && normMove h
      && decide (1 ≤ nd.toNat) && decide (nd.toNat ≤ 16) && decide (n.toNat * nd.toNat < 2 ^ 32)
  | .red h _ d _ ns op _ typ =>
    h.flagsOk && spAny h.spS && spAny h.spD && h.spX == 1 && spNone h.spY && decide (1 ≤ ns.toNat)
      && decide (ns.toNat ≤ 8) && op != 3 && decide (typ.toNat < 3) && cistOk h.spD d h.esz
      && (if typ == 1 then h.esz == 1 else h.esz == 2) && (!h.norm || typ != 2) && (h.spS != 2 || h.esz == 2)
  | .fill h d _ _ =>
    h.flagsOk && spNone h.spS && spAny h.spD && spNone h.spX && spNone h.spY && cistOk h.spD d h.esz && normMove h
  | .atom h _ _ cmpv _ op _ =>
    h.flagsOk && spNone h.spS && spVaWell h.spD && spNone h.spX && spNone h.spY && h.esz == 0 && !h.norm && op != 7
      && (op == 6 || cmpv == 0)
  | .sempr h _ _ => h.flagsOk && spNone h.spS && spVaWell h.spD && spNone h.spX && spNone h.spY && h.esz == 0 && !h.norm
  | .flipv h _ ver inc =>
    h.flagsOk && spNone h.spS && spNone h.spD && spNone h.spX && spNone h.spY && h.esz == 0 && !h.norm
      && (!inc || ver == 0)
  | .pref h _ _ =>
    h.flagsOk && spNone h.spS && h.spD == 0 && spNone h.spX && spNone h.spY && h.esz == 0 && !h.norm
  | .loop .. | .endl | .ifsem .. | .waits .. | .jmp _ | .chainEnd => true
  | .chainFence kind scope => decide (kind.toNat < 3) && decide (scope.toNat < 5)
  | _ => false

end Sys2Proof
end

