-- ==== Sys2Proof/Decode.lean ====
section
/-! DEFINITION. Decoding of instruction words, prefixes and chain entries, rejecting what is no instruction, and the
encoder written from the same tables (R100-R109, R144-R147, R158, R162, R168-R192, R220, R265, R275). -/

namespace Sys2Proof

/-! ### Fields (R103) -/

def fMajor (w : W32) : Nat := (w.extractLsb' 26 6).toNat
def fD (w : W32) : Reg := w.extractLsb' 20 6
def fA (w : W32) : Reg := w.extractLsb' 14 6
def fB (w : W32) : Reg := w.extractLsb' 8 6
def fFunc (w : W32) : BitVec 8 := w.extractLsb' 0 8
def fType (w : W32) : BitVec 4 := w.extractLsb' 4 4
def fMod (w : W32) : BitVec 4 := w.extractLsb' 0 4
def fImm14 (w : W32) : BitVec 14 := w.extractLsb' 0 14
def fIdx (w : W32) : BitVec 12 := w.extractLsb' 8 12

/-- Engine number (R107: 0 C, 1 A, 2 V, 3 M). -/
def engNum : Engine → BitVec 2
  | .c => 0 | .a => 1 | .v => 2 | .m => 3
def engOf (n : BitVec 2) : Engine := if n = 0 then .c else if n = 1 then .a else if n = 2 then .v else .m

/-! ### Packing (R103) -/

def pRR (op d a b : BitVec 6) (f : BitVec 8) : W32 := op ++ d ++ a ++ b ++ f
def pRI (op d a : BitVec 6) (i : BitVec 14) : W32 := op ++ d ++ a ++ i
def pRS (op d a : BitVec 6) (k : BitVec 2) (s : BitVec 6) : W32 := op ++ d ++ a ++ k ++ s ++ (0 : BitVec 6)
def pCM (op d a b p : BitVec 6) (c : BitVec 2) : W32 := op ++ d ++ a ++ b ++ p ++ c
def pBF (op d a p w : BitVec 6) : W32 := op ++ d ++ a ++ p ++ w ++ (0 : BitVec 2)
def pWA (op d b : BitVec 6) (z : BitVec 2) (i : BitVec 12) : W32 := op ++ d ++ b ++ z ++ i
def pAX (op d a b : BitVec 6) (h : BitVec 2) (i : BitVec 6) : W32 := op ++ d ++ a ++ b ++ h ++ i
def pSMI (op b : BitVec 6) (o : BitVec 8) (n : BitVec 11) : W32 := op ++ b ++ o ++ (1 : BitVec 1) ++ n
def pSMR (op b : BitVec 6) (o : BitVec 8) (r : BitVec 6) : W32 := op ++ b ++ o ++ (0 : BitVec 1) ++ r ++ (0 : BitVec 5)
def pSY (f : BitVec 6) (x : BitVec 20) : W32 := (0x3F : BitVec 6) ++ f ++ x
def pBC (k : BitVec 2) (b : BitVec 3) (g i : BitVec 6) (s u : Bool) (m : BitVec 3) : W32 :=
  (0x01 : BitVec 6) ++ k ++ b ++ g ++ i ++ BitVec.ofBool s ++ BitVec.ofBool u ++ m ++ (0 : BitVec 4)
def pCS (op d : BitVec 6) (i : BitVec 12) : W32 := op ++ d ++ i ++ (0 : BitVec 8)
def pBA (op r : BitVec 6) (p : BitVec 5) : W32 := op ++ r ++ p ++ (0 : BitVec 15)
def pMV (op k : BitVec 6) (s : BitVec 2) : W32 := op ++ k ++ s ++ (0 : BitVec 18)
def pTT (op k e : BitVec 6) (i : BitVec 8) (x : BitVec 6) : W32 := op ++ k ++ e ++ i ++ x
def pVR (op d a b : BitVec 6) (t f : BitVec 4) : W32 := op ++ d ++ a ++ b ++ t ++ f
def pVXc (c : BitVec 6) (t2 : BitVec 4) (dyn : Bool) (rm p : BitVec 3) : W32 :=
  c ++ t2 ++ BitVec.ofBool dyn ++ rm ++ p ++ (0 : BitVec 15)

/-- ALU function codes (R127). -/
def aluInstr (d a b : Reg) (f : Nat) : Option Instr :=
  match f with
  | 0x00 => some (.add d a b) | 0x01 => some (.sub d a b) | 0x02 => some (.and d a b) | 0x03 => some (.or d a b)
  | 0x04 => some (.xor d a b) | 0x05 => some (.shl d a b) | 0x06 => some (.shr d a b) | 0x07 => some (.sra d a b)
  | 0x08 => some (.min d a b) | 0x09 => some (.max d a b) | 0x0A => some (.minw d a b) | 0x0B => some (.maxw d a b)
  | 0x0C => some (.mul d a b) | 0x0D => some (.mulh d a b) | 0x0E => some (.mulhw d a b) | 0x0F => some (.div d a b)
  | 0x10 => some (.divw d a b) | 0x11 => some (.rem d a b) | 0x12 => some (.remw d a b)
  | 0x13 => if b = 0 then some (.clz d a) else none
  | 0x14 => if b = 0 then some (.popc d a) else none
  | 0x15 => some (.sel d a b)
  | _ => none

/-- SYS functions (R107). -/
def sysInstr (w : W32) : Option Instr :=
  match (w.extractLsb' 20 6).toNat with
  | 0x00 => if w.extractLsb' 0 20 = 0 then some .nop else none
  | 0x01 => if w.extractLsb' 0 20 = 0 then some .endEngine else none
  | 0x02 => if w.extractLsb' 0 10 = 0 then some (.fence (w.extractLsb' 15 5) (w.extractLsb' 10 5)) else none
  | 0x03 => if w.extractLsb' 16 4 = 0 then some (.trap (w.extractLsb' 0 16)) else none
  | 0x04 => if w.extractLsb' 0 12 = 0 then some (.send (fA w) (engOf (w.extractLsb' 12 2))) else none
  | 0x05 => if w.extractLsb' 0 12 = 0 then some (.recv (fA w) (engOf (w.extractLsb' 12 2))) else none
  | _ => none

/-- The scalar and common groups, the same in every engine (R106, R107); `c` is the continuation word. -/
def rawShared (w c : W32) : Option Instr :=
  let d := fD w
  let a := fA w
  let b := fB w
  match fMajor w with
  | 0x20 => aluInstr d a b (fFunc w).toNat
  | 0x21 => some (.addi d a (fImm14 w))
  | 0x22 => some (.andi d a (fImm14 w))
  | 0x23 => some (.ori d a (fImm14 w))
  | 0x24 => some (.xori d a (fImm14 w))
  | 0x25 =>
    if w.extractLsb' 0 6 ≠ 0 then none else
    match (w.extractLsb' 12 2).toNat with
    | 0 => some (.shli d a (w.extractLsb' 6 6))
    | 1 => some (.shri d a (w.extractLsb' 6 6))
    | 2 => some (.srai d a (w.extractLsb' 6 6))
    | _ => none
  | 0x26 => some (.lui d (w.extractLsb' 0 20))
  | 0x27 => some (.li d (w.extractLsb' 0 20 ++ c))
  | 0x28 =>
    match (w.extractLsb' 0 2).toNat with
    | 0 => some (.cmpEq d a b (w.extractLsb' 2 6))
    | 1 => some (.cmpNe d a b (w.extractLsb' 2 6))
    | 2 => some (.cmpLt d a b (w.extractLsb' 2 6))
    | _ => some (.cmpLtw d a b (w.extractLsb' 2 6))
  | 0x29 =>
    match (w.extractLsb' 0 2).toNat with
    | 0 => some (.cmpGe d a b (w.extractLsb' 2 6))
    | 1 => some (.cmpGew d a b (w.extractLsb' 2 6))
    | 2 => some (.cmpTst d a b (w.extractLsb' 2 6))
    | _ => some (.cmpTstz d a b (w.extractLsb' 2 6))
  | 0x2A => if w.extractLsb' 0 2 = 0 then some (.bext d a b (w.extractLsb' 2 6)) else none
  | 0x2B => if w.extractLsb' 0 2 = 0 then some (.bins d a b (w.extractLsb' 2 6)) else none
  | 0x2C => some (.ld d a (w.extractLsb' 12 2) (w.extractLsb' 0 12))
  | 0x2D => some (.lds d a (w.extractLsb' 12 2) (w.extractLsb' 0 12))
  | 0x2E => some (.st d a (w.extractLsb' 12 2) (w.extractLsb' 0 12))
  | 0x2F => some (.addr d a b (w.extractLsb' 6 2) (w.extractLsb' 0 6))
  | 0x38 =>
    if w.extractLsb' 11 1 = 1 then some (.semw d (w.extractLsb' 12 8) (w.extractLsb' 0 11))
    else if w.extractLsb' 0 5 = 0 then some (.semwReg d (w.extractLsb' 12 8) (w.extractLsb' 5 6)) else none
  | 0x39 =>
    if w.extractLsb' 11 1 = 1 then some (.semp d (w.extractLsb' 12 8) (w.extractLsb' 0 11))
    else if w.extractLsb' 0 5 = 0 then some (.sempReg d (w.extractLsb' 12 8) (w.extractLsb' 5 6)) else none
  | 0x3A =>
    if w.extractLsb' 0 24 ≠ 0 then none else
    match (w.extractLsb' 24 2).toNat with
    | 0 => some .brf
    | 1 => some .brfCall
    | 2 => some .brfRet
    | _ => none
  | 0x3B => if w = 0xEC000000#32 then some .rfjoin else if w = 0xEC100000#32 then some .rfret else none
  | 0x3F => sysInstr w
  | _ => none

/-- The majors of C (R108). -/
def rawC (w : W32) : Option Instr :=
  let d := fD w
  match fMajor w with
  | 0x00 => if w.extractLsb' 0 10 = 0 then some (.prep (w.extractLsb' 23 3) (w.extractLsb' 10 13)) else none
  | 0x01 =>
    if w.extractLsb' 0 4 ≠ 0 then none else
    let bb : BitVec 3 := w.extractLsb' 21 3
    let g : Reg := w.extractLsb' 15 6
    let i : BitVec 6 := w.extractLsb' 9 6
    let s : Bool := w.getLsbD 8
    let m : BitVec 3 := w.extractLsb' 4 3
    if w.getLsbD 7 then
      if w.extractLsb' 8 13 ≠ 0 then none else
      match (w.extractLsb' 24 2).toNat with
      | 0 => some (.brUncond bb m)
      | 1 => some (.callUncond bb m)
      | 2 => if bb = 0 then some (.retUncond m) else none
      | _ => none
    else
      match (w.extractLsb' 24 2).toNat with
      | 0 => some (.br bb g i s m)
      | 1 => some (.call bb g i s m)
      | 2 => if bb = 0 then some (.ret g i s m) else none
      | _ => none
  | 0x02 =>
    if w.extractLsb' 0 2 = 0 then
      some (.loopb d (w.extractLsb' 13 7) (w.extractLsb' 10 3) (w.extractLsb' 6 4) (w.extractLsb' 2 4))
    else none
  | 0x03 => if fFunc w = 0 then some (.csrr d (fIdx w)) else none
  | 0x04 => if fFunc w = 0 then some (.csrw d (fIdx w)) else none
  | 0x05 => if w.extractLsb' 0 15 = 0 then some (.binit d (w.extractLsb' 15 5)) else none
  | 0x06 => if w.extractLsb' 0 15 = 0 then some (.barv d (w.extractLsb' 15 5)) else none
  | 0x07 => if w.extractLsb' 0 15 = 0 then some (.bwt d (w.extractLsb' 15 5)) else none
  | 0x08 => if d = 0 then some (.refine (fA w) (fImm14 w)) else none
  | 0x09 => if fFunc w = 0 then some (.launch d (fA w) (fB w)) else none
  | 0x0A => if fFunc w = 0 then some (.mcw d (fIdx w)) else none
  | 0x0B => if w.extractLsb' 0 26 = 0 then some .rett else none
  | _ => none

/-- The majors of A (R108, R158, R162). -/
def rawA (w : W32) : Option Instr :=
  let d := fD w
  let s : BitVec 2 := w.extractLsb' 18 2
  match fMajor w with
  | 0x00 => if w.extractLsb' 0 18 = 0 then some (.mvx d s) else none
  | 0x01 => if w.extractLsb' 0 18 = 0 then some (.mvq d s) else none
  | 0x02 => if w.extractLsb' 0 18 = 0 then some (.mva d s) else none
  | 0x03 => if w.extractLsb' 0 18 = 0 then some (.mvw d s) else none
  | 0x04 => some (.tdef d (fA w) (w.extractLsb' 6 8) (w.extractLsb' 0 6))
  | 0x05 => if d = 0 ∧ w.extractLsb' 0 4 = 0 then some (.tset (fA w) (w.extractLsb' 6 8) (w.extractLsb' 4 2)) else none
  | 0x06 => if w.extractLsb' 0 6 = 0 then some (.tget d (fA w) (w.extractLsb' 6 8)) else none
  | _ => none

/-- VARITH function codes (R225). -/
def varithInstr (d a b : Reg) (t : BitVec 4) (f : Nat) : Option Instr :=
  match f with
  | 0x0 => some (.vadd d a b t) | 0x1 => some (.vsub d a b t) | 0x2 => some (.vmul d a b t)
  | 0x3 => some (.vmin d a b t) | 0x4 => some (.vmax d a b t)
  | 0x5 => if b = 0 then some (.vabs d a t) else none
  | 0x6 => if b = 0 then some (.vneg d a t) else none
  | 0x7 => some (.vand d a b t) | 0x8 => some (.vor d a b t) | 0x9 => some (.vxor d a b t)
  | 0xA => some (.vshl d a b t) | 0xB => some (.vshr d a b t) | 0xC => some (.vsra d a b t)
  | 0xD => some (.vadds d a b t) | 0xE => some (.vsubs d a b t)
  | _ => none

/-- The majors of V (R108, R220); `c` is the continuation word of the VX forms. -/
def rawV (w c : W32) : Option Instr :=
  let d := fD w
  let a := fA w
  let b := fB w
  let t := fType w
  let f := fMod w
  let vc : Reg := c.extractLsb' 26 6
  let t2 : BitVec 4 := c.extractLsb' 22 4
  let dyn : Bool := c.getLsbD 21
  let rm : BitVec 3 := c.extractLsb' 18 3
  let p : BitVec 3 := c.extractLsb' 15 3
  let low := c.extractLsb' 0 15 = 0
  match fMajor w with
  | 0x00 => some (.vld d a (fImm14 w))
  | 0x01 => some (.vst d a (fImm14 w))
  | 0x02 => if w.extractLsb' 0 6 = 0 then some (.vldt d a (w.extractLsb' 6 8)) else none
  | 0x03 => if w.extractLsb' 0 6 = 0 then some (.vstt d a (w.extractLsb' 6 8)) else none
  | 0x04 =>
    match f.toNat with
    | 0 => if b = 0 then some (.vmov d a t) else none
    | 1 => if b = 0 then some (.vsplat d a t) else none
    | 2 => some (.vmovs d a b t)
    | _ => none
  | 0x05 => varithInstr d a b t f.toNat
  | 0x06 =>
    if low ∧ p = 0 then
      match f.toNat with
      | 0 => some (.vfma d a b vc t t2 dyn rm)
      | 1 => some (.vfms d a b vc t t2 dyn rm)
      | _ => none
    else none
  | 0x07 => some (.vcmp d a b t f)
  | 0x08 => if f = 0 then some (.vsel d a b t) else none
  | 0x09 => if low ∧ p = 0 ∧ f = 0 ∧ b = 0 ∧ vc = 0 then some (.vcvt d a t t2 dyn rm) else none
  | 0x0A => if low ∧ p = 0 ∧ f = 0 ∧ b = 0 ∧ vc = 0 then some (.vwid d a t t2 dyn rm) else none
  | 0x0B => if low ∧ p = 0 ∧ f = 0 ∧ b = 0 ∧ vc = 0 then some (.vnar d a t t2 dyn rm) else none
  | 0x0C => if low ∧ f = 0 ∧ vc = 0 then some (.vscl d a b t t2 dyn rm p) else none
  | 0x0D => if b = 0 then some (.vamax d a t f) else none
  | 0x0E => if low ∧ f = 0 ∧ vc = 0 then some (.vqnt d a b t t2 dyn rm p) else none
  | 0x0F =>
    if b ≠ 0 then none else
    match f.toNat with
    | 0 => some (.vrcp d a t)
    | 1 => some (.vsqrt d a t)
    | 2 => some (.vrsq d a t)
    | 3 => some (.vexp2 d a t)
    | 4 => some (.vlog2 d a t)
    | _ => none
  | 0x10 => if low ∧ p = 0 ∧ f = 0 ∧ t2 = 0 ∧ !dyn ∧ rm = 0 then some (.vperm d a b vc t) else none
  | 0x11 => if b = 0 then some (.vred d a t f) else none
  | 0x12 => if b = 0 ∧ !w.getLsbD 3 then some (.vscan d a t (w.getLsbD 2) (w.extractLsb' 0 2)) else none
  | 0x13 => if f = 0 then some (.vbcst d a b t) else none
  | 0x14 =>
    if b ≠ 0 then none else
    match f.toNat with
    | 0 => some (.vvoteAny d a t)
    | 1 => some (.vvoteAll d a t)
    | _ => none
  | 0x15 => if b = 0 ∧ t = 0 ∧ !w.getLsbD 3 then some (.vbnet d a (w.extractLsb' 0 3)) else none
  | 0x16 => some (.vbpat d a (fImm14 w))
  | 0x17 => if d = 0 then some (.vchain a (fImm14 w)) else none
  | 0x18 => if a = 0 ∧ t = 0 then some (.vmvl d b f) else none
  | 0x19 => if low ∧ p = 0 ∧ f = 0 ∧ !dyn ∧ rm = 0 then some (.vdot d a b vc t t2) else none
  | _ => none

/-- The majors of M (R108, R265, R268, R269, R275). -/
def rawM (w : W32) : Option Instr :=
  let d := fD w
  let a := fA w
  let z0 := w.extractLsb' 0 20 = 0
  let f := (fFunc w).toNat
  match fMajor w with
  | 0x00 => if w = 0x00000000#32 then some .mgo else if w = 0x00000001#32 then some .mgoKeep else none
  | 0x01 => if w = 0x04000000#32 then some .mma else if w = 0x04000001#32 then some .mmaRst else none
  | 0x02 =>
    if fFunc w ≠ 0 then none
    else if w.getLsbD 19 then some (.mcfgSh d (w.extractLsb' 8 11)) else some (.mcfg d (w.extractLsb' 8 11))
  | 0x03 => if z0 then some (.azero d) else none
  | 0x04 =>
    if fB w ≠ 0 then none else
    match f with
    | 0 => some (.astat d a)
    | 1 => some (.astatVal d a)
    | 2 => some (.astatCln d a)
    | _ => none
  | 0x05 => if z0 then some (.arel d) else none
  | 0x06 =>
    if fB w ≠ 0 then none else
    match f with
    | 0 => some (.acpyChA d a) | 1 => some (.acpyACh d a) | 2 => some (.acpyAddChA d a) | 3 => some (.acpyAddACh d a)
    | 4 => some (.acpyI32ChA d a) | 5 => some (.acpyI32ACh d a) | 6 => some (.acpyAddI32ChA d a)
    | 7 => some (.acpyAddI32ACh d a)
    | _ => none
  | 0x07 => if z0 then some (.crel d) else none
  | 0x08 =>
    if fB w ≠ 0 then none else
    match f with
    | 0 => some (.cstat d a)
    | 1 => some (.cstatClr d a)
    | _ => none
  | 0x09 => if w = 0x24000000#32 then some .malias else none
  | 0x0A => if w = 0x28000000#32 then some .msamp else none
  | 0x0B => if fFunc w = 0 then some (.msrd d (fIdx w)) else none
  | 0x0C => if fFunc w = 0 then some (.mswr d (fIdx w)) else none
  | _ => none

/-- The instruction a word spells in an engine, before its ranges are tested. -/
def rawDecode (e : Engine) (w c : W32) : Option Instr :=
  if fMajor w < 0x20 then
    match e with
    | .c => rawC w
    | .a => rawA w
    | .v => rawV w c
    | .m => rawM w
  else rawShared w c

/-- The major opcode alone decides the length: LI, and the VX majors of V, take a continuation word (R101). -/
def isLong (e : Engine) (w : W32) : Bool :=
  fMajor w == 0x27 || (e == .v && [0x06, 0x09, 0x0A, 0x0B, 0x0C, 0x0E, 0x10, 0x19].contains (fMajor w))

/-- Decoding of one instruction by engine `e`; none traps illegal instruction (R110). -/
def decodeInstr (e : Engine) (w c : W32) : Option Instr :=
  match rawDecode e w c with
  | some i => if wellFormed e i then some i else none
  | none => none

/-! ### Prefixes (R107, R109, R138, R139) -/

/-- A guard: a bit of a register with its sense, FIRST or LAST. -/
inductive Guard where
  | bit (r : Reg) (i : BitVec 6) (sense : Bool)
  | first
  | last
  deriving DecidableEq, Repr, Inhabited

inductive Pfx where
  | grd (g : Guard)
  | tok (pop push : List Engine)
  | msk (r : Reg) (inv z : Bool)
  deriving DecidableEq, Repr, Inhabited

/-- The three other engines in the order of a TOK set, high bit first (R107). -/
def othersOf : Engine → List Engine
  | .c => [.a, .v, .m] | .a => [.c, .v, .m] | .v => [.c, .a, .m] | .m => [.c, .a, .v]

/-- The engines a 3-bit TOK set names. -/
def tokSet (e : Engine) (x : BitVec 3) : List Engine :=
  ((othersOf e).zip [x.getLsbD 2, x.getLsbD 1, x.getLsbD 0] |>.filter (·.2)).map (·.1)

/-- Is the major one of the three prefixes (R107)? -/
def isPfx (w : W32) : Bool := fMajor w == 0x3C || fMajor w == 0x3D || fMajor w == 0x3E

/-- Decoding of a prefix; none traps illegal instruction (R105, R110, R138, R207, R260). -/
def decodePfx (e : Engine) (w : W32) : Option Pfx :=
  match fMajor w with
  | 0x3C =>
    if w.extractLsb' 0 11 ≠ 0 then none else
    let r : Reg := w.extractLsb' 18 6
    match (w.extractLsb' 24 2).toNat with
    | 0 => if sReg e r then some (.grd (.bit r (w.extractLsb' 12 6) (w.getLsbD 11))) else none
    | 1 => if w.extractLsb' 11 13 = 0 then some (.grd .first) else none
    | 2 => if w.extractLsb' 11 13 = 0 then some (.grd .last) else none
    | _ => none
  | 0x3D =>
    if w.extractLsb' 0 20 = 0 then some (.tok (tokSet e (w.extractLsb' 23 3)) (tokSet e (w.extractLsb' 20 3))) else none
  | 0x3E =>
    if w.extractLsb' 0 18 ≠ 0 then none else
    let r := fD w
    match e with
    | .v => if r = 63 then none else some (.msk r (w.getLsbD 19) (w.getLsbD 18))
    | .m => if r.toNat < 60 then some (.msk r (w.getLsbD 19) (w.getLsbD 18)) else none
    | _ => none
  | _ => none

/-- Instructions that accept MSK (R207, R226, R260). -/
def maskable : Instr → Bool
  | .vld .. | .vst .. | .vldt .. | .vstt .. | .vmov .. | .vsplat .. | .vadd .. | .vsub .. | .vmul .. | .vmin ..
  | .vmax .. | .vabs .. | .vneg .. | .vand .. | .vor .. | .vxor .. | .vshl .. | .vshr .. | .vsra .. | .vadds ..
  | .vsubs .. | .vcmp .. | .vsel .. | .vcvt .. | .vscl .. | .vamax .. | .vqnt .. | .vrcp .. | .vsqrt .. | .vrsq ..
  | .vexp2 .. | .vlog2 .. | .vperm .. | .vbcst .. | .vred .. | .vscan .. | .vvoteAny .. | .vvoteAll .. | .vdot ..
  | .mgo | .mgoKeep | .mma | .mmaRst => true
  | .vfma _ _ _ _ t t2 _ _ | .vfms _ _ _ _ t t2 _ _ => t == t2
  | _ => false

/-! ### Chain entries (R168-R192) -/

/-- A byte, a little-endian field, of an entry. -/
def entByte (b : List Byte) (o : Nat) : Byte := b.getD o 0
def ent16 (b : List Byte) (o : Nat) : BitVec 16 := entByte b (o + 1) ++ entByte b o
def ent32 (b : List Byte) (o : Nat) : W32 := ent16 b (o + 2) ++ ent16 b o
def ent64 (b : List Byte) (o : Nat) : W := ent32 b (o + 4) ++ ent32 b o

/-- The bytes `lo..hi-1` are zero. -/
def entZero (b : List Byte) (lo hi : Nat) : Bool := ((b.drop lo).take (hi - lo)).all (· == 0)

/-- The header's reserved bits are zero (R168). -/
def entHdrZero (b : List Byte) : Bool :=
  !(entByte b 1).getLsbD 7 && (entByte b 3).extractLsb' 2 6 == 0 && !(entByte b 10).getLsbD 7
    && (ent32 b 12).extractLsb' 23 9 == 0

/-- The header of a data entry (R168). -/
def entHdr (b : List Byte) : EntHdr :=
  let fl := entByte b 1
  let sp := entByte b 2
  { acq := fl.getLsbD 0, rel := fl.getLsbD 1, fill := fl.getLsbD 2, drain := fl.getLsbD 3, post := fl.getLsbD 4,
    norm := fl.getLsbD 5, naxis := fl.getLsbD 6,
    spS := sp.extractLsb' 0 2, spD := sp.extractLsb' 2 2, spX := sp.extractLsb' 4 2, spY := sp.extractLsb' 6 2,
    esz := (entByte b 3).extractLsb' 0 2, ftile := entByte b 4, dtile := entByte b 5, every := ent16 b 6,
    sem := (ent32 b 8).extractLsb' 0 23, cnt := entByte b 11, normoff := (ent32 b 12).extractLsb' 0 23 }

/-- The entry that 64 bytes spell; none when a reserved code or field makes it malformed (R168-R192). Bytes and bits that no
field table names must be zero (log 71). -/
def rawEntry (b : List Byte) : Option Instr :=
  let h := entHdr b
  let z := entZero b
  let ctl := z 1 16
  match (entByte b 0).toNat with
  | 0x01 => some (.copy h (ent64 b 0x10) (ent64 b 0x18) (ent16 b 0x20) (ent16 b 0x22) (ent16 b 0x24) (ent16 b 0x26)
      (ent32 b 0x28) (ent32 b 0x2C) (ent32 b 0x30) (ent32 b 0x34) (ent32 b 0x38) (ent32 b 0x3C))
  | 0x02 => if z 0x39 64 then some (.gath h (ent64 b 0x10) (ent64 b 0x18) (ent64 b 0x20) (ent32 b 0x28) (ent32 b 0x2C)
      (ent64 b 0x30) (entByte b 0x38)) else none
  | 0x03 => if z 0x39 64 then some (.scat h (ent64 b 0x10) (ent64 b 0x18) (ent64 b 0x20) (ent32 b 0x28) (ent32 b 0x2C)
      (ent64 b 0x30) (entByte b 0x38)) else none
  | 0x04 => if z 0x38 64 then some (.xpose h (ent64 b 0x10) (ent64 b 0x18) (ent32 b 0x20) (ent32 b 0x24) (ent64 b 0x28)
      (ent64 b 0x30)) else none
  | 0x05 =>
    if z 0x34 0x38 && (ent32 b 0x2C).extractLsb' 23 9 == 0 && (entByte b 0x30).extractLsb' 6 2 == 0
        && (entByte b 0x31).extractLsb' 3 5 == 0 then
      some (.conv h (ent64 b 0x10) (ent64 b 0x18) (ent64 b 0x20) (ent32 b 0x28) ((ent32 b 0x2C).extractLsb' 0 23)
        ((entByte b 0x30).extractLsb' 0 4) ((entByte b 0x30).getLsbD 4) ((entByte b 0x30).getLsbD 5)
        ((entByte b 0x31).extractLsb' 0 3) (ent16 b 0x32) (ent64 b 0x38))
    else none
  | 0x06 => if z 0x24 64 then some (.decomp h (ent64 b 0x10) (ent64 b 0x18) (ent32 b 0x20)) else none
  | 0x07 =>
    if z 0x35 0x38 && (entByte b 0x34).extractLsb' 3 5 == 0 then
      some (.cmprs h (ent64 b 0x10) (ent64 b 0x18) (ent64 b 0x20) (ent64 b 0x28) (ent32 b 0x30)
        ((entByte b 0x34).extractLsb' 0 3) (ent64 b 0x38))
    else none
  | 0x08 => if z 0x25 64 then some (.mcast h (ent64 b 0x10) (ent64 b 0x18) (ent32 b 0x20) (entByte b 0x24)) else none
  | 0x09 =>
    if z 0x27 64 && (entByte b 0x25).extractLsb' 3 5 == 0 then
      some (.red h (ent64 b 0x10) (ent64 b 0x18) (ent32 b 0x20) (entByte b 0x24) ((entByte b 0x25).extractLsb' 0 2)
        ((entByte b 0x25).getLsbD 2) (entByte b 0x26))
    else none
  | 0x0A => if z 0x10 0x18 && z 0x24 0x28 && z 0x30 64 then some (.fill h (ent64 b 0x18) (ent32 b 0x20) (ent64 b 0x28)) else none
  | 0x0B =>
    if z 0x10 0x18 && z 0x35 64 && (ent32 b 0x30).extractLsb' 23 9 == 0 && (entByte b 0x34).extractLsb' 4 4 == 0 then
      some (.atom h (ent64 b 0x18) (ent64 b 0x20) (ent64 b 0x28) ((ent32 b 0x30).extractLsb' 0 23)
        ((entByte b 0x34).extractLsb' 0 3) ((entByte b 0x34).getLsbD 3))
    else none
  | 0x0C => if z 0x10 0x18 && z 0x24 64 then some (.sempr h (ent64 b 0x18) (ent32 b 0x20)) else none
  | 0x0D => if z 0x13 64 && (entByte b 0x12).extractLsb' 1 7 == 0 then
      some (.flipv h (entByte b 0x10) (entByte b 0x11) ((entByte b 0x12).getLsbD 0)) else none
  | 0x0E => if z 0x10 0x18 && z 0x28 64 then some (.pref h (ent64 b 0x18) (ent64 b 0x20)) else none
  | 0x20 => if ctl && z 0x14 0x18 && z 0x30 64 then
      some (.loop (ent32 b 0x10) (ent64 b 0x18) (ent64 b 0x20) (ent64 b 0x28)) else none
  | 0x21 => if ctl && z 0x10 64 then some .endl else none
  | 0x22 => if ctl && (ent32 b 0x10).extractLsb' 23 9 == 0 && z 0x1C 64 then
      some (.ifsem ((ent32 b 0x10).extractLsb' 0 23) (ent32 b 0x14) (ent32 b 0x18)) else none
  | 0x23 => if ctl && (ent32 b 0x10).extractLsb' 23 9 == 0 && z 0x18 64 then
      some (.waits ((ent32 b 0x10).extractLsb' 0 23) (ent32 b 0x14)) else none
  | 0x24 => if ctl && z 0x14 64 then some (.jmp (ent32 b 0x10)) else none
  | 0x25 => if ctl && z 0x12 64 then some (.chainFence (entByte b 0x10) (entByte b 0x11)) else none
  | 0x26 => if ctl && z 0x10 64 then some .chainEnd else none
  | _ => none

/-- Is the KIND a data command's (R169)? -/
def isDataKind (b : List Byte) : Bool := decide ((entByte b 0).toNat < 0x20)

/-- Decoding of one 64-byte entry; none is a malformed entry (R174). -/
def decodeEntry (b : List Byte) : Option Instr :=
  match rawEntry b with
  | some i => if entryOk i && (!isDataKind b || entHdrZero b) then some i else none
  | none => none

/-! ### The encoder -/

def eALU (f : BitVec 8) (d a b : Reg) : List W32 := [pRR 0x20 d a b f]

/-- The words of an engine instruction, from the tables of R103 to R108, R220 and R265; none for other rows. -/
def encode : Instr → List W32
  | .add d a b => eALU 0x00 d a b | .sub d a b => eALU 0x01 d a b | .and d a b => eALU 0x02 d a b
  | .or d a b => eALU 0x03 d a b | .xor d a b => eALU 0x04 d a b | .shl d a b => eALU 0x05 d a b
  | .shr d a b => eALU 0x06 d a b | .sra d a b => eALU 0x07 d a b | .min d a b => eALU 0x08 d a b
  | .max d a b => eALU 0x09 d a b | .minw d a b => eALU 0x0A d a b | .maxw d a b => eALU 0x0B d a b
  | .mul d a b => eALU 0x0C d a b | .mulh d a b => eALU 0x0D d a b | .mulhw d a b => eALU 0x0E d a b
  | .div d a b => eALU 0x0F d a b | .divw d a b => eALU 0x10 d a b | .rem d a b => eALU 0x11 d a b
  | .remw d a b => eALU 0x12 d a b | .clz d a => eALU 0x13 d a 0 | .popc d a => eALU 0x14 d a 0
  | .sel d a b => eALU 0x15 d a b
  | .addi d a i => [pRI 0x21 d a i] | .andi d a i => [pRI 0x22 d a i] | .ori d a i => [pRI 0x23 d a i]
  | .xori d a i => [pRI 0x24 d a i]
  | .shli d a s => [pRS 0x25 d a 0 s] | .shri d a s => [pRS 0x25 d a 1 s] | .srai d a s => [pRS 0x25 d a 2 s]
  | .lui d i => [(0x26 : BitVec 6) ++ d ++ i]
  | .li d i => [(0x27 : BitVec 6) ++ d ++ i.extractLsb' 32 20, i.extractLsb' 0 32]
  | .cmpEq d a b p => [pCM 0x28 d a b p 0] | .cmpNe d a b p => [pCM 0x28 d a b p 1]
  | .cmpLt d a b p => [pCM 0x28 d a b p 2] | .cmpLtw d a b p => [pCM 0x28 d a b p 3]
  | .cmpGe d a b p => [pCM 0x29 d a b p 0] | .cmpGew d a b p => [pCM 0x29 d a b p 1]
  | .cmpTst d a b p => [pCM 0x29 d a b p 2] | .cmpTstz d a b p => [pCM 0x29 d a b p 3]
  | .bext d a p w => [pBF 0x2A d a p w] | .bins d a p w => [pBF 0x2B d a p w]
  | .ld d b z i => [pWA 0x2C d b z i] | .lds d b z i => [pWA 0x2D d b z i] | .st d b z i => [pWA 0x2E d b z i]
  | .addr d a b h i => [pAX 0x2F d a b h i]
  | .semw b o n => [pSMI 0x38 b o n] | .semwReg b o r => [pSMR 0x38 b o r]
  | .semp b o n => [pSMI 0x39 b o n] | .sempReg b o r => [pSMR 0x39 b o r]
  | .brf => [0xE8000000#32] | .brfCall => [0xE9000000#32] | .brfRet => [0xEA000000#32]
  | .rfjoin => [0xEC000000#32] | .rfret => [0xEC100000#32] | .nop => [0xFC000000#32] | .endEngine => [0xFC100000#32]
  | .fence f s => [pSY 0x02 (f ++ s ++ (0 : BitVec 10))]
  | .trap c => [pSY 0x03 ((0 : BitVec 4) ++ c)]
  | .send r e => [pSY 0x04 (r ++ engNum e ++ (0 : BitVec 12))]
  | .recv r e => [pSY 0x05 (r ++ engNum e ++ (0 : BitVec 12))]
  | .prep b o => [(0x00 : BitVec 6) ++ b ++ o ++ (0 : BitVec 10)]
  | .br b g i s m => [pBC 0 b g i s false m] | .brUncond b m => [pBC 0 b 0 0 false true m]
  | .call b g i s m => [pBC 1 b g i s false m] | .callUncond b m => [pBC 1 b 0 0 false true m]
  | .ret g i s m => [pBC 2 0 g i s false m] | .retUncond m => [pBC 2 0 0 0 false true m]
  | .loopb g l m v w => [(0x02 : BitVec 6) ++ g ++ l ++ m ++ v ++ w ++ (0 : BitVec 2)]
  | .csrr d i => [pCS 0x03 d i] | .csrw s i => [pCS 0x04 s i]
  | .binit r p => [pBA 0x05 r p] | .barv r p => [pBA 0x06 r p] | .bwt r p => [pBA 0x07 r p]
  | .refine a i => [pRI 0x08 0 a i] | .launch d a b => [pRR 0x09 d a b 0] | .mcw s i => [pCS 0x0A s i]
  | .rett => [0x2C000000#32]
  | .mvx k s => [pMV 0x00 k s] | .mvq k s => [pMV 0x01 k s] | .mva k s => [pMV 0x02 k s] | .mvw k s => [pMV 0x03 k s]
  | .tdef b e i l => [pTT 0x04 b e i l] | .tset e i s => [pTT 0x05 0 e i (s ++ (0 : BitVec 4))]
  | .tget d e i => [pTT 0x06 d e i 0]
  | .vld d s i => [pRI 0x00 d s i] | .vst a s i => [pRI 0x01 a s i]
  | .vldt d r t => [pTT 0x02 d r t 0] | .vstt a r t => [pTT 0x03 a r t 0]
  | .vmov d a t => [pVR 0x04 d a 0 t 0] | .vsplat d s t => [pVR 0x04 d s 0 t 1] | .vmovs d a i t => [pVR 0x04 d a i t 2]
  | .vadd d a b t => [pVR 0x05 d a b t 0x0] | .vsub d a b t => [pVR 0x05 d a b t 0x1]
  | .vmul d a b t => [pVR 0x05 d a b t 0x2] | .vmin d a b t => [pVR 0x05 d a b t 0x3]
  | .vmax d a b t => [pVR 0x05 d a b t 0x4] | .vabs d a t => [pVR 0x05 d a 0 t 0x5]
  | .vneg d a t => [pVR 0x05 d a 0 t 0x6] | .vand d a b t => [pVR 0x05 d a b t 0x7]
  | .vor d a b t => [pVR 0x05 d a b t 0x8] | .vxor d a b t => [pVR 0x05 d a b t 0x9]
  | .vshl d a b t => [pVR 0x05 d a b t 0xA] | .vshr d a b t => [pVR 0x05 d a b t 0xB]
  | .vsra d a b t => [pVR 0x05 d a b t 0xC] | .vadds d a b t => [pVR 0x05 d a b t 0xD]
  | .vsubs d a b t => [pVR 0x05 d a b t 0xE]
  | .vfma d a b c t t2 dyn rm => [pVR 0x06 d a b t 0, pVXc c t2 dyn rm 0]
  | .vfms d a b c t t2 dyn rm => [pVR 0x06 d a b t 1, pVXc c t2 dyn rm 0]
  | .vcmp d a b t c => [pVR 0x07 d a b t c] | .vsel d a b t => [pVR 0x08 d a b t 0]
  | .vcvt d a t t2 dyn rm => [pVR 0x09 d a 0 t 0, pVXc 0 t2 dyn rm 0]
  | .vwid d a t t2 dyn rm => [pVR 0x0A d a 0 t 0, pVXc 0 t2 dyn rm 0]
  | .vnar d a t t2 dyn rm => [pVR 0x0B d a 0 t 0, pVXc 0 t2 dyn rm 0]
  | .vscl d a b t t2 dyn rm p => [pVR 0x0C d a b t 0, pVXc 0 t2 dyn rm p]
  | .vamax d a t f => [pVR 0x0D d a 0 t f]
  | .vqnt d a b t t2 dyn rm p => [pVR 0x0E d a b t 0, pVXc 0 t2 dyn rm p]
  | .vrcp d a t => [pVR 0x0F d a 0 t 0] | .vsqrt d a t => [pVR 0x0F d a 0 t 1] | .vrsq d a t => [pVR 0x0F d a 0 t 2]
  | .vexp2 d a t => [pVR 0x0F d a 0 t 3] | .vlog2 d a t => [pVR 0x0F d a 0 t 4]
  | .vperm d a b c t => [pVR 0x10 d a b t 0, pVXc c 0 false 0 0]
  | .vred d a t o => [pVR 0x11 d a 0 t o]
  | .vscan d a t x o => [pVR 0x12 d a 0 t ((0 : BitVec 1) ++ BitVec.ofBool x ++ o)]
  | .vbcst d a i t => [pVR 0x13 d a i t 0]
  | .vvoteAny d a t => [pVR 0x14 d a 0 t 0] | .vvoteAll d a t => [pVR 0x14 d a 0 t 1]
  | .vbnet d a p => [pVR 0x15 d a 0 0 ((0 : BitVec 1) ++ p)]
  | .vbpat p s i => [pRI 0x16 p s i] | .vchain s i => [pRI 0x17 0 s i] | .vmvl d p u => [pVR 0x18 d 0 p 0 u]
  | .vdot d a b c t t2 => [pVR 0x19 d a b t 0, pVXc c t2 false 0 0]
  | .mgo => [0x00000000#32] | .mgoKeep => [0x00000001#32] | .mma => [0x04000000#32] | .mmaRst => [0x04000001#32]
  | .mcfg d i => [pCS 0x02 d ((0 : BitVec 1) ++ i)] | .mcfgSh d i => [pCS 0x02 d ((1 : BitVec 1) ++ i)]
  | .azero n => [pRR 0x03 n 0 0 0]
  | .astat d n => [pRR 0x04 d n 0 0] | .astatVal d n => [pRR 0x04 d n 0 1] | .astatCln d n => [pRR 0x04 d n 0 2]
  | .arel n => [pRR 0x05 n 0 0 0]
  | .acpyChA d s => [pRR 0x06 d s 0 0] | .acpyACh d s => [pRR 0x06 d s 0 1]
  | .acpyAddChA d s => [pRR 0x06 d s 0 2] | .acpyAddACh d s => [pRR 0x06 d s 0 3]
  | .acpyI32ChA d s => [pRR 0x06 d s 0 4] | .acpyI32ACh d s => [pRR 0x06 d s 0 5]
  | .acpyAddI32ChA d s => [pRR 0x06 d s 0 6] | .acpyAddI32ACh d s => [pRR 0x06 d s 0 7]
  | .crel n => [pRR 0x07 n 0 0 0] | .cstat d n => [pRR 0x08 d n 0 0] | .cstatClr d n => [pRR 0x08 d n 0 1]
  | .malias => [0x24000000#32] | .msamp => [0x28000000#32]
  | .msrd d i => [pCS 0x0B d i] | .mswr s i => [pCS 0x0C s i]
  | _ => []

/-- Little-endian bytes of a word. -/
def wordBytes (n : Nat) (x : BitVec n) : List Byte := (List.range (n / 8)).map (fun i => x.extractLsb' (8 * i) 8)

/-- The sixteen header bytes of a data entry (R168). -/
def hdrBytes (kind : Byte) (h : EntHdr) : List Byte :=
  [kind,
   (0 : BitVec 1) ++ BitVec.ofBool h.naxis ++ BitVec.ofBool h.norm ++ BitVec.ofBool h.post ++ BitVec.ofBool h.drain
     ++ BitVec.ofBool h.fill ++ BitVec.ofBool h.rel ++ BitVec.ofBool h.acq,
   h.spY ++ h.spX ++ h.spD ++ h.spS,
   (0 : BitVec 6) ++ h.esz, h.ftile, h.dtile]
  ++ wordBytes 16 h.every ++ wordBytes 32 (h.cnt ++ ((0 : BitVec 1) ++ h.sem)) ++ wordBytes 32 ((0 : BitVec 9) ++ h.normoff)

/-- `n` zero bytes. -/
def zb (n : Nat) : List Byte := List.replicate n 0

/-- The 64 bytes of a chain entry (R168-R192); none for other rows. -/
def encodeEntry : Instr → List Byte
  | .copy h s d n0 n1 n2 n3 a b c x y z => hdrBytes 0x01 h ++ wordBytes 64 s ++ wordBytes 64 d ++ wordBytes 16 n0
      ++ wordBytes 16 n1 ++ wordBytes 16 n2 ++ wordBytes 16 n3 ++ wordBytes 32 a ++ wordBytes 32 b ++ wordBytes 32 c
      ++ wordBytes 32 x ++ wordBytes 32 y ++ wordBytes 32 z
  | .gath h s d x n r t i => hdrBytes 0x02 h ++ wordBytes 64 s ++ wordBytes 64 d ++ wordBytes 64 x ++ wordBytes 32 n
      ++ wordBytes 32 r ++ wordBytes 64 t ++ [i] ++ zb 7
  | .scat h s d x n r t i => hdrBytes 0x03 h ++ wordBytes 64 s ++ wordBytes 64 d ++ wordBytes 64 x ++ wordBytes 32 n
      ++ wordBytes 32 r ++ wordBytes 64 t ++ [i] ++ zb 7
  | .xpose h s d r c ss ds => hdrBytes 0x04 h ++ wordBytes 64 s ++ wordBytes 64 d ++ wordBytes 32 r ++ wordBytes 32 c
      ++ wordBytes 64 ss ++ wordBytes 64 ds ++ zb 8
  | .conv h s d x n sm f bf sth rm sl seed => hdrBytes 0x05 h ++ wordBytes 64 s ++ wordBytes 64 d ++ wordBytes 64 x
      ++ wordBytes 32 n ++ wordBytes 32 ((0 : BitVec 9) ++ sm)
      ++ [(0 : BitVec 2) ++ BitVec.ofBool sth ++ BitVec.ofBool bf ++ f, (0 : BitVec 5) ++ rm] ++ wordBytes 16 sl
      ++ zb 4 ++ wordBytes 64 seed
  | .decomp h s d n => hdrBytes 0x06 h ++ wordBytes 64 s ++ wordBytes 64 d ++ wordBytes 32 n ++ zb 28
  | .cmprs h s d x y n rm seed => hdrBytes 0x07 h ++ wordBytes 64 s ++ wordBytes 64 d ++ wordBytes 64 x ++ wordBytes 64 y
      ++ wordBytes 32 n ++ [(0 : BitVec 5) ++ rm] ++ zb 3 ++ wordBytes 64 seed
  | .mcast h s x n nd => hdrBytes 0x08 h ++ wordBytes 64 s ++ wordBytes 64 x ++ wordBytes 32 n ++ [nd] ++ zb 27
  | .red h x d n ns op acc t => hdrBytes 0x09 h ++ wordBytes 64 x ++ wordBytes 64 d ++ wordBytes 32 n
      ++ [ns, (0 : BitVec 5) ++ BitVec.ofBool acc ++ op, t] ++ zb 25
  | .fill h d n v => hdrBytes 0x0A h ++ zb 8 ++ wordBytes 64 d ++ wordBytes 32 n ++ zb 4 ++ wordBytes 64 v ++ zb 16
  | .atom h d o c r op w => hdrBytes 0x0B h ++ zb 8 ++ wordBytes 64 d ++ wordBytes 64 o ++ wordBytes 64 c
      ++ wordBytes 32 ((0 : BitVec 9) ++ r) ++ [(0 : BitVec 4) ++ BitVec.ofBool w ++ op] ++ zb 11
  | .sempr h d a => hdrBytes 0x0C h ++ zb 8 ++ wordBytes 64 d ++ wordBytes 32 a ++ zb 28
  | .flipv h r v i => hdrBytes 0x0D h ++ [r, v, (0 : BitVec 7) ++ BitVec.ofBool i] ++ zb 45
  | .pref h d l => hdrBytes 0x0E h ++ zb 8 ++ wordBytes 64 d ++ wordBytes 64 l ++ zb 24
  | .loop n ds dd dx => [0x20] ++ zb 15 ++ wordBytes 32 n ++ zb 4 ++ wordBytes 64 ds ++ wordBytes 64 dd ++ wordBytes 64 dx
      ++ zb 16
  | .endl => [0x21] ++ zb 63
  | .ifsem a n k => [0x22] ++ zb 15 ++ wordBytes 32 ((0 : BitVec 9) ++ a) ++ wordBytes 32 n ++ wordBytes 32 k ++ zb 36
  | .waits a n => [0x23] ++ zb 15 ++ wordBytes 32 ((0 : BitVec 9) ++ a) ++ wordBytes 32 n ++ zb 40
  | .jmp o => [0x24] ++ zb 15 ++ wordBytes 32 o ++ zb 44
  | .chainFence k s => [0x25] ++ zb 15 ++ [k, s] ++ zb 46
  | .chainEnd => [0x26] ++ zb 63
  | _ => []

/-! ### The table's words -/

/-- How many bits of a word's instruction the opcode table fixes, by constructor: used only to choose among the four
engines' readings of one word, which share their majors (R108). -/
def fixedBits : Instr → Nat
  | .clz .. | .popc .. => 20 | .shli .. | .shri .. | .srai .. => 14
  | .semw .. | .semp .. => 7 | .semwReg .. | .sempReg .. => 12
  | .brf | .brfCall | .brfRet | .rfjoin | .rfret | .nop | .endEngine | .rett | .mgo | .mgoKeep | .mma | .mmaRst
  | .malias | .msamp => 32
  | .fence .. => 22 | .trap _ => 16 | .send .. | .recv .. => 24
  | .prep .. => 16 | .br .. | .call .. => 13 | .brUncond .. | .callUncond .. => 26 | .ret .. => 16 | .retUncond _ => 29
  | .loopb .. => 8 | .csrr .. | .csrw .. | .mcw .. | .msrd .. | .mswr .. => 14 | .binit .. | .barv .. | .bwt .. => 21
  | .refine .. => 12 | .launch .. => 14
  | .mvx .. | .mvq .. | .mva .. | .mvw .. => 24 | .tset .. => 16 | .tget .. => 12
  | .vldt .. | .vstt .. => 12 | .vmov .. | .vsplat .. | .vabs .. | .vneg .. | .vrcp .. | .vsqrt .. | .vrsq .. | .vexp2 ..
  | .vlog2 .. | .vvoteAny .. | .vvoteAll .. => 16
  | .vmovs .. | .vadd .. | .vsub .. | .vmul .. | .vmin .. | .vmax .. | .vand .. | .vor .. | .vxor .. | .vshl .. | .vshr ..
  | .vsra .. | .vadds .. | .vsubs .. | .vsel .. | .vbcst .. => 10
  | .vamax .. | .vred .. => 12 | .vscan .. => 13 | .vbnet .. => 17 | .vchain .. => 12 | .vmvl .. => 16
  | .mcfg .. | .mcfgSh .. => 15 | .azero _ | .arel _ | .crel _ => 26
  | .astat .. | .astatVal .. | .astatCln .. | .acpyChA .. | .acpyACh .. | .acpyAddChA .. | .acpyAddACh ..
  | .acpyI32ChA .. | .acpyI32ACh .. | .acpyAddI32ChA .. | .acpyAddI32ACh .. | .cstat .. | .cstatClr .. => 20
  | _ => 6

/-- The engine's reading of a word, with the number of bits its row fixes. -/
def tableRead (e : Engine) (w c : W32) : Option (Nat × Engine × Instr) :=
  (decodeInstr e w c).map (fun i => (fixedBits i, e, i))

/-- The better of two readings; the first wins a tie. -/
def tableBest (x y : Option (Nat × Engine × Instr)) : Option (Nat × Engine × Instr) :=
  match x, y with
  | none, y => y
  | some p, none => some p
  | some p, some q => if q.1 > p.1 then some q else some p

/-- The reading of a table word among the four engines, in the order C, A, V, M. -/
def tablePick (w c : W32) : Option (Nat × Engine × Instr) :=
  tableBest (tableBest (tableBest (tableRead .c w c) (tableRead .a w c)) (tableRead .v w c)) (tableRead .m w c)

/-- The first word and the continuation of a table word. -/
def tableWords (nbits w : Nat) : W32 × W32 :=
  (BitVec.ofNat 32 (w % 2 ^ nbits), BitVec.ofNat 32 (w % 2 ^ nbits / 2 ^ 32))

/-- The instruction this decoder reads from a word of the opcode table. Majors below 0x20 are shared by the engines
(R108), so one word can spell an instruction in each: the reading whose row fixes most bits is taken. -/
def decodeTableWord (nbits w : Nat) : Option Instr :=
  (tablePick (tableWords nbits w).1 (tableWords nbits w).2).map (·.2.2)

end Sys2Proof
end

