-- ==== Sys2Proof/Machine/Bits.lean ====
section
/-! DEFINITION. Bit fields, byte order and integer helpers used by every meaning (R2, R79). -/

namespace Sys2Proof
namespace Machine

/-- `n` bytes of `x`, least significant first (R2). -/
def leBytes : Nat → Nat → List Byte
  | 0, _ => []
  | n + 1, x => BitVec.ofNat 8 x :: leBytes n (x / 256)

/-- The number that bytes spell, least significant first (R2). -/
def leNat : List Byte → Nat
  | [] => 0
  | b :: r => b.toNat + 256 * leNat r

/-- `n` bytes of `x`, most significant first (the byte order of the hash and cipher standards that R324 and R358 name). -/
def beBytes (n x : Nat) : List Byte := (leBytes n x).reverse

/-- The number that bytes spell, most significant first. -/
def beNat (bs : List Byte) : Nat := leNat bs.reverse

/-- `len` bytes of `bs` from index `off`; missing bytes are absent. -/
def slice (bs : List Byte) (off len : Nat) : List Byte := (bs.drop off).take len

/-- A little-endian field of a byte string. -/
def field (bs : List Byte) (off len : Nat) : Nat := leNat (slice bs off len)

/-- A 64-bit little-endian field. -/
def field64 (bs : List Byte) (off : Nat) : W := BitVec.ofNat 64 (field bs off 8)

/-- Bits `hi..lo` of a number. -/
def bitsOf (x hi lo : Nat) : Nat := (x / 2 ^ lo) % 2 ^ (hi + 1 - lo)

/-- All bytes are zero. -/
def allZero (bs : List Byte) : Bool := bs.all (· == 0)

/-- Bit `i` of a word whose index may exceed its width (then 0). -/
def bitAt {n : Nat} (x : BitVec n) (i : Nat) : Bool := x.getLsbD i

/-- A Boolean as 0 or 1. -/
def bnat (b : Bool) : Nat := if b then 1 else 0

/-- A number of zero bits above the highest one, in 64 bits (R127). -/
def clz64 (x : W) : Nat := if x = 0 then 64 else 63 - Nat.log2 x.toNat

/-- The number of ones (R127). -/
def popcount {n : Nat} (x : BitVec n) : Nat := ((List.range n).filter (fun i => x.getLsbD i)).length

/-- Two's complement value of the low `w` bits (R79). -/
def signed (w x : Nat) : Int :=
  let y := x % 2 ^ w
  if 2 * y < 2 ^ w then (y : Int) else (y : Int) - 2 ^ w

/-- The low `w` bits of an integer (R5: assignment wraps). -/
def wrap (w : Nat) (x : Int) : Nat := (x % (2 ^ w : Int)).toNat

/-- An integer clamped to a range, and whether it moved. -/
def clamp (lo hi x : Int) : Int × Bool := if x < lo then (lo, true) else if hi < x then (hi, true) else (x, false)

/-- The smallest and largest value of an integer type of width `w` (R79). -/
def intRange (sgn : Bool) (w : Nat) : Int × Int :=
  if sgn then (-(2 ^ (w - 1) : Int), (2 ^ (w - 1) : Int) - 1) else (0, (2 ^ w : Int) - 1)

/-- Ceiling of a quotient of naturals. -/
def ceilDiv (a b : Nat) : Nat := (a + b - 1) / b

/-- Element `i` of a vector, or a given value past its end. -/
def vget {α : Type} {n : Nat} (v : Vector α n) (i : Nat) (d : α) : α := v[i]?.getD d

/-- A vector with element `i` replaced; unchanged when `i` is past its end. -/
def vset {α : Type} {n : Nat} (v : Vector α n) (i : Nat) (x : α) : Vector α n := v.setIfInBounds i x

end Machine
end Sys2Proof
end

