-- ==== Sys2Proof/Config.lean ====
section
/-! DEFINITION. What an implementation of the part fixes and the manual does not: free values (constants without a body)
and the choice of what acts next. Nothing can be proved of a value below; a claim holds whatever it is. -/

namespace Sys2Proof

/-- A storage that ECC protects (R328, R366). -/
inductive Store where
  | hbm | well (core : Fin 128) | urs (core : Fin 128) | istore (core : Fin 128) | cist (core : Fin 128)
  deriving DecidableEq, Repr, Inhabited

/-- What takes the next step: an engine of a core, a stream of a core, an event of the opcode table, or an ECC upset. -/
inductive What where
  | engine
  | stream
  | event (i : Instr)
  /-- The bytes `addr .. addr+len-1` of a store become uncorrectable (`on`), or are good again. -/
  | poison (st : Store) (addr len : Nat) (on : Bool)
  /-- A host read of `size` bytes of a BAR0 register or table (R353); they go to `reply`. -/
  | bar0Read (off : BitVec 20) (size : Nat)
  /-- A host read of Configuration space (R352). -/
  | cfgRead (size : Nat)
  /-- The firmware core executes (R6, R363). -/
  | firmware
  /-- The boot ROM has read the first image and verifies it (R355, R358). -/
  | rom
  /-- An SPDM message with no row of its own: a vendor-defined message of that CMD, or another message (R358, R361). -/
  | spdm (tr : Transport) (cmd : Option (BitVec 16))
  deriving DecidableEq, Repr, Inhabited

/-- The firmware core of the hub, RV32IMC with 256 KiB of tightly coupled memory (R6): its PC, its registers and the bytes of its
memory that are not zero. -/
structure FwCore where
  pc : W32 := 0
  x : Vector W32 32 := Vector.replicate 32 0
  tcm : List (Nat × Byte) := []
  deriving DecidableEq, Repr, Inhabited

/-- Whose step is next: the manual orders steps of different agents only as far as its rules say, so this is free. -/
structure Turn where
  core : Fin 128 := 0
  eng : Engine := .c
  stream : Fin 4 := 0
  what : What := .engine
  deriving DecidableEq, Repr, Inhabited

namespace Config

/-- FREE: whose step follows step number `t` (log 1). -/
opaque schedule : Nat → Turn
/-- FREE: how many steps pass before the next agent in the order of `fairTurn` has its turn (R73; log 82). -/
opaque patience : Nat → Nat
/-- FREE: how many ns pass in step number `t` (log 2; R23-R25 give bounds only). -/
opaque elapsedNs : Nat → Nat
/-- FREE: how many aclk the CYCLE counter advances by its next read (log 2, R149). -/
opaque cycleAdvance : Nat → Nat
/-- FREE: the read that a stream of the core at work performs ahead in step `t`, if any: stream, store, whether by the core's own
path P, and address (R195, R304). -/
opaque readAhead : Nat → Option (Fin 4 × WSpace × Bool × Nat)
/-- FREE: which bank of the free list a binding takes, as an index into the list (R58). -/
opaque freeBank : Nat → Nat
/-- FREE: the bytes of an inactive lane of a latched result (R216 gives the latch the whole result and no rule for
lanes that the mask leaves out), by step and register of the result. -/
opaque latchLane : Nat → Nat → VReg
/-- FREE: what a read of a peer package returns (R357), by step, number of the read and address. -/
opaque peerRead : Nat → Nat → W → List Byte
/-- FREE: the fault a peer package reports for an access, if any: CAUSE and LEVEL (R357), by step, number and address of the
access. -/
opaque peerFault : Nat → Nat → W → Option (Byte × Byte)
/-- FREE: the bytes of the engine-state region that a save writes (R332: its layout belongs to the device). -/
opaque engineImage : Nat → List Byte
/-- FREE: the bytes of the team block before its digest (R332). -/
opaque teamImage : Nat → List Byte
/-- FREE: VERSION and body of the handover structure that a stopping image writes (R364). -/
opaque handoverVersion : Nat → BitVec 16
opaque handoverBody : Nat → List Byte
/-- FREE: what reaches the firmware core from outside at step `t`: its image as it is loaded, or an interrupt, of which the manual says
nothing; none where it executes its next instruction (R6, R363; log 83). -/
opaque firmware : Nat → Option FwCore
/-- FREE: the firmware core after an exception, and the word that a load from outside its memory returns (R6; log 83). -/
opaque fwTrap : Nat → FwCore
opaque fwBus : Nat → W32
/-- FREE: the bytes that a read of Configuration space returns (R352 names it and gives no register of it). -/
opaque cfgSpace : Nat → List Byte
/-- FREE: the answer to an SPDM message other than those of the opcode table: their meaning is DMTF's (R358). -/
opaque otherReply : Nat → List Byte
/-- FREE: the identifier and the root of the identity key's tree (R359). -/
opaque identityKey : List Byte
/-- FREE: the hashes of an LMS signature by the identity key (R359): what it holds but for its leaf and typecodes. -/
opaque lmsSignature : Nat → List Byte
/-- FREE: a secured message after its session ID (R360): DSP0277's record of the plain message under the session's keys. -/
opaque sealRecord : Nat → List Byte → List Byte
/-- FREE: the SPDM bytes that enclose a response payload; their layout is DMTF's (R361). -/
opaque spdmWrap : List Byte → List Byte
/-- FREE: the export master secret of the SPDM session that a KEY_EXCHANGE opens (R361). -/
opaque exportSecret : Nat → List Byte
/-- FREE: whether firmware accepts a policy request (R361 RESULT 2 is the firmware's policy). -/
opaque policyAccepts : Nat → Bool
/-- FREE: FAILCODE of a failed boot (R355 gives the field and no code but 0x0001). -/
opaque failCode : Nat → W
/-- FREE: what the fuses hold (R358): the digest of the image key, and the SVN. -/
opaque fuseKey : List Byte
opaque fusedSvn : W
/-- FREE: VENDORPEN, EXTREG and EXTALG of the identity page (R355). -/
opaque vendorPen : W32
opaque extReg : Byte
opaque extAlg : BitVec 16

end Config
end Sys2Proof
end

