-- ==== Sys2Proof/Machine/State.lean ====
section
/-! DEFINITION. The state of one package, as plain data, and the state right after reset. Each field's docstring names
the rule that gives it. -/

namespace Sys2Proof
namespace Machine

/-- Sparse byte memory: addresses strictly rising, no byte 0 listed; an unlisted byte reads as 0 (log 3). -/
abbrev Memory := List (Nat × Byte)

/-- A write that some observer has not yet seen (R299, R301). Observers are bit numbers of `seen`. In a well, a URS or a
cistern: paths C 0, A 1, V 2, M 3, P 4, and core `j` through a window 8 + j, peers 136. In HBM and host memory: core `j`
as j, the front end 128, the host 129, peers 130. -/
structure PWrite where
  id : Nat
  cells : List (Nat × Byte)
  seen : Nat
  /-- In a core's store: the path whose write this is (a window write is P's, R302). -/
  path : Nat := 4
  /-- The writing core, or 128 for any other writer. -/
  core : Nat := 128
  /-- The writing stream, or 4 for an engine path or another writer. -/
  stream : Nat := 4
  /-- The number of the stream command, or 0 for another writer's. -/
  cmd : Nat := 0
  /-- Observers in the scope of the page written (R305). -/
  scope : Nat := 0
  /-- Multi-copy atomic at PACKAGE scope (R310). -/
  mca : Bool := false
  /-- Multi-copy atomic within each die (R310, an RC page). -/
  rc : Bool := true
  /-- SO page (R304). -/
  so : Bool := false
  /-- A release: the writes that must be performed at `scope` before this one is performed anywhere (R306). -/
  deps : List Nat := []
  /-- A write of the NORM tap, whose entry the command may update again (R173). -/
  tap : Bool := false
  deriving DecidableEq, Repr, Inhabited

/-- A memory with the writes not yet seen by every observer, in coherence order (R300). -/
structure VMem where
  base : Memory := []
  pend : List PWrite := []
  deriving DecidableEq, Repr, Inhabited

/-- Kinds of a transfer (R47). -/
inductive TKind where
  | jump | call | ret
  deriving DecidableEq, Repr, Inhabited

/-- An entry of a branch-outcome queue (R41, R44, R51, R290, R293). -/
inductive Outc where
  | branch (kind : TKind) (taken : Bool) (target : LineIx)
  | arm (count : W32) (len : Nat) (mask : BitVec 3) (skewV skewM : Nat)
  | routine (target : Line)
  | release (target : LineIx)
  deriving DecidableEq, Repr, Inhabited

/-- An entry of a return stack: a line (R47), or the controller's, with the line and lane to resume at (R290). -/
inductive RetEntry where
  | line (n : LineIx)
  | ctrl (n : Line) (lane : Nat)
  deriving DecidableEq, Repr, Inhabited

/-- The instruction being executed, or one whose effect goes on over several steps: its place and its prefixes (R109). -/
structure Issue where
  line : Line := 0
  lane : Nat := 0
  nextLane : Nat := 1
  word : W32 := 0
  cont : W32 := 0
  /-- MSK: register field, invert, zeroing (R207). -/
  mask : Option (Reg × Bool × Bool) := none
  pops : List Engine := []
  pushes : List Engine := []
  deriving DecidableEq, Repr, Inhabited

/-- The named conditions an engine can stall on (R73). -/
inductive Wait where
  | tokens (pops : List Engine)
  | pushes
  | valFull (dst : Engine)
  | valEmpty (src : Engine)
  | outFull (dst : List Engine)
  | outEmpty
  | sem (off : Off) (n : W32) (issue : Issue)
  | tiles (es : List Nat)
  | tileHeld (e : Nat)
  | bands (isBank : Bool) (n : Nat)
  | freeList
  | barv (p : Nat)
  | bwt (p : Nat) (phase : W)
  | skew
  | streamFull (n : Nat)
  | streamBusy (n : Nat)
  | streamAbort (n : Nat)
  deriving DecidableEq, Repr, Inhabited

/-- A follower in a broadcast body (R51, R52, R54): the LB line, the arm, and the repeat counter. -/
structure LoopMode where
  start : Line
  len : Nat
  count : W32
  mask : BitVec 3
  skew : Nat
  rep : W32
  deriving DecidableEq, Repr, Inhabited

/-- One engine's control state (R37, R41, R46, R47, R50, R52). -/
structure EngineCtx where
  line : Line := 0
  /-- Next lane, 1 to 7; 0 when the line has been reached and not yet tested, 8 when its lanes are done. -/
  lane : Nat := 0
  /-- Target of a taken transfer that waits for its delay line (R46). -/
  pend : Option LineIx := none
  inDelay : Bool := false
  /-- Where a LOOPB sends C after its line (R51); 4,096 or more lies past every text (R40). -/
  seqNext : Option Nat := none
  /-- Return stack, top first, at most 8 (R47). -/
  stack : List RetEntry := []
  loop : Option LoopMode := none
  /-- Loop arms popped in this cell, which numbers the broadcast loops for the skew test (R54). -/
  arms : Nat := 0
  /-- Branch-outcome queue to this engine, head first (R41). -/
  outq : List Outc := []
  wait : Option Wait := none
  /-- Token pushes of completed instructions not yet made, each with the line and lane of its instruction; lane 0 for a V result that
has landed, which holds up V's next instruction (R42, R74, R214). -/
  pushes : List ((Line × Nat) × List Engine) := []
  /-- The SEMW at `lane` that has had its n subtracted and is about to complete (R65, R157). -/
  granted : Option Issue := none
  /-- The storage data error of the line just reached has been taken (R328). -/
  textErr : Bool := false
  ended : Bool := false
  /-- RFRET executed for the controller's current call (R290). -/
  rfret : Bool := false
  deriving DecidableEq, Repr, Inhabited

/-- The scalar files (R105, R113). -/
structure Regs where
  g : Vector W 64 := Vector.replicate 64 0
  k : Vector W 32 := Vector.replicate 32 0
  s : Vector W 32 := Vector.replicate 32 0
  n : Vector W 16 := Vector.replicate 16 0
  b : Vector Line 8 := Vector.replicate 8 0
  deriving DecidableEq, Repr, Inhabited

/-- The control registers that hold state of their own (R149); SSTEP, WAVE, TEXTID, IDENT, SLIPW and RFSTAT are read from
the cell, the kernel and the controller. -/
structure Csr where
  vmode : W := 0
  vsrc : W := 0
  vsrk : W := 0
  vflg : Flags := 0
  mflg : Flags := 0
  xflg : BitVec 3 := 0
  tcause : BitVec 8 := 0
  tinfo : W := 0
  tline : BitVec 18 := 0
  deriving DecidableEq, Repr, Inhabited

/-- States of a tile-table entry, by their code (R163). -/
inductive TileState where
  | empty | filling | ready | draining
  deriving DecidableEq, Repr, Inhabited

/-- A tile-table entry (R62, R163); `held` names the stream whose command holds it. -/
structure Tile where
  base : Off := 0
  len : Nat := 0
  state : TileState := .empty
  held : Option (Fin 4) := none
  deriving DecidableEq, Repr, Inhabited

/-- One handle set, of the cell with that number on this core (R35). -/
structure HandleSet where
  cell : Nat
  binds : Vector (Option (Fin 64)) 64 := Vector.replicate 64 none
  deriving DecidableEq, Repr, Inhabited

/-- Where a stream's bands lie: a bank, or a handle still unbound of some set (R60). -/
inductive BandOf where
  | bank (b : Fin 64)
  | handle (cell : Nat) (h : Fin 64)
  deriving DecidableEq, Repr, Inhabited

/-- Ownership of bands `lo..hi` by a stream's command (R60). -/
structure BandOwn where
  stream : Fin 4
  /-- The command's number, and the operand that names the bands. -/
  cmd : Nat
  opnd : Nat
  of : BandOf
  lo : Nat
  hi : Nat
  deriving DecidableEq, Repr, Inhabited

/-- The cistern (R11, R13, R58-R61, R35). -/
structure Cistern where
  /-- 1 MiB; bank `b` starts at 16,384·b. -/
  data : VMem := {}
  free : List (Fin 64) := List.finRange 64
  sets : List HandleSet := []
  own : List BandOwn := []
  /-- CSTAT.UNB (R270). -/
  unb : Bool := false
  deriving DecidableEq, Repr, Inhabited

/-- An in-flight V result (R211, R215, R216). -/
inductive VDest where
  /-- Vector registers from v`d` up, each with its value and the bits it writes. -/
  | vec (d : Nat) (parts : List (VReg × VReg))
  | transient (parts : List VReg)
  | scalar (r : Reg) (x : W)
  | latch (cls : Nat) (parts : List VReg)
  | pattern (p : Nat) (bits : BitVec 5120)
  | none
  deriving DecidableEq, Repr, Inhabited

structure Flight where
  /-- Landing slot minus the next slot to begin (R215). -/
  rem : Nat
  dest : VDest
  flags : Flags
  pushes : List Engine
  deriving DecidableEq, Repr, Inhabited

/-- A latch of a result class (R216): its registers, and the flags VMVL sets when it first reads it (R218). -/
structure Latch where
  parts : List VReg := []
  flags : Flags := 0
  deriving DecidableEq, Repr, Inhabited

/-- A VCHAIN in progress (R242, R243). -/
structure VChain where
  src0 : Off
  src1 : Off
  dst : Off
  n : Nat
  typ : BitVec 4
  nops : Nat
  rm : BitVec 3
  /-- VMODE.DAZ as read at issue (R99). -/
  daz : Bool
  k0 : W
  k1 : W
  ops : List Byte
  e : Nat
  issue : Issue
  deriving DecidableEq, Repr, Inhabited

/-- The V pipeline (R209-R216). -/
structure VPipe where
  flights : List Flight := []
  bp0 : VReg := 0
  bp1 : VReg := 0
  bp2 : VReg := 0
  latches : Vector Latch 8 := Vector.replicate 8 {}
  patterns : Vector (BitVec 5120) 8 := Vector.replicate 8 0
  /-- The next slot is a busy slot (R209). -/
  busy : Bool := false
  chain : Option VChain := none
  deriving DecidableEq, Repr, Inhabited

/-- The target of a step (R255): an a-register, or a handle of the resident cell's set. -/
inductive MTarget where
  | areg (n : Fin 8)
  | handle (h : Fin 64)
  deriving DecidableEq, Repr, Inhabited

/-- The held target with its sums, row-major, and the limits of its last step (R259). -/
structure Held where
  tgt : MTarget
  acc : List W32
  mlim : Nat
  nlim : Nat
  actM : BitVec 64
  actN : BitVec 64
  deriving DecidableEq, Repr, Inhabited

/-- How far an M step is (R251, R259, R271): it has not issued; it has issued, its tiles having been READY, and its opening write back or
its load may remain; its arithmetic is done and its write back remains. -/
inductive StepAt where
  | start | opened | back
  deriving DecidableEq, Repr, Inhabited

/-- What M is in the middle of (R266, R267, R271, R283, R286). -/
inductive MRun where
  | idle
  /-- A nest (`mma = false`) or one MMA step, and how far the step is. -/
  | nest (mma : Bool) (at_ : StepAt) (actM actN : BitVec 64) (flags : Flags) (issue : Issue)
  /-- MSAMP with the sampling registers as read at issue; `wb` when only the write back remains. -/
  | samp (cfg : Vector W 32) (wb : Bool) (flags : Flags) (issue : Issue)
  /-- MALIAS: the table words still to be written and where, the SZ, SSTAT and flags it ends with, and the storage error found
  in its norms (R278, R280). -/
  | table (at_ : Nat) (words : List Nat) (sz sstat : W) (flags : Flags) (bad : Option (Nat × Nat)) (issue : Issue)
  deriving DecidableEq, Repr, Inhabited

/-- The matrix engine (R253, R254, R259, R261). -/
structure MState where
  active : Vector W 64 := Vector.replicate 64 0
  shadow : Vector W 64 := Vector.replicate 64 0
  pos : Vector (BitVec 48) 6 := Vector.replicate 6 0
  nstep : W := 0
  held : Option Held := none
  valid : BitVec 8 := 0
  dirty : BitVec 8 := 0
  run : MRun := .idle
  deriving DecidableEq, Repr, Inhabited

/-- Where the refinement controller is in its sequence (R292). -/
inductive RfPc where
  | idle | callFactor | callResid | callSolve | inRoutine | test | release
  deriving DecidableEq, Repr, Inhabited

inductive Routine where
  | none | factor | solve | resid
  deriving DecidableEq, Repr, Inhabited

/-- The refinement controller (R288-R295). -/
structure Refine where
  pc : RfPc := .idle
  off : Off := 0
  n : Nat := 0
  itmax : W32 := 0
  xoff : Off := 0
  boff : Off := 0
  roff : Off := 0
  rung1 : Nat := 0
  anorm : W := 0
  tau : W := 0
  rho : W := 0
  factor : Line := 0
  solve : Line := 0
  resid : Line := 0
  act : W32 := 0
  k : W32 := 0
  rung : Nat := 0
  hist : List W := []
  nesc : Nat := 0
  bn : W := 0
  /-- The norm of b has been computed (R292). -/
  normed : Bool := false
  eta : W := 0
  routine : Routine := .none
  /-- The FACTOR in progress follows an escalation (R292). -/
  esc : Bool := false
  /-- The exit taken, 1 to 4, once the test has found one (R293). -/
  exit : Nat := 0
  issue : Issue := {}
  deriving DecidableEq, Repr, Inhabited

/-- The handler record (R330): C's context at the stop, and the trap it handles. -/
structure Handler where
  saved : EngineCtx
  depth : Nat
  eng : Engine
  code : BitVec 8
  info : W
  tline : BitVec 18
  deriving DecidableEq, Repr, Inhabited

/-- A halt taken and its record's fields (R330, R331). -/
structure HaltInfo where
  code : BitVec 8
  eng : Engine
  info : W
  tline : BitVec 18
  deriving DecidableEq, Repr, Inhabited

/-- The kernel object and its M-configuration record, as read at acceptance (R26-R28, R256). -/
structure Kernel where
  cohort : Bool := false
  textid : W := 0
  textva : W := 0
  textlen : Nat := 1
  entry : Line := 0
  trapv : Line := 0
  slipw : Nat := 8
  viewv : Nat := 0
  viewt : Nat := 0
  viewa : Nat := 0
  wlim : Nat := 0
  argsz : Nat := 0
  argoff : Nat := 0
  mcfg : List (Nat × W) := []
  /-- KIND and COUNT of levels 0 to 5 (R27). -/
  levels : List (Nat × Nat) := []
  deriving DecidableEq, Repr, Inhabited

/-- The cell resident on a core (R32, R34). -/
structure Cell where
  /-- Number of the cell among those this core has run; names its handle set (R35). -/
  id : Nat
  queue : BitVec 10
  part : Fin 8
  ctx : BitVec 12
  linear : Nat
  wave : Nat
  sstep : Nat
  idx : List Nat
  kern : Kernel
  deriving DecidableEq, Repr, Inhabited

/-- Stream states by code (R159). -/
inductive SState where
  | idle | active | suspended | aborting
  deriving DecidableEq, Repr, Inhabited

/-- A chain accepted by a stream (R160): its head, its cell's handle set and micro-batch tag (R35, R323). -/
structure Chain where
  khead : Off
  cell : Nat
  tag : Nat
  /-- Writes that completed commands of the core had read, which the chain's releases carry (R309). -/
  inherit_ : List Nat := []
  deriving DecidableEq, Repr, Inhabited

/-- An open chain loop (R175). -/
structure LoopFrame where
  start : Off
  n : W32
  i : W32
  ds : W
  dd : W
  dx : W
  deriving DecidableEq, Repr, Inhabited

/-- A data command of a stream: the entry, its position, and its partial state (R193, R196). -/
structure Cmd where
  entry : Instr
  /-- Number of the command, for the bands it owns. -/
  uid : Nat := 0
  /-- Offset of the entry in the well, and its index in the chain. -/
  at_ : Off
  index : BitVec 17
  khead : Off
  cell : Nat
  tag : Nat
  /-- Sums of the open loops' deltas (R175). -/
  ds : Int := 0
  dd : Int := 0
  dx : Int := 0
  pos : Nat := 0
  /-- The first element has started: bands and tiles are taken (R60, R62). -/
  started : Bool := false
  /-- Per-m posts made, and the number below which the command's writes were made before the last of them (R172). -/
  posts : Nat := 0
  landed : Nat := 0
  /-- Destination list of MCAST, source list of RED, once read (R186, R187). -/
  list : List W := []
  /-- DECOMP: source offset of the next packed element, and the mask of its group (R184). PREF: bytes already walked. -/
  srcOff : Nat := 0
  dmask : W := 0
  /-- CONV and CMPRS: the block scale, the block's sources as read at its first element, and the sums of CMPRS (R183, R185). -/
  scale : Byte := 0
  src : List W32 := []
  block : List W32 := []
  /-- GATH and SCAT: the index of the current row (R181). MCAST: the current element. -/
  row : W := 0
  /-- Identifiers of this command's writes (R67, R166). -/
  writes : List Nat := []
  deriving DecidableEq, Repr, Inhabited

/-- A translation a stream waits for (R319, R321). -/
structure Walk where
  va : W
  acc : Nat
  deriving DecidableEq, Repr, Inhabited

/-- A read performed ahead of earlier accesses of its stream (R195, R304): eight aligned bytes of a store as the core saw them,
through path P of its own well (`own`) or as any observer, and the pending writes whose values they are. -/
structure EarlyRead where
  sp : WSpace
  own : Bool
  addr : Nat
  bytes : List Byte
  ids : List Nat
  deriving DecidableEq, Repr, Inhabited

/-- A stream (R159, R164, R196). -/
structure Stream where
  state : SState := .idle
  flt : Bool := false
  waiting : Bool := false
  faults : Nat := 0
  /-- P and ENTRY of the status word. -/
  pos : BitVec 32 := 0
  entry : BitVec 17 := 0
  chain : Option Chain := none
  queued : List Chain := []
  /-- Offset of the entry to execute next, or in execution. -/
  cur : Off := 0
  loops : List LoopFrame := []
  /-- The data command in progress. -/
  cmd : Option Cmd := none
  /-- Commands whose elements are all committed and whose writes are not all performed (R166). -/
  completing : List Cmd := []
  /-- An SC fence in progress, with its scope: it waits for read-modify-writes that the core's streams have issued (R178). -/
  fence : Option Byte := none
  /-- WAITS in progress: semaphore and count (R176). -/
  waits : Option (Off × W32) := none
  walk : Option Walk := none
  /-- An atomic request of this stream is at its engine (R195, R313). -/
  inAtomic : Bool := false
  /-- Reads performed ahead and not yet used (R304). -/
  early : List EarlyRead := []
  /-- Writes of other observers whose values this stream has read (R306). -/
  readIds : List Nat := []
  /-- Writes of the core's other streams that an SC fence ordered before this stream's later commands (R306 item 2). -/
  wrote : List Nat := []
  /-- `readIds` at the last completion post (R309). -/
  posted : List Nat := []
  deriving DecidableEq, Repr, Inhabited

/-- One core (R11, R34, R149, R330). -/
structure Core where
  regs : Regs := {}
  ec : EngineCtx := {}
  ea : EngineCtx := {}
  ev : EngineCtx := {}
  em : EngineCtx := {}
  /-- Token counts and value queues, from engine x to engine y at index 4·x + y (R41). -/
  tok : Vector Nat 16 := Vector.replicate 16 0
  vals : Vector (List W) 16 := Vector.replicate 16 []
  csr : Csr := {}
  tiles : Vector Tile 256 := Vector.replicate 256 {}
  cist : Cistern := {}
  streams : Vector Stream 4 := Vector.replicate 4 {}
  /-- The stream that the home pump served last (R167). -/
  lastServed : Nat := 3
  vp : VPipe := {}
  mx : MState := {}
  /-- Sampling registers 0x100 to 0x11F (R273). -/
  samp : Vector W 32 := Vector.replicate 32 0
  ref : Refine := {}
  handler : Option Handler := none
  /-- The cell resident on the core, and the kernel whose state the core holds (R30, R34). -/
  cell : Option Cell := none
  kern : Option Kernel := none
  /-- The cell has halted (R330). -/
  halted : Option HaltInfo := none
  /-- Instruction store and its tags (R29). -/
  istore : Memory := []
  textId : W := 0
  textCtx : BitVec 12 := 0
  textOk : Bool := false
  /-- Lines of the image loaded. -/
  textLines : Nat := 0
  /-- Context of the last kernel that ran on the core (R30). -/
  lastCtx : Option (BitVec 12) := none
  well : VMem := {}
  urs : VMem := {}
  /-- Engines waiting at SEMW, oldest first (R65). -/
  waiters : List (Engine × Off × W32) := []
  stall : Nat := 0
  cycle : W := 0
  /-- Flags held for the next cell of the same kernel (R369). -/
  heldOvf : Bool := false
  heldUnb : Bool := false
  /-- A storage data error of V or M, taken at its next issue boundary: TINFO and TLINE (R328). -/
  lateV : Option (W × BitVec 18) := none
  lateM : Option (W × BitVec 18) := none
  /-- Number of the next cell on this core. -/
  nextCell : Nat := 0
  deriving DecidableEq, Repr, Inhabited

/-- A fault record to be posted (R325): its 64 bytes. -/
abbrev Record := List Byte

/-- A queue's STATE by code (R335). -/
inductive QState where
  | unbound | active | overrun | halted | resetting | faulted
  deriving DecidableEq, Repr, Inhabited

/-- An operator record as read (R344). -/
structure OpRec where
  strm : BitVec 4 := 0
  khead : List Off := []
  argva : W := 0
  cfg : List (Nat × W) := []
  deriving DecidableEq, Repr, Inhabited

/-- The state of one core as a save or a park keeps it (R332, R368): its area in memory holds the URS, the banks and the
well; the rest, whose layout belongs to the device, is kept here. -/
structure CoreImage where
  core : Core
  /-- The writes by which streams had begun to fill chunks of the core's well (R276). -/
  filling : List PWrite := []
  /-- The banks saved: bound in a handle set of the core, or owned by a stream. -/
  banks : List Nat := []
  deriving DecidableEq, Repr, Inhabited

/-- A rendezvous point of a team (R68-R71). -/
structure Point where
  count : Option Nat := none
  phase : Nat := 0
  /-- Arrivals counted toward the current phase and the next. -/
  now : Nat := 0
  next : Nat := 0
  /-- Arrivals made so far by each cell, by cell linear index. -/
  arrivals : List (Nat × Nat) := []
  deriving DecidableEq, Repr, Inhabited

/-- Wave progress of one core in a superstep: the cells placed on it not yet started, in wave order, as (wave, linear). -/
structure CorePlan where
  core : Fin 128
  waves : List (Nat × Nat)
  deriving DecidableEq, Repr, Inhabited

/-- A superstep in progress or saved (R31-R36, R332). -/
structure SStep where
  index : Nat
  points : Vector Point 24 := Vector.replicate 24 {}
  plan : List CorePlan := []
  /-- Its first wave has started. -/
  started : Bool := false
  halted : Bool := false
  deriving DecidableEq, Repr, Inhabited

/-- An accepted packet (R340, R341). -/
structure Packet where
  typ : Byte := 0
  flags : Byte := 0
  /-- Bytes 0x08 to 0x3F as seven 64-bit fields. -/
  statva : W := 0
  sigva : W := 0
  sigv : W := 0
  f20 : W := 0
  f28 : W := 0
  f30 : W := 0
  f38 : W := 0
  /-- The reserved bytes of the header (6, 7). -/
  zero : BitVec 16 := 0
  deriving DecidableEq, Repr, Inhabited

/-- A LAUNCH or OPCHAIN in execution (R341, R344, R349). -/
structure Work where
  kern : Kernel
  /-- The kernel's first superstep has been started. -/
  begun : Bool := false
  /-- Next superstep to start, and operator number. -/
  sstep : Nat := 0
  op : Nat := 0
  nops : Nat := 1
  oprec : OpRec := {}
  /-- A pre-empted superstep, with the saved image of each core of the partition. -/
  saved : Option (SStep × List (Fin 128 × CoreImage)) := none
  /-- Every write of the last save or park was made (R333). -/
  saveOk : Bool := true
  /-- The parked state of the kernel between two supersteps (R368). -/
  parked : List (Fin 128 × CoreImage) := []
  deriving DecidableEq, Repr, Inhabited

/-- A hardware queue (R335) and its current packet (R341). -/
structure Queue where
  rbase : W := 0
  idxva : W := 0
  saveva : W := 0
  ctx : BitVec 16 := 0
  logm : Byte := 0
  part : Byte := 0
  tickets : BitVec 16 := 0
  cls : Byte := 0
  vec : Byte := 0
  state : QState := .unbound
  evt : BitVec 4 := 0
  pass : W := 0
  pub : W := 0
  read : W := 0
  pkt : Option Packet := none
  work : Option Work := none
  /-- The packet's check or a WAITSIG's first test has been made. -/
  checked : Bool := false
  /-- READ could not be written to the index block (R370). -/
  idxFault : Bool := false
  /-- PUB when the last LAUNCH or OPCHAIN completed, as long as the queue keeps its PASS since (R346). -/
  keep : Option W := none
  /-- Dies that supersteps of the queue's packets have run on (R341). -/
  ran : List Nat := []
  deriving DecidableEq, Repr, Inhabited

/-- A partition (R346, R347, R362). -/
structure Part where
  dies : List Nat := []
  ucap : Nat := 128
  tslice : Nat := 2000
  /-- The queue whose superstep runs, and that superstep. -/
  run : Option (BitVec 10 × SStep) := none
  /-- It was chosen as a superstep of the urgent class (R347). -/
  urgentRun : Bool := false
  /-- Its kernel's parked state was returned for it: the time of the return is charged (R368). -/
  returned : Bool := false
  /-- ns at which it last started or resumed (R347), at which its charge began, and at which its timeslice did. -/
  since : Nat := 0
  chargeFrom : Nat := 0
  sliceFrom : Nat := 0
  /-- The queue whose kernel state is on the cores (R368). -/
  resident : Option (BitVec 10) := none
  /-- Intervals (from, to) in ns in which an urgent superstep ran (R347). -/
  urgent : List (Nat × Nat) := []
  deriving DecidableEq, Repr, Inhabited

/-- A cached leaf PTE (R321). -/
structure TlbEntry where
  ctx : BitVec 12
  level : Nat
  page : Nat
  pte : BitVec 128
  deriving DecidableEq, Repr, Inhabited

/-- A region-table entry (R323). -/
structure Region where
  ctx : BitVec 16 := 0
  vcnt : Byte := 0
  mode : Byte := 0
  cur : Byte := 0
  zero5 : BitVec 24 := 0
  voff : Vector W32 8 := Vector.replicate 8 0
  zero28 : Vector W 3 := Vector.replicate 3 0
  deriving DecidableEq, Repr, Inhabited

/-- A read-modify-write at an atomic engine (R313). -/
inductive RmwOp where
  | atom (op : BitVec 3) (w64 : Bool) (opnd cmpv : W) (retoff : Off)
  | red (op : BitVec 2) (typ : Byte) (val : W32)
  | sempr (amt : W32)
  deriving DecidableEq, Repr, Inhabited

/-- A request waiting at an atomic engine (R313, R314): engine 0–7 a stack's, 8–39 a cluster's. -/
structure AtomicReq where
  eng : Fin 40
  core : Fin 128
  stream : Fin 4
  /-- HBM address, or well offset of the target core. -/
  addr : Nat
  target : Option (Fin 128)
  op : RmwOp
  /-- The leaf of the target's page; all zero for a WELL target. -/
  pte : BitVec 128
  rel : Bool
  deriving DecidableEq, Repr, Inhabited

/-- Firmware and boot state (R355, R358, R362-R364). -/
inductive Boot where
  | rom | verifying | starting | ready | failed
  deriving DecidableEq, Repr, Inhabited

/-- The algorithms an ALGORITHMS response selects (R359). -/
inductive Algo where
  | sha256 | secp384r1 | aes256gcm | spdmKeySchedule
  deriving DecidableEq, Repr, Inhabited

/-- The selections of an ALGORITHMS response (R359): no base asymmetric algorithm, one ExtAsym entry, the hashes, and for
sessions the DHE group, the AEAD and the key schedule. -/
structure Algorithms where
  baseAsym : Option Algo := none
  extReg : Byte
  extAlg : BitVec 16
  baseHash : Algo := .sha256
  measHash : Algo := .sha256
  dhe : Algo := .secp384r1
  aead : Algo := .aes256gcm
  schedule : Algo := .spdmKeySchedule
  deriving DecidableEq, Repr, Inhabited

/-- The registry that a vendor-defined message's StandardID names (R361). -/
inductive StandardId where
  | iana
  deriving DecidableEq, Repr, Inhabited

/-- An answer of the SPDM responder or of the firmware, before the transport encodes it (R359, R361). -/
inductive Reply where
  | none
  | error
  | algorithms (sel : Algorithms)
  | signed (what : String) (log : List (List Byte)) (sig : List Byte)
  | plain (what : String) (log : List (List Byte))
  /-- StandardID, length of the VendorID, VendorID, and the response payload (R361). -/
  | vendor (std : StandardId) (idLen : Nat) (id : W32) (bytes : List Byte)
  /-- The answer to a message that no row serves. -/
  | other (bytes : List Byte)
  | policy (result : BitVec 16)
  deriving DecidableEq, Repr, Inhabited

/-- The SPDM connection of a transport (R359): whether it has negotiated the device's algorithms, whether a NEGOTIATE_ALGORITHMS
without the LMS entry has ended it, and its open secured sessions with their export master secrets. -/
structure Conn where
  negotiated : Bool := false
  ended : Bool := false
  sessions : List (BitVec 32 × List Byte) := []
  deriving DecidableEq, Repr, Inhabited

/-- Algorithm identifiers of a certificate's key (R359): id-alg-hss-lms-hashsig. -/
inductive KeyAlg where
  | hssLms
  deriving DecidableEq, Repr, Inhabited

/-- The leaf certificate of the device's chain (R359): the identity public key, as an HSS key of one level. -/
structure LeafCert where
  alg : KeyAlg := .hssLms
  levels : Nat := 1
  key : List Byte
  deriving DecidableEq, Repr, Inhabited

/-- The identity public key (R359, RFC 8554): LMS_SHA256_M32_H20, LMOTS_SHA256_N32_W4, the identifier and the root. -/
def identityPub : List Byte := [0, 0, 0, 8, 0, 0, 0, 3] ++ (Config.identityKey ++ List.replicate 48 0).take 48

/-- The management block (R324, R354, R358-R364). -/
structure Mgmt where
  boot : Boot := .rom
  /-- The fuses: SHA-256 digest of the image key (R358). -/
  fuseKey : List Byte := Config.fuseKey
  /-- The firmware core (R6). -/
  fw : FwCore := {}
  fwslot : Bool := false
  fwsvn : W := 0
  slotSvn0 : W := 0
  slotSvn1 : W := 0
  failcode : W := 0
  cecnt : Vector W32 8 := Vector.replicate 8 0
  sigused : Nat := 0
  leaf : LeafCert := { key := identityPub }
  cfg : ConfigRecord := {}
  /-- Measurement log, oldest first: SHA-256 digests (R358). -/
  log : List (List Byte) := []
  /-- The measurements of the running image, and of the image that a live update replaced (R363). -/
  runMeas : List (List Byte) := []
  oldMeas : List (List Byte) := []
  /-- Key slots: the data key and the tweak key (R324). -/
  keys : Vector (Option (List Byte × List Byte)) 1024 := Vector.replicate 1024 none
  hbeat : W := 0
  rollback : Bool := false
  hbFailed : Bool := false
  upd : Bool := false
  /-- A live update is under way: the new image awaits its first heartbeat (R363). -/
  updImage : Option BootImage := none
  /-- After a roll-back: queue fetch resumes with the old image's first heartbeat (R363; log 108). -/
  fetchHeld : Bool := false
  /-- An image runs and has written HBEAT. -/
  fwRunning : Bool := false
  /-- ns at which the last heartbeat was written, and at which the new image of a live update started (R363, R364). -/
  beatAt : Nat := 0
  updAt : Nat := 0
  /-- The connections of the mailbox, DOE and MCTP. -/
  conns : Vector Conn 3 := Vector.replicate 3 {}
  mbReq : Memory := []
  mbResp : Memory := []
  mbBusy : Bool := false
  mbDone : Bool := false
  mbLen : Nat := 0
  /-- STATUS that the response of the request in service will have, unless it is too long (R360). -/
  mbPend : BitVec 16 := 0
  mbStatus : BitVec 16 := 0
  mbRlen : BitVec 16 := 0
  mbClass : Byte := 0
  mbReply : Reply := .none
  /-- The answer given on DOE or MCTP (R360). -/
  doeReply : Reply := .none
  /-- A CLASS 3 request handed to the firmware, which acts on it by its own writes (R361, R363). -/
  policy : Option (BitVec 10 × BitVec 16 × Byte) := none
  sdbase : BitVec 40 := 0
  sdlen : W := 0
  /-- Range of the request being served. -/
  sdReqBase : BitVec 40 := 0
  sdReqLen : W := 0
  sdctx : BitVec 12 := 0
  sdall : Bool := false
  sdBusy : Bool := false
  sdDone : Bool := false
  fqbase : W := 0
  fqlog : Nat := 0
  fqprod : W := 0
  fqcons : W := 0
  /-- Records the hub holds, and records still waiting to be taken by the hub (R325). -/
  fqHeld : List Record := []
  fqWaiting : List Record := []
  msix : Memory := []
  /-- Stopped at 125 °C (R365). -/
  stopped : Bool := false
  /-- Links taken down (R366). -/
  linksDown : List Nat := []
  deriving DecidableEq, Repr, Inhabited

/-- The state of the package, with the model's own fields last. -/
structure State where
  cores : Vector Core 128 := Vector.replicate 128 {}
  hbm : VMem := {}
  host : VMem := {}
  ctxTable : Vector W 4096 := Vector.replicate 4096 0
  regions : Vector Region 256 := Vector.replicate 256 {}
  queues : Vector Queue 1024 := Vector.replicate 1024 {}
  parts : Vector Part 8 := Vector.replicate 8 {}
  /-- First-level caches, by pump's core (R9, R321), and second-level slices, by pump die. -/
  tlb1 : List (Fin 128 × TlbEntry) := []
  tlb2 : List (Fin 4 × TlbEntry) := []
  atomics : List AtomicReq := []
  /-- The port each atomic engine served last (R314). -/
  lastPort : Vector Nat 40 := Vector.replicate 40 127
  mgmt : Mgmt := {}
  /-- Bytes whose next read carries an uncorrectable error (R328, R366). -/
  poison : List (Store × Nat) := []
  /-- MSI-X vectors raised, newest last (R352). -/
  irqs : List Nat := []
  /-- Completion data of the last host or peer read, or the value a peer operation returns (R353, R355, R357). -/
  reply : List Byte := []
  /-- The fault reported to a peer package for its last access: CAUSE and LEVEL (R357). -/
  peerFault : Option (Nat × Nat) := none
  /-- Messages sent to peer packages, newest last: package, address, operation (R357). -/
  sent : List (Nat × W × PeerOp) := []
  /-- Identifier of the next write. -/
  nextId : Nat := 1
  /-- MODEL: whose step comes next (log 1). -/
  turn : Turn := {}
  /-- MODEL: number of steps made; the free values are read at it (log 1). -/
  tick : Nat := 0
  /-- MODEL: accesses of peer packages made, which number the free values of one step (log 57). -/
  free : Nat := 0
  /-- MODEL: the agent that has its turn next in the order of `fairTurn`, and the steps until then (R73; log 82). -/
  fairAt : Nat := 0
  fairIn : Nat := 0
  /-- MODEL: ns since reset (log 2). -/
  now : Nat := 0
  /-- MODEL: the instruction being executed and its prefixes. -/
  issue : Issue := {}
  deriving DecidableEq, Repr, Inhabited

/-- Why a step stops the model: there is no such reason. Every trap, halt, pump fault and refused access of the manual leaves
a next state, and a package stopped by heat (R365) still answers its registers and a reset. -/
inductive Fault where
  deriving DecidableEq, Repr

/-- Why the model refuses a step. -/
inductive Refusal where
  /-- Raised by a dispatch arm that has no meaning yet: SAFE, no claim can be proved of it. -/
  | notModelled (mnemonic : String)
  deriving DecidableEq, Repr, Inhabited

/-- The identity pattern: entry `b` holds `b` (R215). -/
def identityPattern : BitVec 5120 :=
  (List.range 512).foldr (fun b (acc : BitVec 5120) => (acc <<< 10) ||| BitVec.ofNat 5120 b) 0

/-- The package right after reset: the boot ROM has not run, no queue is bound and no core holds a cell. -/
def State.reset : State := {}

end Machine
end Sys2Proof
end

