-- ==== Sys2Proof/Machine/Mem.lean ====
section
/-! DEFINITION. Byte memories and the visibility of writes: the named operations every access goes through (R12, R298-R303). -/

namespace Sys2Proof
namespace Machine

/-- What a byte reads as; an unlisted byte reads 0 (log 3). -/
def Memory.get (m : Memory) (a : Nat) : Byte := (List.lookup a m).getD 0

/-- A byte inserted by its address; a zero is not listed. -/
def Memory.ins : Memory → Nat → Byte → Memory
  | [], a, b => if b = 0 then [] else [(a, b)]
  | (x, y) :: r, a, b =>
    if b = 0 then (x, y) :: r
    else if a < x then (a, b) :: (x, y) :: r
    else (x, y) :: Memory.ins r a b

/-- One byte written, in the canonical form: addresses rising, zeros unlisted. -/
def Memory.put (m : Memory) (a : Nat) (b : Byte) : Memory := Memory.ins (m.filter (fun c => c.1 != a)) a b

/-- Bytes written together; the first of two at one address counts. -/
def Memory.putAll (m : Memory) (cs : List (Nat × Byte)) : Memory := cs.foldr (fun c m => m.put c.1 c.2) m

/-- The bytes of `[lo, hi)` set to zero. -/
def Memory.clear (m : Memory) (lo hi : Nat) : Memory := m.filter (fun c => c.1 < lo || hi ≤ c.1)

/-- Consecutive bytes. -/
def Memory.bytes (m : Memory) (a n : Nat) : List Byte := (List.range n).map (fun i => m.get (a + i))

/-- The canonical form: addresses strictly rising, no zero listed. -/
def Memory.wf : Memory → Bool
  | [] => true
  | [(_, b)] => b != 0
  | (a, b) :: (c, d) :: r => b != 0 && decide (a < c) && Memory.wf ((c, d) :: r)

/-- All observers of a well, a URS or a cistern: five paths, 128 cores' window readers, and peers. -/
def wellAll : Nat := 2 ^ 137 - 1
/-- All observers of HBM and host memory (R297). -/
def globalAll : Nat := 2 ^ 131 - 1
/-- The five paths of a core (R301). -/
def pathsAll : Nat := 31

/-- The paths' numbers: C 0, A 1, V 2, M 3; P is 4 (R301). -/
def pathOf : Engine → Nat
  | .c => 0 | .a => 1 | .v => 2 | .m => 3
def pathP : Nat := 4

/-- The byte that observer `o` reads: the latest write it has seen, in coherence order (R300). -/
def VMem.get (v : VMem) (o a : Nat) : Byte :=
  v.pend.foldl (fun acc w => if w.seen.testBit o then (List.lookup a w.cells).getD acc else acc) (v.base.get a)

/-- The byte at the end of the coherence order: what an atomic engine or a page walker reads (R313). -/
def VMem.latest (v : VMem) (a : Nat) : Byte :=
  v.pend.foldl (fun acc w => (List.lookup a w.cells).getD acc) (v.base.get a)

/-- The byte that the bank of a well, a URS or a cistern holds: the latest write that has arrived there. A window write that
no observer has seen has not arrived (R20, R302). -/
def VMem.bank (v : VMem) (a : Nat) : Byte :=
  v.pend.foldl (fun acc w => if w.seen = 0 then acc else (List.lookup a w.cells).getD acc) (v.base.get a)

def VMem.bytes (v : VMem) (o a n : Nat) : List Byte := (List.range n).map (fun i => v.get o (a + i))
def VMem.latestBytes (v : VMem) (a n : Nat) : List Byte := (List.range n).map (fun i => v.latest (a + i))
def VMem.bankBytes (v : VMem) (a n : Nat) : List Byte := (List.range n).map (fun i => v.bank (a + i))

/-- Leading writes that every observer has seen join the base. -/
def settle (full : Nat) (base : Memory) : List PWrite → VMem
  | [] => ⟨base, []⟩
  | w :: r => if full &&& w.seen == full then settle full (base.putAll w.cells) r else ⟨base, w :: r⟩

/-- A write appended to the coherence order. -/
def VMem.push (full : Nat) (v : VMem) (w : PWrite) : VMem := settle full v.base (v.pend ++ [w])

/-- The writes that satisfy `p` become seen by `obs`. -/
def VMem.show_ (full : Nat) (v : VMem) (p : PWrite → Bool) (obs : Nat) : VMem :=
  settle full v.base (v.pend.map (fun w => if p w then { w with seen := w.seen ||| obs } else w))

/-- The pending writes without their bytes at the addresses that `p` names: a later write there that everyone has seen
comes after them in coherence order. -/
def coverPend (pend : List PWrite) (p : Nat → Bool) : List PWrite :=
  pend.map (fun w => { w with cells := w.cells.filter (fun c => !p c.1) })

/-- The bytes of `[lo, hi)` become zero for every observer (R30, R57). -/
def VMem.wipe (v : VMem) (lo hi : Nat) : VMem :=
  ⟨v.base.clear lo hi, coverPend v.pend (fun a => lo ≤ a && a < hi)⟩

/-- Bytes replaced for every observer at once. -/
def VMem.store (v : VMem) (cs : List (Nat × Byte)) : VMem :=
  ⟨v.base.putAll cs, coverPend v.pend (fun a => cs.any (fun c => c.1 == a))⟩

/-- Cells of consecutive bytes modulo the size of the memory. -/
def cellsAt (size a : Nat) (bs : List Byte) : List (Nat × Byte) :=
  (List.range bs.length).zip bs |>.map (fun p => ((a + p.1) % size, p.2))

/-- Sizes of the stores (R11). -/
def wellSize : Nat := 2 ^ 23
def ursSize : Nat := 2 ^ 18
def bankSize : Nat := 16384

/-- A write by path `p` of a core, at offsets of its well: one entry for each 64-byte chunk, since a chunk is one bank
access (R12, R223). The chunk is seen at once by its own path. -/
def chunksOf (cs : List (Nat × Byte)) : List (List (Nat × Byte)) :=
  match cs with
  | [] => []
  | c :: r =>
    match chunksOf r with
    | [] => [[c]]
    | (d :: ds) :: rest => if d.1 / 64 = c.1 / 64 then (c :: d :: ds) :: rest else [c] :: (d :: ds) :: rest
    | [] :: rest => [c] :: rest

/-- Chunks pushed one after another, each a write of its own: another path may see one before it sees the next (R272). -/
def VMem.pushChunks (path : Nat) : Nat → List (List (Nat × Byte)) → VMem → VMem
  | _, [], v => v
  | id, ch :: r, v => VMem.pushChunks path (id + 1) r (v.push wellAll { id := id, cells := ch, seen := 2 ^ path, path := path })

/-- The aligned 64 bytes that a write to a well lies in (R12). -/
def PWrite.chunk (w : PWrite) : Nat := ((w.cells.head?.map (·.1)).getD 0) / 64

/-- An engine path's write to a store of its core. -/
def VMem.pathWrite (v : VMem) (path id : Nat) (cs : List (Nat × Byte)) : VMem := VMem.pushChunks path id (chunksOf cs) v

/-- Identifiers kept for the writes of one instruction, and for those of one landing register and one landing result. -/
def idStep : Nat := 65536
def idReg : Nat := 16
def idFlight : Nat := 1024

/-- An engine FENCE on one store: writes by a path of `f` that have been performed there become visible to the paths of `s`,
given as observer masks (R141, R302). -/
def VMem.fence (v : VMem) (f s : Nat) : VMem :=
  v.show_ wellAll (fun w => f.testBit w.path && w.seen.testBit w.path) s

end Machine
end Sys2Proof
end

