-- ==== Sys2Proof/Machine/Num.lean ====
section
/-! DEFINITION. Number formats and arithmetic (R76-R94): exact dyadic values, decoding, and the one rounding RoundTo. -/

namespace Sys2Proof
namespace Machine

/-- The floating formats of R76. -/
inductive Fmt where
  | bf16 | f16 | f32 | f64 | kt8 | e4m3 | e5m2 | e2m1
  deriving DecidableEq, Repr, Inhabited

/-- Width in bits (R76). -/
def Fmt.width : Fmt → Nat
  | .f64 => 64 | .f32 => 32 | .f16 => 16 | .bf16 => 16 | .kt8 => 8 | .e4m3 => 8 | .e5m2 => 8 | .e2m1 => 4

/-- Exponent bias (R76; KT8 has none of its own). -/
def Fmt.bias : Fmt → Int
  | .f64 => 1023 | .f32 => 127 | .f16 => 15 | .bf16 => 127 | .e5m2 => 15 | .e4m3 => 7 | .e2m1 => 1 | .kt8 => 11

/-- Trailing significand bits (R76). -/
def Fmt.prec : Fmt → Nat
  | .f64 => 52 | .f32 => 23 | .f16 => 10 | .bf16 => 7 | .e5m2 => 2 | .e4m3 => 3 | .e2m1 => 1 | .kt8 => 0

/-- Formats in which every finite source above the largest finite value saturates (R83, R85). -/
def Fmt.saturating : Fmt → Bool
  | .e4m3 | .e2m1 | .kt8 | .e5m2 => true
  | _ => false

/-- Encoding of the largest finite magnitude (R76). -/
def Fmt.maxCode : Fmt → Nat
  | .f64 => 0x7FEFFFFFFFFFFFFF | .f32 => 0x7F7FFFFF | .f16 => 0x7BFF | .bf16 => 0x7F7F
  | .e5m2 => 0x7B | .e4m3 => 0x7E | .e2m1 => 0x7 | .kt8 => 0x01

/-- Encoding of +∞, where the format has one (R76). -/
def Fmt.infCode : Fmt → Nat
  | .f64 => 0x7FF0000000000000 | .f32 => 0x7F800000 | .f16 => 0x7C00 | .bf16 => 0x7F80 | .e5m2 => 0x7C
  | .e4m3 => 0x7E | .e2m1 => 0x7 | .kt8 => 0x01

/-- The canonical NaN (R77); E2M1 has none and gives +0 (R85). -/
def Fmt.nanCode : Fmt → Nat
  | .f64 => 0x7FF8000000000000 | .f32 => 0x7FC00000 | .f16 => 0x7E00 | .bf16 => 0x7FC0
  | .e5m2 => 0x7E | .e4m3 => 0x7F | .kt8 => 0x80 | .e2m1 => 0

/-- An exact value: a NaN (signalling or not), an infinity, or ±m·2^e. -/
inductive Fp where
  | nan (sig : Bool)
  | inf (neg : Bool)
  | fin (neg : Bool) (m : Nat) (e : Int)
  deriving DecidableEq, Repr, Inhabited

/-- A rounding mode (R82). -/
inductive RMode where
  | rne | rtz | rdn | rup | sr
  deriving DecidableEq, Repr, Inhabited

/-- The mode of a 3-bit code; 5 to 7 are never used as a mode (R82). -/
def rmodeOf (c : BitVec 3) : RMode :=
  if c = 1 then .rtz else if c = 2 then .rdn else if c = 3 then .rup else if c = 4 then .sr else .rne

/-- SR acts as RNE for a destination for which it is not defined (R82). -/
def srFor (f : Fmt) (rm : RMode) : RMode :=
  match rm with
  | .sr => match f with
    | .bf16 | .f16 | .e5m2 | .e4m3 | .kt8 => .sr
    | _ => .rne
  | m => m

/-- Leading zeros of the seven low bits of a KT8 code (R80). -/
def kt8Lz (c : Nat) : Nat := if c % 128 = 0 then 7 else 6 - Nat.log2 (c % 128)

/-- Fraction bits of a KT8 code by its leading zeros (R80). -/
def kt8F : Nat → Nat
  | 0 => 5 | 1 => 3 | 2 => 2 | 3 => 1 | _ => 0

/-- Exponent of a KT8 code by lz and sel (R80). -/
def kt8Exp (lz sel : Nat) : Int :=
  match lz with
  | 0 => if sel = 0 then -1 else 0
  | 1 => [-3, -2, 1, 2].getD sel 0
  | 2 => [-5, -4, 3, 4].getD sel 0
  | 3 => [-7, -6, 5, 6].getD sel 0
  | 4 => [-9, -8, 7, 8].getD sel 0
  | 5 => if sel = 0 then -10 else 9
  | _ => 10

/-- The magnitude of a KT8 code in units of 2^-15 (R81). -/
def kt8Units (c : Nat) : Nat :=
  let lz := kt8Lz c
  if lz = 7 then 0 else
    let f := kt8F lz
    let payload := c % 2 ^ (6 - lz)
    let e := kt8Exp lz (payload / 2 ^ f)
    (2 ^ f + payload % 2 ^ f) * 2 ^ ((e + 15 - f).toNat)

/-- The KT8 codes with S = 0 and a nonzero value, by rising magnitude (R81). -/
def kt8Order : List Nat :=
  [0x02, 0x04, 0x05, 0x08, 0x09, 0x0A, 0x0B] ++ List.range' 0x10 8 ++ List.range' 0x20 16 ++ List.range' 0x40 64
    ++ List.range' 0x30 16 ++ List.range' 0x18 8 ++ [0x0C, 0x0D, 0x0E, 0x0F, 0x06, 0x07, 0x03, 0x01]

/-- Even candidates of KT8 (R83): zero, F = 0, or fraction bit 0 equal to 0. -/
def kt8Even (c : Nat) : Bool := c == 0 || kt8F (kt8Lz c) == 0 || c % 2 == 0

/-- The value of an encoding (R76-R81). -/
def decode (f : Fmt) (bits : Nat) : Fp :=
  let w := f.width
  let neg := (bits / 2 ^ (w - 1)) % 2 == 1
  match f with
  | .kt8 => if bits % 256 = 0x80 then .nan false else .fin (neg && bits % 128 != 0) (kt8Units bits) (-15)
  | _ =>
    let p := f.prec
    let ebits := w - 1 - p
    let ex := (bits / 2 ^ p) % 2 ^ ebits
    let fr := bits % 2 ^ p
    let top := ex == 2 ^ ebits - 1
    let ieee := match f with | .e4m3 => false | .e2m1 => false | _ => true
    if f == .e4m3 && top && fr == 7 then .nan false
    else if top && ieee then
      (if fr = 0 then .inf neg else .nan (fr / 2 ^ (p - 1) == 0))
    else if ex = 0 then .fin neg fr (1 - f.bias - p)
    else .fin neg (2 ^ p + fr) ((ex : Int) - f.bias - p)

/-- Does E4M3 or E5M2 or another format hold a signalling NaN here (R77)? -/
def isSnan (f : Fmt) (bits : Nat) : Bool := decode f bits == .nan true

/-- The outcome of rounding one magnitude between neighbours: `num/den` of the gap above `lo`, by mode (R83). True is hi. -/
def pickHi (rm : RMode) (neg loEven hiEven : Bool) (num den u : Nat) : Bool :=
  if num = 0 then false else
  match rm with
  | .rtz => false
  | .rup => !neg
  | .rdn => neg
  | .sr => decide (num * 65536 > u * den)
  | .rne =>
    if 2 * num < den then false
    else if 2 * num > den then true
    else hiEven && !loEven

/-- ±m·2^e rounded to a format (R83, R371): the encoding and the flags. Zero keeps its sign except in KT8. -/
def roundTo (f : Fmt) (neg : Bool) (m : Nat) (e : Int) (rm0 : RMode) (u : Nat) : Nat × Flags :=
  let rm := srFor f rm0
  let sbit := if neg then 2 ^ (f.width - 1) else 0
  match f with
  | .kt8 =>
    if m = 0 then (0, 0) else
    let sh := e + 15
    let a := if 0 ≤ sh then m * 2 ^ sh.toNat else m
    let d := if 0 ≤ sh then 1 else 2 ^ (-sh).toNat
    if a > 2 ^ 25 * d then (sbit + 1, Flags.of ||| Flags.ix) else
    let below := kt8Order.filter (fun c => kt8Units c * d ≤ a)
    let lo := below.getLastD 0
    let hi := (kt8Order.find? (fun c => a ≤ kt8Units c * d)).getD 1
    if lo = hi then (sbit + lo, 0) else
    let num := a - kt8Units lo * d
    let c := if pickHi rm neg (kt8Even lo) (kt8Even hi) num ((kt8Units hi - kt8Units lo) * d) u then hi else lo
    (if c = 0 then 0 else sbit + c, Flags.ix ||| (if a < 2 ^ 5 * d then Flags.uf else 0))
  | _ =>
    if m = 0 then (sbit, 0) else
    let p := f.prec
    let emin : Int := 1 - f.bias
    let ex : Int := e + Nat.log2 m
    let q : Int := (if ex < emin then emin else ex) - p
    let sh := q - e
    let units := if sh ≤ 0 then m * 2 ^ (-sh).toNat else m / 2 ^ sh.toNat
    let num := if sh ≤ 0 then 0 else m % 2 ^ sh.toNat
    let den := if sh ≤ 0 then 1 else 2 ^ sh.toNat
    -- a magnitude is encoded as (biased exponent field) · 2^p + fraction, which rises by 1 per unit of q
    let base : Int := (q + p + f.bias - 1) * 2 ^ p
    let lo : Int := base + units
    let tiny := ex < emin
    if lo > f.maxCode ∨ (lo = f.maxCode ∧ num ≠ 0 ∧ f.saturating) then
      -- above MaxFinite; at or above Over when lo reaches the infinity code
      if f.saturating then (sbit + f.maxCode, Flags.of ||| Flags.ix)
      else match rm with
        | .rtz => (sbit + f.maxCode, Flags.of ||| Flags.ix)
        | .rup => (sbit + (if neg then f.maxCode else f.infCode), Flags.of ||| Flags.ix)
        | .rdn => (sbit + (if neg then f.infCode else f.maxCode), Flags.of ||| Flags.ix)
        | _ => (sbit + f.infCode, Flags.of ||| Flags.ix)
    else
      let up := pickHi rm neg (lo % 2 == 0) (lo % 2 == 1) num den u
      let c := (lo + (if up then 1 else 0)).toNat
      let ovf := !f.saturating && decide (c ≥ f.infCode)
      (sbit + c, (if num = 0 then 0 else Flags.ix) ||| (if tiny && num != 0 then Flags.uf else 0)
        ||| (if ovf then Flags.of else 0))

/-- A value converted to a format: special cases of R85, else RoundTo. -/
def convFp (f : Fmt) (x : Fp) (rm : RMode) (u : Nat) : Nat × Flags :=
  match x with
  | .nan sig => (f.nanCode, (if sig then Flags.iv else 0) ||| (if f = .e2m1 then Flags.iv else 0))
  | .inf neg =>
    let sbit := if neg then 2 ^ (f.width - 1) else 0
    match f with
    | .e4m3 | .e2m1 | .kt8 => (sbit + f.maxCode, Flags.of ||| Flags.ix)
    | _ => (sbit + f.infCode, 0)
  | .fin neg m e => roundTo f neg m e rm u

/-- An integer of an exact value by mode (R88): the rounded integer and whether it differs. -/
def roundInt (neg : Bool) (m : Nat) (e : Int) (rm : RMode) : Int × Bool :=
  let rm := if rm = .sr then .rne else rm
  if 0 ≤ e then ((if neg then -1 else 1) * (m * 2 ^ e.toNat : Nat), false) else
  let d := 2 ^ (-e).toNat
  let lo := m / d
  let up := pickHi rm neg (lo % 2 == 0) (lo % 2 == 1) (m % d) d 0
  ((if neg then -1 else 1) * ((lo + bnat up : Nat) : Int), m % d != 0)

/-- FloatToInt (R88). -/
def floatToInt (sgn : Bool) (w : Nat) (x : Fp) (rm : RMode) : Nat × Flags :=
  let r := intRange sgn w
  match x with
  | .nan _ => (0, Flags.iv)
  | .inf neg => (wrap w (if neg then r.1 else r.2), Flags.iv)
  | .fin neg m e =>
    let v := roundInt neg m e rm
    let c := clamp r.1 r.2 v.1
    (wrap w c.1, if c.2 then Flags.of ||| Flags.ix else if v.2 then Flags.ix else 0)

/-- An integer as an exact value. -/
def fpOfInt (x : Int) : Fp := .fin (decide (x < 0)) x.natAbs 0

/-- The signed significand of a finite value. -/
def sgnMant (neg : Bool) (m : Nat) : Int := if neg then -(m : Int) else m

/-- A signed dyadic as an exact value, with the sign a zero takes. -/
def fpOfDy (x e : Int) (zeroNeg : Bool) : Fp :=
  if x = 0 then .fin zeroNeg 0 0 else .fin (decide (x < 0)) x.natAbs e

/-- The exact sum of two dyadics. -/
def dyAdd (x ex y ey : Int) : Int × Int :=
  let e := if ex < ey then ex else ey
  (x * 2 ^ (ex - e).toNat + y * 2 ^ (ey - e).toNat, e)

/-- An exact sum with its flags: ∞ − ∞ is invalid (R84). The sign of a zero sum of opposite signs is given by R92 for GroupSum
alone; here it is +0, or −0 under RDN, everywhere (log 77). -/
def fpAdd (a b : Fp) (rm : RMode) : Fp × Flags :=
  match a, b with
  | .nan s, .nan t => (.nan false, if s || t then Flags.iv else 0)
  | .nan s, _ => (.nan false, if s then Flags.iv else 0)
  | _, .nan s => (.nan false, if s then Flags.iv else 0)
  | .inf n, .inf k => if n = k then (.inf n, 0) else (.nan false, Flags.iv)
  | .inf n, _ => (.inf n, 0)
  | _, .inf n => (.inf n, 0)
  | .fin na ma ea, .fin nb mb eb =>
    if ma = 0 ∧ mb = 0 then (.fin (if na = nb then na else rm == .rdn) 0 0, 0)
    else
      let s := dyAdd (sgnMant na ma) ea (sgnMant nb mb) eb
      (fpOfDy s.1 s.2 (rm == .rdn), 0)

/-- An exact product with its flags: 0 × ∞ is invalid (R84). -/
def fpMul (a b : Fp) : Fp × Flags :=
  match a, b with
  | .nan s, .nan t => (.nan false, if s || t then Flags.iv else 0)
  | .nan s, _ => (.nan false, if s then Flags.iv else 0)
  | _, .nan s => (.nan false, if s then Flags.iv else 0)
  | .inf n, .inf k => (.inf (n != k), 0)
  | .inf n, .fin k m _ => if m = 0 then (.nan false, Flags.iv) else (.inf (n != k), 0)
  | .fin k m _, .inf n => if m = 0 then (.nan false, Flags.iv) else (.inf (n != k), 0)
  | .fin na ma ea, .fin nb mb eb => (.fin (na != nb) (ma * mb) (ea + eb), 0)

/-- The value with its sign inverted. -/
def fpNeg : Fp → Fp
  | .nan s => .nan s
  | .inf n => .inf (!n)
  | .fin n m e => .fin (!n) m e

/-- A value times 2^k, exactly. -/
def fpScale (x : Fp) (k : Int) : Fp :=
  match x with
  | .fin n m e => .fin n m (e + k)
  | y => y

/-- a·b + c exactly, with flags (R83: never rounded between product and sum). -/
def fpFma (a b c : Fp) (rm : RMode) : Fp × Flags :=
  let p := fpMul a b
  let s := fpAdd p.1 c rm
  (s.1, p.2 ||| s.2)

/-- A numeric order on values that are no NaN, −0 equal to +0: the sign of a − b. -/
def fpCmp (a b : Fp) : Int :=
  match a, b with
  | .inf n, .inf k => bnat k - bnat n
  | .inf n, _ => if n then -1 else 1
  | _, .inf n => if n then 1 else -1
  | .fin na ma ea, .fin nb mb eb => (dyAdd (sgnMant na ma) ea (-(sgnMant nb mb)) eb).1.sign
  | _, _ => 0

def Fp.isNan : Fp → Bool
  | .nan _ => true
  | _ => false
def Fp.isSnan : Fp → Bool
  | .nan s => s
  | _ => false
def Fp.isZero : Fp → Bool
  | .fin _ m _ => m == 0
  | _ => false
def Fp.isInf : Fp → Bool
  | .inf _ => true
  | _ => false
def Fp.neg : Fp → Bool
  | .fin n _ _ => n
  | .inf n => n
  | .nan _ => false

/-- The order of MIN and MAX, which puts −0 below +0 (R77). -/
def fpLtMin (a b : Fp) : Bool :=
  if a.isZero && b.isZero then a.neg && !b.neg else decide (fpCmp a b < 0)

/-- MIN and MAX (R77): one NaN gives the other operand, two give the canonical NaN; a signalling NaN sets IV. -/
def fpMinMax (max : Bool) (f : Fmt) (x y : Nat) : Nat × Flags :=
  let a := decode f x
  let b := decode f y
  let fl := if a.isSnan || b.isSnan then Flags.iv else 0
  if a.isNan && b.isNan then (f.nanCode, fl)
  else if a.isNan then (y, fl)
  else if b.isNan then (x, fl)
  else if max then (if fpLtMin a b then y else x, 0) else (if fpLtMin b a then y else x, 0)

/-- A quotient of integers as a dyadic with a sticky low bit: it lies on the same side of every value of 200 significant
bits as the exact quotient, so one rounding of it is the one rounding of the quotient (R83). -/
def divDy (x ex y ey : Int) : Fp :=
  if x = 0 then .fin (decide (y < 0)) 0 0 else
  let a := x.natAbs
  let b := y.natAbs
  let k := 200 + Nat.log2 b
  let q := a * 2 ^ k / b
  let r := a * 2 ^ k % b
  .fin (decide ((x < 0) ≠ (y < 0))) (2 * q + bnat (r != 0)) (ex - ey - k - 1)

/-- An exact quotient of two values with flags: 0/0 and ∞/∞ are invalid (R84). -/
def fpDiv (a b : Fp) : Fp × Flags :=
  match a, b with
  | .nan s, .nan t => (.nan false, if s || t then Flags.iv else 0)
  | .nan s, _ => (.nan false, if s then Flags.iv else 0)
  | _, .nan s => (.nan false, if s then Flags.iv else 0)
  | .inf _, .inf _ => (.nan false, Flags.iv)
  | .inf n, .fin k _ _ => (.inf (n != k), 0)
  | .fin n _ _, .inf k => (.fin (n != k) 0 0, 0)
  | .fin na ma ea, .fin nb mb eb =>
    if mb = 0 then (if ma = 0 then (.nan false, Flags.iv) else (.inf (na != nb), Flags.dz))
    else if ma = 0 then (.fin (na != nb) 0 0, 0)
    else (match divDy (ma : Int) ea (mb : Int) eb with
      | .fin _ m e => .fin (na != nb) m e
      | y => y, 0)

/-- Integer square root by bits, from bit `k - 1` down. -/
def isqrtBits : Nat → Nat → Nat → Nat
  | 0, _, r => r
  | k + 1, n, r => if (r + 2 ^ k) * (r + 2 ^ k) ≤ n then isqrtBits k n (r + 2 ^ k) else isqrtBits k n r

/-- The integer square root. -/
def isqrt (n : Nat) : Nat := isqrtBits (Nat.log2 n / 2 + 1) n 0

/-- A square root of m·2^e as a dyadic with a sticky low bit. -/
def sqrtDy (m : Nat) (e : Int) : Nat × Int :=
  let odd := e % 2 != 0
  let m2 := if odd then 2 * m else m
  let e2 := if odd then e - 1 else e
  let n := m2 * 2 ^ 400
  let r := isqrt n
  (2 * r + bnat (r * r != n), (e2 - 400) / 2 - 1)

/-- SQRT (R94). -/
def fpSqrt : Fp → Fp × Flags
  | .nan s => (.nan false, if s then Flags.iv else 0)
  | .inf n => if n then (.nan false, Flags.iv) else (.inf false, 0)
  | .fin n m e =>
    if m = 0 then (.fin n 0 0, 0) else if n then (.nan false, Flags.iv)
    else let r := sqrtDy m e; (.fin false r.1 r.2, 0)

/-- RCP (R94). -/
def fpRcp : Fp → Fp × Flags
  | .nan s => (.nan false, if s then Flags.iv else 0)
  | .inf n => (.fin n 0 0, 0)
  | .fin n m e =>
    if m = 0 then (.inf n, Flags.dz)
    else match divDy 1 0 (m : Int) e with
      | .fin _ q k => (.fin n q k, 0)
      | y => (y, 0)

/-- RSQ (R94). -/
def fpRsq : Fp → Fp × Flags
  | .nan s => (.nan false, if s then Flags.iv else 0)
  | .inf n => if n then (.nan false, Flags.iv) else (.fin false 0 0, 0)
  | .fin n m e =>
    if m = 0 then (.inf n, Flags.dz) else if n then (.nan false, Flags.iv) else
    -- 1/√(m·2^e) with e even: √(2^(2k) / m) · 2^(-k - e/2)
    let odd := e % 2 != 0
    let m2 := if odd then 2 * m else m
    let e2 := if odd then e - 1 else e
    let k := 300 + Nat.log2 m2
    let t := 2 ^ (2 * k)
    let q := t / m2
    let r := isqrt q
    (.fin false (2 * r + bnat (r * r != q || t % m2 != 0)) (-(k : Int) - e2 / 2 - 1), 0)

/-- Working precision of EXP2 and LOG2: far above what the correct rounding of a 24-bit result needs (log 5). -/
def workBits : Nat := 500

/-- 2^(2^-i) · 2^500, rounded down, for i = 1, 2, …, by repeated square roots. -/
def rootsOfTwo : Nat → Nat → List Nat
  | 0, _ => []
  | n + 1, prev => let r := isqrt (prev * 2 ^ workBits); r :: rootsOfTwo n r

/-- 2^f · 2^500, rounded down, for a fraction f given by its bits after the point, first bit first. -/
def exp2Frac (bits : List Bool) (roots : List Nat) : Nat :=
  (bits.zip roots).foldl (fun acc br => if br.1 then acc * br.2 / 2 ^ workBits else acc) (2 ^ workBits)

/-- EXP2 (R94). -/
def fpExp2 : Fp → Fp × Flags
  | .nan s => (.nan false, if s then Flags.iv else 0)
  | .inf n => if n then (.fin false 0 0, 0) else (.inf false, 0)
  | .fin neg m e =>
    if m = 0 then (.fin false 1 0, 0) else
    let x := sgnMant neg m
    if 0 ≤ e then
      let n := x * 2 ^ e.toNat
      (.fin false 1 (if n > 4096 then 4096 else if n < -4096 then -4096 else n), 0)
    else
      let k := (-e).toNat
      let n := x / 2 ^ k
      let fr := (x % 2 ^ k).toNat
      let n' := if n > 4096 then 4096 else if n < -4096 then -4096 else n
      if fr = 0 then (.fin false 1 n', 0) else
      let bits := (List.range k).map (fun i => fr.testBit (k - 1 - i))
      (.fin false (2 * exp2Frac bits (rootsOfTwo k (2 ^ (workBits + 1))) + 1) (n' - workBits - 1), 0)

/-- Bits of log2 of y·2^-500, for y in [2^500, 2^501), by repeated squaring. -/
def log2Frac : Nat → Nat → Nat → Nat
  | 0, _, acc => acc
  | n + 1, y, acc =>
    let z := y * y / 2 ^ workBits
    if z ≥ 2 ^ (workBits + 1) then log2Frac n (z / 2) (2 * acc + 1) else log2Frac n z (2 * acc)

/-- LOG2 (R94). -/
def fpLog2 : Fp → Fp × Flags
  | .nan s => (.nan false, if s then Flags.iv else 0)
  | .inf n => if n then (.nan false, Flags.iv) else (.inf false, 0)
  | .fin neg m e =>
    if m = 0 then (.inf true, Flags.dz) else if neg then (.nan false, Flags.iv) else
    let l := Nat.log2 m
    let n : Int := e + l
    if m = 2 ^ l then (fpOfInt n, 0) else
    let fr := log2Frac 220 (m * 2 ^ (workBits - l)) 0
    (fpOfDy (2 * (n * 2 ^ 220 + fr) + 1) (-221) false, 0)

/-- Mix (R87). -/
def mix (ctr key : W) : W :=
  let z := ctr * 0x9E3779B97F4A7C15#64 + key
  let z := (z ^^^ (z >>> 30)) * 0xBF58476D1CE4E5B9#64
  let z := (z ^^^ (z >>> 27)) * 0x94D049BB133111EB#64
  z ^^^ (z >>> 31)

/-- The draw of lane `i` (R86). -/
def drawU (src key : W) (i : Nat) : Nat := (mix (src + BitVec.ofNat 64 i) key).toNat % 65536

/-- A scale's factor 2^(x−127) applied, or NaN for 0xFF (R78), a quiet one also of a signalling element (log 100). -/
def scaled (x : Nat) (v : Fp) : Fp := if x = 255 then .nan false else fpScale v ((x : Int) - 127)

/-- Exponent of the largest binade of an element format, for MxScale (R91). -/
def emaxOf : Fmt → Int
  | .e4m3 => 8 | .e5m2 => 15 | .e2m1 => 2 | .kt8 => 10 | _ => 0

/-- ⌊log2⌋ of a finite nonzero magnitude. -/
def fpExpo : Fp → Int
  | .fin _ m e => e + Nat.log2 m
  | _ => 0

/-- MxScale (R91). -/
def mxScale (xs : List Fp) (f : Fmt) : Nat :=
  if xs.any (fun x => x.isNan || x.isInf) then 0xFF else
  match xs.filter (fun x => !x.isZero) with
  | [] => 0
  | y :: ys =>
    let top := ys.foldl (fun acc x => if acc < fpExpo x then fpExpo x else acc) (fpExpo y)
    ((clamp (-127) 127 (top - emaxOf f)).1 + 127).toNat

/-- GroupSum (R92) over products already scaled: the flags and the new accumulator. -/
def groupSum (acc : Nat) (ps : List (Fp × Flags)) : Nat × Flags :=
  let a := decode .f32 acc
  let fl := ps.foldl (fun f p => f ||| p.2) 0
  if a.isNan || ps.any (fun p => p.1.isNan) then (0x7FC00000, fl ||| (if a.isSnan then Flags.iv else 0)) else
  let pinf := ps.any (fun p => p.1 == .inf false)
  let ninf := ps.any (fun p => p.1 == .inf true)
  if pinf && ninf then (0x7FC00000, Flags.iv)
  else if pinf || ninf then
    if a == .inf (!ninf) then (0x7FC00000, Flags.iv) else (if ninf then 0xFF800000 else 0x7F800000, 0)
  else
    let s := ps.foldl (fun (s : Int × Int) p => match p.1 with
      | .fin n m e => if m = 0 then s else dyAdd s.1 s.2 (sgnMant n m) e
      | _ => s) (0, 0)
    let sum := fpOfDy s.1 s.2 (ps.all (fun p => p.1.isZero && p.1.neg))
    let t := fpAdd a sum .rne
    let r := convFp .f32 t.1 .rne 0
    (r.1, r.2 ||| t.2)

/-- One product of the array (R92): a scale of 0xFF or a NaN on either side makes it NaN. -/
def arrayProd (fa fb : Fmt) (a b sa sb : Nat) : Fp × Flags :=
  fpMul (scaled sa (decode fa a)) (scaled sb (decode fb b))

/-- The i32 rule of R93: an exact group sum added with saturation. -/
def groupSumI32 (acc : Nat) (s : Int) : Nat × Flags :=
  let c := clamp (-(2 ^ 31)) (2 ^ 31 - 1) (signed 32 acc + s)
  (wrap 32 c.1, if c.2 then Flags.of ||| Flags.ix else 0)

/-- One rounded floating operation, NaN results canonical (R77, R83). -/
def fin1 (f : Fmt) (r : Fp × Flags) (rm : RMode) (u : Nat) : Nat × Flags :=
  let c := convFp f r.1 rm u
  (c.1, r.2 ||| c.2)

def addF (f : Fmt) (x y : Nat) (rm : RMode) (u : Nat) : Nat × Flags :=
  fin1 f (fpAdd (decode f x) (decode f y) (srFor f rm)) rm u
def mulF (f : Fmt) (x y : Nat) (rm : RMode) (u : Nat) : Nat × Flags :=
  fin1 f (fpMul (decode f x) (decode f y)) rm u

/-- The pairwise tree of R237. -/
def tree1 {α : Type} (op : α → α → α) : List α → List α
  | x :: y :: r => op x y :: tree1 op r
  | r => r
def treeN {α : Type} (op : α → α → α) : Nat → List α → List α
  | 0, xs => xs
  | n + 1, xs => treeN op n (tree1 op xs)

end Machine
end Sys2Proof
end

