-- ==== Sys2Proof/Machine/Ops.lean ====
section
/-! DEFINITION. The named operations over registers, queues, semaphores, cistern banks and wells, and taking a trap and
returning from one (R41-R43, R58-R66, R125, R328-R331). Every meaning is written over these. -/

namespace Sys2Proof
namespace Machine

/-! ### Engines and scalar registers -/

/-- Engine numbers (R107). -/
def engIdx (e : Engine) : Nat := (engNum e).toNat

def Core.ctx (k : Core) : Engine → EngineCtx
  | .c => k.ec | .a => k.ea | .v => k.ev | .m => k.em

def Core.setCtx (k : Core) (e : Engine) (x : EngineCtx) : Core :=
  match e with
  | .c => { k with ec := x } | .a => { k with ea := x } | .v => { k with ev := x } | .m => { k with em := x }

def Core.modCtx (k : Core) (e : Engine) (f : EngineCtx → EngineCtx) : Core := k.setCtx e (f (k.ctx e))

/-- A scalar register of an engine's file; register 0 reads as zero (R125). -/
def Core.getS (k : Core) (e : Engine) (r : Reg) : W :=
  if r = 0 then 0 else
  match e with
  | .c => vget k.regs.g r.toNat 0
  | .a => vget k.regs.k r.toNat 0
  | .v => vget k.regs.s r.toNat 0
  | .m => vget k.regs.n r.toNat 0

/-- A write to a scalar register; to register 0 it is discarded (R125). -/
def Core.setS (k : Core) (e : Engine) (r : Reg) (x : W) : Core :=
  if r = 0 then k else
  match e with
  | .c => { k with regs := { k.regs with g := vset k.regs.g r.toNat x } }
  | .a => { k with regs := { k.regs with k := vset k.regs.k r.toNat x } }
  | .v => { k with regs := { k.regs with s := vset k.regs.s r.toNat x } }
  | .m => { k with regs := { k.regs with n := vset k.regs.n r.toNat x } }

/-- The three engines that follow C (R41). -/
def followers : List Engine := [.a, .v, .m]
def allEngines : List Engine := [.c, .a, .v, .m]

/-- The engines a 3-bit mask names: A in the high bit, then V, M (R103). -/
def maskEngines (m : BitVec 3) : List Engine :=
  (if m.getLsbD 2 then [.a] else []) ++ (if m.getLsbD 1 then [.v] else []) ++ (if m.getLsbD 0 then [.m] else [])

/-! ### Tokens, values and outcomes (R41-R44) -/

/-- Index of the queue from `x` to `y`. -/
def qIdx (x y : Engine) : Nat := 4 * engIdx x + engIdx y

/-- Every queue of a push set has room (depth 15). -/
def Core.tokRoom (k : Core) (e : Engine) (ds : List Engine) : Bool := ds.all (fun d => decide (vget k.tok (qIdx e d) 0 < 15))

/-- One token pushed to each queue of a set. -/
def Core.tokPush (k : Core) (e : Engine) (ds : List Engine) : Core :=
  { k with tok := ds.foldl (fun t d => vset t (qIdx e d) (vget t (qIdx e d) 0 + 1)) k.tok }

/-- Every queue of a pop set holds a token. -/
def Core.tokReady (k : Core) (e : Engine) (ss : List Engine) : Bool := ss.all (fun x => decide (0 < vget k.tok (qIdx x e) 0))

/-- One token taken from each queue of a set. -/
def Core.tokPop (k : Core) (e : Engine) (ss : List Engine) : Core :=
  { k with tok := ss.foldl (fun t x => vset t (qIdx x e) (vget t (qIdx x e) 0 - 1)) k.tok }

/-- Due token pushes of an engine are made, set by set, as far as there is room (R42, R43, R214). -/
def Core.flushPushes (k : Core) (e : Engine) : Core :=
  (k.ctx e).pushes.foldl (fun k p =>
    if (k.ctx e).pushes.head? = some p && k.tokRoom e p.2 then
      (k.tokPush e p.2).modCtx e (fun x => { x with pushes := x.pushes.tail })
    else k) k

/-- Line and lane of an instruction. -/
def Issue.place (i : Issue) : Line × Nat := (i.line, i.lane)

/-- Token pushes of an instruction at a place, as they wait to be made. -/
def EngineCtx.owe (x : EngineCtx) (at_ : Line × Nat) (ds : List Engine) : EngineCtx :=
  if ds.isEmpty then x else { x with pushes := x.pushes ++ [(at_, ds)] }

/-- The push set of an instruction at a place becomes due. -/
def Core.duePush (k : Core) (e : Engine) (at_ : Line × Nat) (ds : List Engine) : Core :=
  if ds.isEmpty then k else (k.modCtx e (fun x => x.owe at_ ds)).flushPushes e

/-- The engine moves past the instruction's lanes. -/
def EngineCtx.past (x : EngineCtx) (i : Issue) : EngineCtx :=
  { x with lane := i.nextLane, wait := none, granted := none }

/-- An instruction completes and its token pushes are made (R42). -/
def Core.finish (k : Core) (e : Engine) (i : Issue) : Core := (k.modCtx e (fun x => x.past i)).duePush e i.place i.pushes

/-- An instruction stalls with no effect on a named condition (R73, R157). -/
def Core.stallOn (k : Core) (e : Engine) (w : Wait) : Core := k.modCtx e (fun x => { x with wait := some w })

/-- A V result begins its flight: it lands L slots after its issue (R210, R211). -/
def Core.fly (k : Core) (l : Nat) (d : VDest) (fl : Flags) (i : Issue) : Core :=
  { k with vp := { k.vp with
      flights := k.vp.flights ++ [{ rem := l - 1, dest := d, flags := fl, pushes := i.pushes }] } }

/-- Division by zero in the flag register of the executing engine (R126); V's flags land with the result. -/
def Core.setDz (k : Core) (e : Engine) : Core :=
  match e with
  | .c => { k with csr := { k.csr with xflg := k.csr.xflg ||| 1 } }
  | .a => { k with csr := { k.csr with xflg := k.csr.xflg ||| 2 } }
  | .v => { k with csr := { k.csr with vflg := k.csr.vflg ||| Flags.dz } }
  | .m => { k with csr := { k.csr with mflg := k.csr.mflg ||| Flags.dz } }

/-- A scalar result with DZ when `dz`: in C, A and M written at once, in V landing two slots on (R125, R126, R210). A
write to register 0 is discarded, flags included. -/
def Core.put (k : Core) (e : Engine) (i : Issue) (r : Reg) (x : W) (dz : Bool := false) : Core :=
  match e with
  | .v => (k.fly 2 (.scalar r x) (if dz && r != 0 then Flags.dz else 0) i).modCtx .v (fun c => c.past i)
  | _ => ((if dz && r != 0 then k.setDz e else k).setS e r x).finish e i

/-! ### Semaphores (R64-R66) -/

/-- Offset of the semaphore that an offset names. -/
def semAt (off : Off) : Nat := off.toNat / 8 * 8

/-- The count of a semaphore, as the bank holds it. -/
def Core.semCount (k : Core) (off : Off) : Nat := leNat (k.well.bankBytes (semAt off) 4)

/-- The count of a semaphore as the core's streams see it (R176, R300). -/
def Core.semSeen (k : Core) (off : Off) : Nat := leNat (k.well.bytes pathP (semAt off) 4)

/-- A count written: an indivisible step at the bank, seen by every path (R64, R66). -/
def Core.semWrite (k : Core) (id : Nat) (off : Off) (n : Nat) : Core :=
  { k with well := k.well.push wellAll { id := id, cells := cellsAt wellSize (semAt off) (leBytes 8 n), seen := wellAll } }

/-- SEMOVF set for the resident cell, or held for the next cell of the same kernel (R369). -/
def Core.setOvf (k : Core) : Core :=
  if k.cell.isSome then { k with csr := { k.csr with xflg := k.csr.xflg ||| 4 } }
  else if k.kern.isSome then { k with heldOvf := true } else k

/-- UNB set likewise (R59, R369). -/
def Core.setUnb (k : Core) : Core :=
  if k.cell.isSome then { k with cist := { k.cist with unb := true } }
  else if k.kern.isSome then { k with heldUnb := true } else k

/-- What an engine waits with at a semaphore. -/
def Wait.semIssue : Option Wait → Issue
  | some (.sem _ _ i) => i
  | _ => {}

/-- The engine's SEMW has subtracted its n: it completes at the engine's next turn, or before the event that stops it (R157). -/
def EngineCtx.grant (x : EngineCtx) : EngineCtx := { x with granted := some (Wait.semIssue x.wait), wait := none }

/-- Waiters in order: each whose n is satisfied subtracts in turn (R65). -/
def Core.grantList (id : Nat) : List (Engine × Off × W32) → Core → List (Engine × Off × W32) × Core
  | [], k => ([], k)
  | (e, off, n) :: r, k =>
    if n.toNat ≤ k.semCount off then
      Core.grantList id r ((k.semWrite id off (k.semCount off - n.toNat)).modCtx e EngineCtx.grant)
    else
      let t := Core.grantList id r k
      ((e, off, n) :: t.1, t.2)

/-- Waiting engines tested after a count may have changed (R65). -/
def Core.grants (k : Core) (id : Nat) : Core :=
  match k.waiters with
  | [] => k
  | ws => let t := Core.grantList id ws k; { t.2 with waiters := t.1 }

/-- A post: n added, saturating at 2^32 − 1 with SEMOVF (R64), and the waiters tested. -/
def Core.semPost (k : Core) (id : Nat) (off : Off) (n : Nat) : Core :=
  let c := k.semCount off + n
  let k1 := k.semWrite id off (if c < 2 ^ 32 then c else 2 ^ 32 - 1)
  (if c < 2 ^ 32 then k1 else k1.setOvf).grants id

/-! ### The well (R12, R56, R132) -/

/-- Bytes of the well as an engine's path sees them. -/
def Core.wellBytes (k : Core) (path a n : Nat) : List Byte :=
  (List.range n).map (fun i => k.well.get path ((a + i) % wellSize))

/-- A path's write to the well. -/
def Core.wellWrite (k : Core) (path id a : Nat) (bs : List Byte) : Core :=
  { k with well := k.well.pathWrite path id (cellsAt wellSize a bs) }

/-- Bytes of the URS as a path sees them, and a path's write. -/
def Core.ursBytes (k : Core) (path a n : Nat) : List Byte :=
  (List.range n).map (fun i => k.urs.get path ((a + i) % ursSize))
def Core.ursWrite (k : Core) (path id a : Nat) (bs : List Byte) : Core :=
  { k with urs := k.urs.pathWrite path id (cellsAt ursSize a bs) }

/-! ### The kernel's constants on the core -/

def Core.textLen (k : Core) : Nat := (k.kern.map (·.textlen)).getD 0
def Core.trapv (k : Core) : Line := (k.kern.map (·.trapv)).getD 0
def Core.slipw (k : Core) : Nat := (k.kern.map (·.slipw)).getD 8
def Core.viewv (k : Core) : Nat := (k.kern.map (·.viewv)).getD 0
def Core.viewt (k : Core) : Nat := (k.kern.map (·.viewt)).getD 0x8000
def Core.viewa (k : Core) : Nat := (k.kern.map (·.viewa)).getD 0x20000
def Core.cellId (k : Core) : Nat := (k.cell.map (·.id)).getD 0

/-! ### Cistern banks (R58-R61, R35) -/

def Core.setFor (k : Core) (cell : Nat) : Option HandleSet := k.cist.sets.find? (fun t => t.cell == cell)

/-- The bank a handle of a cell's set is bound to. -/
def Core.bankOf (k : Core) (cell : Nat) (h : Fin 64) : Option (Fin 64) := (k.setFor cell).bind (fun t => vget t.binds h.val none)

/-- One binding of a set replaced; the set is created if the core does not hold it yet. -/
def Core.setBinding (k : Core) (cell : Nat) (h : Fin 64) (b : Option (Fin 64)) : Core :=
  let sets := if (k.setFor cell).isSome then k.cist.sets else k.cist.sets ++ [{ cell := cell }]
  { k with cist := { k.cist with
      sets := sets.map (fun t => if t.cell == cell then { t with binds := vset t.binds h.val b } else t) } }

/-- A stream owns some band of the bank (R60). -/
def Core.bankOwned (k : Core) (b : Fin 64) : Bool := k.cist.own.any (fun o => o.of == .bank b)
def Core.handleOwned (k : Core) (cell : Nat) (h : Fin 64) : Bool := k.cist.own.any (fun o => o.of == .handle cell h)

/-- Banks neither bound in any set nor owned return to the free list (R35, R58, R60). -/
def Core.reclaim (k : Core) : Core :=
  let back := (List.finRange 64).filter (fun b =>
    !k.cist.free.contains b && !k.bankOwned b && !k.cist.sets.any (fun t => t.binds.toList.contains (some b)))
  { k with cist := { k.cist with free := k.cist.free ++ back } }

/-- A first write binds the handle: a bank of the free list (which one is free, log 4), zero-filled; streams that own bands of
the handle own them in the bank (R58, R60). None when the free list is empty. -/
def Core.bind (k : Core) (tick : Nat) (cell : Nat) (h : Fin 64) : Option (Core × Fin 64) :=
  match k.cist.free with
  | [] => none
  | f :: fs =>
    let b := (f :: fs).getD (Config.freeBank tick % (fs.length + 1)) f
    let c := { k.cist with
      free := k.cist.free.filter (· != b),
      data := k.cist.data.wipe (bankSize * b.val) (bankSize * (b.val + 1)),
      own := k.cist.own.map (fun o => if o.of == .handle cell h then { o with of := .bank b } else o) }
    some ({ k with cist := c }.setBinding cell h (some b), b)

/-- A handle is unbound; its bank returns when no stream owns a band of it (R58). -/
def Core.unbind (k : Core) (cell : Nat) (h : Fin 64) : Core := (k.setBinding cell h none).reclaim

/-- A path's 4-byte elements of a bank, and a write of one. -/
def Core.bankElem (k : Core) (path : Nat) (b : Fin 64) (e : Nat) : Nat :=
  leNat (k.cist.data.bytes path (bankSize * b.val + 4 * e) 4)
def Core.bankWrite (k : Core) (path id : Nat) (b : Fin 64) (off : Nat) (bs : List Byte) : Core :=
  { k with cist := { k.cist with data := k.cist.data.pathWrite path id (cellsAt (2 ^ 20) (bankSize * b.val + off) bs) } }

/-! ### Traps (R328-R331) -/

/-- TLINE: PEND, ENGINE, LANE, LINE (R329). -/
def tlineOf (x : EngineCtx) (e : Engine) (lane : Nat) : BitVec 18 :=
  BitVec.ofBool x.pend.isSome ++ engNum e ++ BitVec.ofNat 3 lane ++ x.line

/-- Causes whose resume action is not Halt (R328). -/
def resumes (code : BitVec 8) : Bool := [0x01, 0x09, 0x0C, 0x0D, 0x0E, 0x10].contains code.toNat

/-- A halted cell: all four engines stop (R330). -/
def Core.halt (k : Core) (h : HaltInfo) : Core := { k with halted := some h, waiters := [] }

/-- Stalled engines stop with no effect and are issued again later (R135, R157). -/
def EngineCtx.unstall (x : EngineCtx) : EngineCtx := { x with wait := none }

/-- A MALIAS that M is in the middle of is abandoned: it is issued again from its start, its TOK pops included (R109, R280). -/
def Core.abandon (k : Core) : Core :=
  match k.mx.run with
  | .table _ _ _ _ _ _ i =>
    { k with
      mx := { k.mx with run := .idle },
      tok := i.pops.foldl (fun t x => vset t (qIdx x .m) (vget t (qIdx x .m) 0 + 1)) k.tok }
  | _ => k

/-- A SEMW that has subtracted its n completes before an event is taken: its TOK pops and pushes are made, and V's slot for it is due
(R75, R157). -/
def Core.endGrant (k : Core) (e : Engine) : Core :=
  match (k.ctx e).granted with
  | none => k
  | some i =>
    let k1 := (k.tokPop e i.pops).finish e i
    if e = .v then { k1 with vp := { k1.vp with busy := true } } else k1
def Core.endGrants (k : Core) : Core := allEngines.foldl Core.endGrant k

/-- TAKING A TRAP (R330, R331), the one operation every trap goes through. `x` is the trapping engine's context at its resume
point (R328). A trap in the handler is a double trap and halts the cell with the first trap's record; with TRAPV = 0 the cell
halts; otherwise TCAUSE, TINFO and TLINE are written, C's resume point is saved in the handler record and C starts at TRAPV. -/
def Core.takeTrapAt (k : Core) (e : Engine) (code : BitVec 8) (info : W) (tl : BitVec 18) (x : EngineCtx) : Core :=
  match k.handler with
  | some h => k.halt { code := 0x11, eng := h.eng, info := h.info, tline := h.tline }
  | none =>
    if k.trapv = 0 then k.halt { code := code, eng := e, info := info, tline := tl }
    else
      let k1 := (k.setCtx e x).endGrants.abandon
      let h : Handler := { saved := k1.ec.unstall, depth := k1.ec.stack.length, eng := e, code := code, info := info, tline := tl }
      { k1 with
        handler := some h, waiters := [],
        csr := { k1.csr with tcause := code, tinfo := info, tline := tl },
        ec := { line := k1.trapv, stack := k1.ec.stack, outq := [] },
        ea := k1.ea.unstall, ev := k1.ev.unstall, em := k1.em.unstall }

/-- A trap at a lane of the engine's line. -/
def Core.takeTrap (k : Core) (e : Engine) (code : BitVec 8) (info : W) (lane : Nat) (x : EngineCtx) : Core :=
  k.takeTrapAt e code info (tlineOf (k.ctx e) e lane) x

/-- A trap of a whole line: LANE 0 (R329). -/
def Core.lineTrap (k : Core) (e : Engine) (code : BitVec 8) (info : W) (x : EngineCtx) : Core :=
  k.takeTrap e code info 0 { x with wait := none }

/-- An engine's PC becomes a line index; an index past 4,095 is text overrun (R40). -/
def Core.toLine (k : Core) (e : Engine) (x : EngineCtx) (n : Nat) : Core :=
  if n < 4096 then k.setCtx e { x with line := BitVec.ofNat 12 n, lane := 0, wait := none, seqNext := none, textErr := false }
  else
    let y := { x with line := BitVec.ofNat 12 n, lane := 0, seqNext := none, textErr := false }
    (k.setCtx e y).lineTrap e 0x03 (BitVec.ofNat 64 n) y

/-- A trap whose handler, if it returns, continues after the instruction. -/
def Core.trapAfter (k : Core) (e : Engine) (i : Issue) (code : BitVec 8) (info : W) : Core :=
  k.takeTrap e code info i.lane (((k.ctx e).past i).owe i.place i.pushes)

/-- A storage data error on a read (R328): precise in C and A, with the destination written; in V and M taken at the engine's
next issue boundary, naming the reading instruction. `store` 0 well, 1 URS, 2 instruction store, 3 cistern. -/
def Core.dataError (k : Core) (e : Engine) (i : Issue) (store off : Nat) : Core :=
  let info : W := BitVec.ofNat 64 (store * 2 ^ 62 + off)
  let tl := tlineOf (k.ctx e) e i.lane
  match e with
  | .v => { k with lateV := some (info, tl) }
  | .m => { k with lateM := some (info, tl) }
  | _ => k.takeTrapAt e 0x0D info tl (k.ctx e)

/-- A precise trap before the instruction has any effect; the lane is the one it stands in (R111). -/
def Core.trapAt (k : Core) (e : Engine) (i : Issue) (code : BitVec 8) (info : W) : Core :=
  k.takeTrap e code info i.lane { k.ctx e with wait := none }

/-- The word of an instruction with its continuation, as TINFO of an illegal instruction holds it (R328). -/
def illegalInfo (i : Issue) : W := i.cont ++ i.word

/-- An illegal instruction: after RETT the engine continues after it (R328). -/
def Core.illegal (k : Core) (e : Engine) (i : Issue) : Core :=
  k.takeTrap e 0x01 (illegalInfo i) i.lane ((k.ctx e).past i)

/-- RETURNING FROM THE HANDLER (R331): a changed return-stack depth is a double trap; a cause whose action is Halt halts the
cell with that cause; otherwise every engine continues, C at its saved point. The stack's entries are those C now has. -/
def Core.rett (k : Core) (h : Handler) : Core :=
  if k.ec.stack.length ≠ h.depth then k.halt { code := 0x11, eng := h.eng, info := h.info, tline := h.tline }
  else if !resumes h.code then k.halt { code := h.code, eng := h.eng, info := h.info, tline := h.tline }
  else { k with handler := none, stall := 0, ec := { h.saved with stack := k.ec.stack, outq := k.ec.outq } }

/-! ### The package -/

def State.core (s : State) : Core := s.cores[s.turn.core.val]
def State.coreAt (s : State) (c : Fin 128) : Core := s.cores[c.val]
def State.setCoreAt (s : State) (c : Fin 128) (k : Core) : State := { s with cores := s.cores.set c.val k }
def State.queue (s : State) (q : BitVec 10) : Queue := vget s.queues q.toNat {}
def State.setQueue (s : State) (q : BitVec 10) (x : Queue) : State := { s with queues := vset s.queues q.toNat x }
def State.part (s : State) (p : Nat) : Part := vget s.parts p {}
def State.setPart (s : State) (p : Nat) (x : Part) : State := { s with parts := vset s.parts p x }

/-- An MSI-X vector is raised (R352). -/
def State.raise (s : State) (v : Nat) : State := { s with irqs := s.irqs ++ [v] }

/-- EVT bits set in a queue; each setting raises VEC (R335). -/
def State.setEvt (s : State) (q : BitVec 10) (bits : BitVec 4) : State :=
  let x := s.queue q
  (s.setQueue q { x with evt := x.evt ||| bits }).raise x.vec.toNat

/-- The 64 bytes of a fault record (R325). -/
def recordBytes (typ cause : Nat) (ctx : BitVec 12) (core unit level acc : Nat) (va : W) (p entry khead kind : Nat)
    (seq : Nat) (tinfo tline : W) : Record :=
  leBytes 1 typ ++ leBytes 1 cause ++ leBytes 2 ctx.toNat ++ leBytes 1 core ++ leBytes 1 unit ++ leBytes 1 level
    ++ leBytes 1 acc ++ leBytes 8 va.toNat ++ leBytes 4 p ++ leBytes 4 entry ++ leBytes 4 khead ++ leBytes 1 kind
    ++ leBytes 3 0 ++ leBytes 8 seq ++ leBytes 8 tinfo.toNat ++ leBytes 8 tline.toNat ++ leBytes 8 0

/-- A record reaches the hub: held there up to 256, and after that waiting to be posted (R325). -/
def State.postRecord (s : State) (r : Record) : State :=
  let m := s.mgmt
  if m.fqWaiting.isEmpty && m.fqHeld.length < 256 then { s with mgmt := { m with fqHeld := m.fqHeld ++ [r] } }
  else { s with mgmt := { m with fqWaiting := m.fqWaiting ++ [r] } }

/-- A cell has halted: one record of TYPE 2, the superstep holds its cores, and the queue is HALTED with EVT[1] (R330, R343). Fields
of the record that R325 gives only for a pump fault are 0 (log 28). -/
def State.postHalt (s : State) (c : Fin 128) (h : HaltInfo) : State :=
  match (s.coreAt c).cell with
  | none => s
  | some cl =>
    let s1 := s.postRecord (recordBytes 2 h.code.toNat cl.ctx c.val (engIdx h.eng) 0xFF 0 0 0 0 0 0 0 h.info
      (h.tline.setWidth 64))
    let x := s1.queue cl.queue
    let s2 := (s1.setQueue cl.queue { x with state := .halted }).setEvt cl.queue 2
    let p := s2.part cl.part.val
    s2.setPart cl.part.val { p with run := p.run.map (fun r => (r.1, { r.2 with halted := true })) }

/-- A core replaced, its waiters tested, and a halt it took posted. -/
def State.putCore (s : State) (c : Fin 128) (k : Core) : State :=
  let k1 := k.grants s.nextId
  let s1 := { s.setCoreAt c k1 with nextId := s.nextId + idStep }
  match (s.coreAt c).halted, k1.halted with
  | none, some h => s1.postHalt c h
  | _, _ => s1

/-- A meaning that acts within the core of the turn: everything outside the core stays, but for the halt it may post. -/
def onCore (s : State) (f : Core → Core) : Host.Outcome State Fault Refusal := .next (s.putCore s.turn.core (f s.core))

/-- Waiting engines of every core tested after a step: a count may have changed by a write from elsewhere (R65). -/
def State.grantAll (s : State) : State :=
  let some_ := s.cores.toList.any (fun k => !k.waiters.isEmpty)
  { s with
    cores := if some_ then s.cores.mapIdx (fun i k => k.grants (s.nextId + i * idStep)) else s.cores,
    nextId := if some_ then s.nextId + 128 * idStep else s.nextId }

/-- Size of a store in bytes (R11, R17). -/
def storeSize : Store → Nat
  | .hbm => 2 ^ 39
  | .well _ => wellSize
  | .urs _ => ursSize
  | .istore _ => 131072
  | .cist _ => 64 * bankSize

/-- A byte range of a store, modulo the store's size, carries an uncorrectable error (R56, R170, R328). -/
def State.poisoned (s : State) (st : Store) (a n : Nat) : Bool :=
  s.poison.any (fun p => p.1 == st && decide ((p.2 + storeSize st - a % storeSize st) % storeSize st < n))

end Machine
end Sys2Proof
end

