-- ==== Sys2Proof/Machine/Flags.lean ====
section
/-! DEFINITION. Reading and writing the status, mode and flag registers (R95-R99, R148-R151, R294, R329). -/

namespace Sys2Proof
namespace Machine

/-- IDENT (R151): CTX, PART, PDIES and COREID of the running kernel. -/
def identOf (s : State) : W :=
  match s.core.cell with
  | none => BitVec.ofNat 64 s.turn.core.val
  | some c =>
    BitVec.ofNat 64 (c.ctx.toNat * 2 ^ 32 + c.part.val * 2 ^ 16 + (s.part c.part.val).dies.length * 2 ^ 12 + s.turn.core.val)

/-- PHASE code of a routine (R294). -/
def phaseOf : Routine → Nat
  | .none => 0 | .factor => 1 | .solve => 2 | .resid => 3

/-- RFSTAT (R294). -/
def rfstatOf (r : Refine) : W :=
  BitVec.ofNat 64 (r.k.toNat * 2 ^ 16 + (r.nesc % 256) * 2 ^ 8 + phaseOf r.routine * 2 ^ 4
    + bnat (r.pc != .idle) * 2 ^ 3 + r.rung)

/-- What a control register reads as (R149). CYCLE has advanced by a free number of aclk (log 2). -/
def csrRead (s : State) (i : BitVec 12) : W :=
  let k := s.core
  match i.toNat with
  | 0x001 => k.csr.vmode
  | 0x002 => k.csr.vsrc
  | 0x003 => k.csr.vsrk
  | 0x004 => k.csr.vflg.setWidth 64
  | 0x005 => k.csr.mflg.setWidth 64
  | 0x006 => k.csr.xflg.setWidth 64
  | 0x010 => identOf s
  | 0x011 => k.textId
  | 0x012 => BitVec.ofNat 64 ((k.cell.map (·.sstep)).getD 0)
  | 0x013 => BitVec.ofNat 64 ((k.cell.map (·.wave)).getD 0)
  | 0x014 => k.cycle + BitVec.ofNat 64 (Config.cycleAdvance s.tick)
  | 0x015 => BitVec.ofNat 64 k.slipw
  | 0x018 => k.csr.tcause.setWidth 64
  | 0x019 => k.csr.tinfo
  | 0x01A => k.csr.tline.setWidth 64
  | 0x020 => rfstatOf k.ref
  | _ => 0

/-- VMODE as written: bits [4:0], with RM 5 to 7 stored as 0 (R82, R95). -/
def vmodeOf (x : W) : W :=
  let y := x &&& 0x1F
  if (y.toNat / 4) > 4 then y &&& 0x3 else y

/-- A control register written: RO registers ignore the write, W1C bits clear (R4, R148). -/
def csrWrite (c : Csr) (i : BitVec 12) (x : W) : Csr :=
  match i.toNat with
  | 0x001 => { c with vmode := vmodeOf x }
  | 0x002 => { c with vsrc := x }
  | 0x003 => { c with vsrk := x }
  | 0x004 => { c with vflg := c.vflg &&& ~~~(x.setWidth 5) }
  | 0x005 => { c with mflg := c.mflg &&& ~~~(x.setWidth 5) }
  | 0x006 => { c with xflg := c.xflg &&& ~~~(x.setWidth 3) }
  | 0x018 => { c with tcause := x.setWidth 8 }
  | 0x019 => { c with tinfo := x }
  | 0x01A => { c with tline := x.setWidth 18 }
  | _ => c

/-- VMODE fields (R95). -/
def Csr.daz (c : Csr) : Bool := c.vmode.getLsbD 0
def Csr.latchMode (c : Csr) : Bool := c.vmode.getLsbD 1
def Csr.rm (c : Csr) : BitVec 3 := c.vmode.extractLsb' 2 3

/-- Flags of a saturating integer result: it overflows and differs from the exact one (R84, R88, R89; log 72). -/
def satFlags (moved : Bool) : Flags := if moved then Flags.of ||| Flags.ix else 0

/-- Flags that an M operation sets when it completes (R98). -/
def Core.setMflg (k : Core) (f : Flags) : Core := { k with csr := { k.csr with mflg := k.csr.mflg ||| f } }

end Machine
end Sys2Proof
end

