-- ==== Sys2Proof/Machine/Scalar.lean ====
section
/-! DEFINITION. The scalar group (R125-R133): one encoding and one meaning in every engine. -/

namespace Sys2Proof
namespace Machine

/-- The engine whose turn it is, and its reading of a scalar register. -/
def State.eng (s : State) : Engine := s.turn.eng
def State.src (s : State) (r : Reg) : W := s.core.getS s.eng r

/-- A scalar result of the executing engine; `dz` when it divides by zero. -/
def scalarResult (s : State) (d : Reg) (x : W) (dz : Bool := false) : Host.Outcome State Fault Refusal :=
  onCore s (fun k => k.put s.eng s.issue d x dz)

def execAdd (d a b : Reg) (s : State) := scalarResult s d (s.src a + s.src b)
def execSub (d a b : Reg) (s : State) := scalarResult s d (s.src a - s.src b)
def execAnd (d a b : Reg) (s : State) := scalarResult s d (s.src a &&& s.src b)
def execOr (d a b : Reg) (s : State) := scalarResult s d (s.src a ||| s.src b)
def execXor (d a b : Reg) (s : State) := scalarResult s d (s.src a ^^^ s.src b)
def execShl (d a b : Reg) (s : State) := scalarResult s d (s.src a <<< ((s.src b).toNat % 64))
def execShr (d a b : Reg) (s : State) := scalarResult s d (s.src a >>> ((s.src b).toNat % 64))
def execSra (d a b : Reg) (s : State) := scalarResult s d ((s.src a).sshiftRight ((s.src b).toNat % 64))
def execMin (d a b : Reg) (s : State) := scalarResult s d (if (s.src b).slt (s.src a) then s.src b else s.src a)
def execMax (d a b : Reg) (s : State) := scalarResult s d (if (s.src a).slt (s.src b) then s.src b else s.src a)
def execMinw (d a b : Reg) (s : State) := scalarResult s d (if (s.src b).ult (s.src a) then s.src b else s.src a)
def execMaxw (d a b : Reg) (s : State) := scalarResult s d (if (s.src a).ult (s.src b) then s.src b else s.src a)
def execMul (d a b : Reg) (s : State) := scalarResult s d (s.src a * s.src b)
def execMulh (d a b : Reg) (s : State) :=
  scalarResult s d (BitVec.ofInt 64 ((s.src a).toInt * (s.src b).toInt / 2 ^ 64))
def execMulhw (d a b : Reg) (s : State) :=
  scalarResult s d (BitVec.ofNat 64 ((s.src a).toNat * (s.src b).toNat / 2 ^ 64))

/-- Quotients and remainders, with the results of a zero divisor (R128). -/
def divS (a b : W) : W := if b = 0 then BitVec.allOnes 64 else a.sdiv b
def divU (a b : W) : W := if b = 0 then BitVec.allOnes 64 else a / b
def remS (a b : W) : W := if b = 0 then a else a.srem b
def remU (a b : W) : W := if b = 0 then a else a % b

def execDiv (d a b : Reg) (s : State) := scalarResult s d (divS (s.src a) (s.src b)) (s.src b == 0)
def execDivw (d a b : Reg) (s : State) := scalarResult s d (divU (s.src a) (s.src b)) (s.src b == 0)
def execRem (d a b : Reg) (s : State) := scalarResult s d (remS (s.src a) (s.src b)) (s.src b == 0)
def execRemw (d a b : Reg) (s : State) := scalarResult s d (remU (s.src a) (s.src b)) (s.src b == 0)
def execClz (d a : Reg) (s : State) := scalarResult s d (BitVec.ofNat 64 (clz64 (s.src a)))
def execPopc (d a : Reg) (s : State) := scalarResult s d (BitVec.ofNat 64 (popcount (s.src a)))
/-- SEL reads the old value of d (R127). -/
def execSel (d a b : Reg) (s : State) := scalarResult s d (if (s.src d).getLsbD 0 then s.src a else s.src b)

/-- imm14 sign-extended (R129). -/
def imm14 (i : BitVec 14) : W := i.signExtend 64

def execAddi (d a : Reg) (i : BitVec 14) (s : State) := scalarResult s d (s.src a + imm14 i)
def execAndi (d a : Reg) (i : BitVec 14) (s : State) := scalarResult s d (s.src a &&& imm14 i)
def execOri (d a : Reg) (i : BitVec 14) (s : State) := scalarResult s d (s.src a ||| imm14 i)
def execXori (d a : Reg) (i : BitVec 14) (s : State) := scalarResult s d (s.src a ^^^ imm14 i)
def execShli (d a : Reg) (n : BitVec 6) (s : State) := scalarResult s d (s.src a <<< n.toNat)
def execShri (d a : Reg) (n : BitVec 6) (s : State) := scalarResult s d (s.src a >>> n.toNat)
def execSrai (d a : Reg) (n : BitVec 6) (s : State) := scalarResult s d ((s.src a).sshiftRight n.toNat)
def execLui (d : Reg) (i : BitVec 20) (s : State) := scalarResult s d (i.signExtend 64 <<< 14)
def execLi (d : Reg) (i : BitVec 52) (s : State) := scalarResult s d (i.signExtend 64)

/-- A compare writes one bit of d and leaves the other 63 (R130). -/
def cmpResult (s : State) (d : Reg) (p : BitVec 6) (b : Bool) : Host.Outcome State Fault Refusal :=
  let m : W := 1#64 <<< p.toNat
  scalarResult s d (if b then s.src d ||| m else s.src d &&& ~~~m)

def execCmpEq (d a b : Reg) (p : BitVec 6) (s : State) := cmpResult s d p (s.src a == s.src b)
def execCmpNe (d a b : Reg) (p : BitVec 6) (s : State) := cmpResult s d p (s.src a != s.src b)
def execCmpLt (d a b : Reg) (p : BitVec 6) (s : State) := cmpResult s d p ((s.src a).slt (s.src b))
def execCmpLtw (d a b : Reg) (p : BitVec 6) (s : State) := cmpResult s d p ((s.src a).ult (s.src b))
def execCmpGe (d a b : Reg) (p : BitVec 6) (s : State) := cmpResult s d p (!(s.src a).slt (s.src b))
def execCmpGew (d a b : Reg) (p : BitVec 6) (s : State) := cmpResult s d p (!(s.src a).ult (s.src b))
def execCmpTst (d a b : Reg) (p : BitVec 6) (s : State) := cmpResult s d p (s.src a &&& s.src b != 0)
def execCmpTstz (d a b : Reg) (p : BitVec 6) (s : State) := cmpResult s d p (s.src a &&& s.src b == 0)

/-- 2^width − 1, for a width field of width − 1 (R131). -/
def bfMask (w : BitVec 6) : W := BitVec.ofNat 64 (2 ^ (w.toNat + 1) - 1)

def execBext (d a : Reg) (p w : BitVec 6) (s : State) := scalarResult s d ((s.src a >>> p.toNat) &&& bfMask w)
/-- Bits beyond bit 63 are discarded (R131). -/
def execBins (d a : Reg) (p w : BitVec 6) (s : State) :=
  scalarResult s d ((s.src d &&& ~~~(bfMask w <<< p.toNat)) ||| ((s.src a &&& bfMask w) <<< p.toNat))

/-- Size in bytes of a WA access, and its naturally aligned address (R104, R132). -/
def waSize (z : BitVec 2) : Nat := 2 ^ z.toNat
def waAddr (base : W) (z : BitVec 2) (i : BitVec 12) : Nat :=
  (base.toNat + i.toNat * waSize z) % wellSize / waSize z * waSize z

/-- The bytes a load reads, on the executing engine's path. -/
def loadBytes (s : State) (b : Reg) (z : BitVec 2) (i : BitVec 12) : List Byte :=
  s.core.wellBytes (pathOf s.eng) (waAddr (s.src b) z i) (waSize z)

/-- A load: the value to d, and the storage data error when its bytes carry an uncorrectable error (R132, R328). -/
def loadResult (s : State) (d b : Reg) (z : BitVec 2) (i : BitVec 12) (x : W) : Host.Outcome State Fault Refusal :=
  let bad := s.poisoned (.well s.turn.core) (waAddr (s.src b) z i) (waSize z)
  onCore s (fun k =>
    let k1 := k.put s.eng s.issue d x
    if bad then k1.dataError s.eng s.issue 0 (waAddr (s.src b) z i) else k1)

def execLd (d b : Reg) (z : BitVec 2) (i : BitVec 12) (s : State) :=
  loadResult s d b z i (BitVec.ofNat 64 (leNat (loadBytes s b z i)))
def execLds (d b : Reg) (z : BitVec 2) (i : BitVec 12) (s : State) :=
  loadResult s d b z i (BitVec.ofInt 64 (signed (8 * waSize z) (leNat (loadBytes s b z i))))
def execSt (d b : Reg) (z : BitVec 2) (i : BitVec 12) (s : State) : Host.Outcome State Fault Refusal :=
  onCore s (fun k =>
    (k.wellWrite (pathOf s.eng) s.nextId (waAddr (s.src b) z i) (leBytes (waSize z) (s.src d).toNat)).finish s.eng s.issue)

def execAddr (d a b : Reg) (h : BitVec 2) (i : BitVec 6) (s : State) :=
  scalarResult s d (s.src a + (s.src b <<< h.toNat) + i.signExtend 64)

end Machine
end Sys2Proof
end

