-- ==== Sys2Proof/Machine/Visible.lean ====
section
/-! DEFINITION. Writes to HBM, host memory and wells as they become performed with respect to observers (R297-R312). -/

namespace Sys2Proof
namespace Machine

/-- Observers of global memory by scope code (R297). -/
def dieMask (core : Nat) : Nat := (2 ^ 16 - 1) * 2 ^ (core / 16 * 16)
def packageMask : Nat := 2 ^ 129 - 1
def scopeMask (scp core : Nat) : Nat :=
  match scp with
  | 0 => 2 ^ core
  | 1 => 15 * 2 ^ (core / 4 * 4)
  | 2 => dieMask core
  | 3 => packageMask
  | _ => globalAll

/-- The observers with respect to whom a write becomes performed together when it is performed for `m`: the front end is an
observer of the package whose reads are not followed one by one, so a write that is multi-copy atomic at PACKAGE scope is
performed for the whole package with it (R310; log 75). -/
def grain (w : PWrite) (m : Nat) : Nat := if w.mca && m.testBit 128 then m ||| packageMask else m

/-- The observers that must have the write before core `j` reads it (R310): its writer's die, when `j` is of that die, and the
package when it is multi-copy atomic there. -/
def atomicSet (w : PWrite) (j : Nat) : Nat :=
  (if w.mca then packageMask else 0) ||| (if w.core < 128 && j / 16 == w.core / 16 then dieMask w.core else 0)

/-- Observers of global memory as observers of core `x`'s well: core j reads through a window as 8 + j. What is performed for
any of them has arrived in the well, where path P sees it (R302). -/
def wellMask (m : Nat) : Nat :=
  (m % 2 ^ 128) * 2 ^ 8 ||| 2 ^ pathP ||| (if m.testBit 130 then 2 ^ 136 else 0)

/-- Writes of some identifiers shown in one memory to a mask of global observers. -/
def VMem.perform (v : VMem) (ids : List Nat) (m : Nat) : VMem :=
  settle globalAll v.base (v.pend.map (fun w => if ids.contains w.id then { w with seen := w.seen ||| grain w m } else w))

/-- Writes of some identifiers performed in the well of core `x`, to a mask of global observers. One that no observer has seen
arrives: it takes its place at the end of the coherence order, and core `x` can read it from then on (R20, R300, R302). In a
release's carried set they become visible to every path (`rel`, R303). -/
def VMem.performWell (x : Nat) (v : VMem) (ids : List Nat) (m : Nat) (rel : Bool) : VMem :=
  let arrives (w : PWrite) : Bool := ids.contains w.id && w.seen == 0
  let shown (w : PWrite) : PWrite :=
    if ids.contains w.id then
      { w with seen := w.seen ||| wellMask (grain w (if w.seen = 0 then m ||| atomicSet w x else m)) ||| (if rel then pathsAll else 0) }
    else w
  settle wellAll v.base ((v.pend.filter (fun w => !arrives w) ++ v.pend.filter arrives).map shown)

/-- The pending writes with some identifiers, wherever they are. -/
def State.pending (s : State) (ids : List Nat) : List PWrite :=
  if ids.isEmpty then [] else
  (s.hbm.pend ++ s.host.pend ++ s.cores.toList.flatMap (fun k => k.well.pend)).filter (fun w => ids.contains w.id)

/-- Two writes of one stream with a byte in common. -/
def PWrite.clash (a b : PWrite) : Bool :=
  a.core == b.core && a.stream == b.stream && a.cells.any (fun c => b.cells.any (fun d => c.1 == d.1))

/-- Of a well's writes in order: those of some identifiers, and the writes of the same stream that must arrive before one of
them, having an earlier place in its commit order and a byte in common (R300). -/
def withEarlier (ids : List Nat) : List PWrite → List PWrite
  | [] => []
  | w :: r =>
    let t := withEarlier ids r
    if ids.contains w.id || (w.seen == 0 && t.any (PWrite.clash w)) then w :: t else t
def State.withEarlier (s : State) (ids : List Nat) : List Nat :=
  (ids ++ s.cores.toList.flatMap (fun k => (Machine.withEarlier ids k.well.pend).map (·.id))).dedup

/-- Writes shown in every memory. -/
def State.showIds (s : State) (ids : List Nat) (m : Nat) (rel : Bool) : State :=
  if ids.isEmpty then s else
  { s with
    hbm := s.hbm.perform ids m, host := s.host.perform ids m,
    cores := Vector.ofFn (fun (c : Fin 128) =>
      let k := s.cores[c.val]
      { k with well := k.well.performWell c.val ids m rel }) }

/-- Identifiers of a well's writes that are of the same command and aligned 64-byte chunk as one of `ids`, releases left out: a chunk
is one bank access (R12, R223). -/
def VMem.mates (v : VMem) (ids : List Nat) : List Nat :=
  (v.pend.filter (fun w => w.cmd != 0 && w.deps.isEmpty
    && v.pend.any (fun x => ids.contains x.id && x.cmd == w.cmd && x.chunk == w.chunk))).map (·.id)
def State.withMates (s : State) (ids : List Nat) : List Nat := (ids ++ s.cores.toList.flatMap (fun k => k.well.mates ids)).dedup

/-- Writes become performed with respect to `m`, each after its carried set has been performed at its own scope (R306), which shows
that set, and a release to the well itself, to every path of its core (R303); `fuel` bounds the chain of releases that carry
releases. -/
def State.performIds : Nat → State → List Nat → Nat → State
  | 0, s, ids, m => s.showIds ids m false
  | fuel + 1, s, ids, m =>
    let ids := s.withEarlier ids
    let ws := s.pending ids
    let s1 := ws.foldl (fun s w =>
      if w.deps.isEmpty then s
      else (State.performIds fuel s (s.withMates w.deps) w.scope).showIds (s.withMates w.deps) w.scope true) s
    (s1.showIds ids m false).showIds ((ws.filter (fun w => !w.deps.isEmpty)).map (·.id)) 0 true

/-- No chain of releases is longer than the writes that are pending. -/
def State.relFuel (s : State) : Nat :=
  (s.cores.toList.map (fun k => k.well.pend.length)).foldl (· + ·) (s.hbm.pend.length + s.host.pend.length) + 1

/-- Writes of some identifiers become performed with respect to a mask of observers. -/
def State.perform (s : State) (ids : List Nat) (m : Nat) : State := State.performIds s.relFuel s ids m

/-- Writes become performed at their destination: at the page's scope on an SO page, otherwise on the writer's die (R299). -/
def State.performDest (s : State) (core : Nat) (ids : List Nat) : State :=
  (s.pending ids).foldl (fun s w => s.perform [w.id] (if w.so then w.scope ||| dieMask core else dieMask core)) s

/-- Identifiers of the pending writes of one stream. -/
def State.idsOf (s : State) (core stream : Nat) : List Nat :=
  (((s.hbm.pend ++ s.host.pend ++ s.cores.toList.flatMap (fun k => k.well.pend)).filter
    (fun w => w.core == core && w.stream == stream)).map (·.id)).dedup

/-- Identifiers of one stream's pending writes to SO pages (R304). -/
def State.soIds (s : State) (core stream : Nat) : List PWrite :=
  (s.hbm.pend ++ s.host.pend ++ s.cores.toList.flatMap (fun k => k.well.pend)).filter
    (fun w => w.core == core && w.stream == stream && w.so)

/-! ### Chunks of a well (R12, R223, R276; log 21) -/

/-- The chunk of a write is being filled: the command of the write is the one that its stream on the writing core `k` executes, and
the chunk is not whole: the command has not written all 64 bytes of it, or updates it as its NORM tap (R173). -/
def chunkPart (k : Core) (v : VMem) (w : PWrite) : Bool :=
  match (vget k.streams w.stream {}).cmd with
  | none => false
  | some c =>
    let ws := v.pend.filter (fun x => x.cmd == w.cmd && x.chunk == w.chunk)
    w.cmd != 0 && c.uid == w.cmd
      && (ws.any (·.tap) || !(List.range 64).all (fun i => ws.any (fun x => x.cells.any (fun y => y.1 == 64 * w.chunk + i))))

/-- The write is one that its stream still gathers with the rest of its chunk: the stream runs and waits for nothing, and the write is
newer than what its command's last per-m post covered (R172). -/
def gathers (k : Core) (w : PWrite) : Bool :=
  let t := vget k.streams w.stream {}
  t.state == .active && !t.waiting && (match t.cmd with
    | some c => decide (c.landed ≤ w.id)
    | none => false)

/-- A write of a chunk that is being filled does not become visible by itself: to V and M as long as its command executes (R223, R276),
and in the well, where path P and the windows see it, while its stream gathers it. -/
def chunkOpen (k : Core) (v : VMem) (obs : Nat) (w : PWrite) : Bool :=
  chunkPart k v w && (obs == pathOf .v || obs == pathOf .m || gathers k w)

/-- The core that made a write, and whether the write's chunk of a well is closed to an observer. -/
def State.writer (s : State) (w : PWrite) : Core := s.coreAt ⟨w.core % 128, Nat.mod_lt _ (by decide)⟩
def State.chunkOpen (s : State) (v : VMem) (obs : Nat) (w : PWrite) : Bool := Machine.chunkOpen (s.writer w) v obs w

/-- Some writes that have not arrived in a well arrive there. -/
def State.arrive (s : State) (c : Fin 128) (p : PWrite → Bool) : State :=
  let late := ((s.coreAt c).well.pend.filter (fun w => w.seen == 0 && p w)).map (·.id)
  if late.isEmpty then s else s.perform late (2 ^ c.val)

/-- What an engine's FENCE finds written in its well (R141, R194): the writes of the core's own streams arrive, but for those that a
stream still gathers, and so does the rest of a chunk that has begun to arrive through a window (log 21). -/
def State.arriveWell (s : State) (c : Fin 128) : State :=
  let v := (s.coreAt c).well
  s.arrive c (fun w => !s.chunkOpen v pathP w && (w.core == c.val
    || (w.cmd != 0 && v.pend.any (fun x => x.seen != 0 && x.cmd == w.cmd && x.chunk == w.chunk))))

/-- The writes of a core's own streams are in its well (R194). -/
def State.landOwn (s : State) (c : Fin 128) : State := s.arrive c (fun w => w.core == c.val)

/-- Another stream of the core gathers a chunk of a well. -/
def State.gathering (s : State) (c : Fin 128) (n : Nat) : Bool :=
  s.cores.toList.any (fun k => k.well.pend.any (fun w => w.core == c.val && w.stream != n && s.chunkOpen k.well pathP w))

/-- The writes by which streams have begun to fill chunks of a core's well, of which V and M have seen nothing (R223, R276). -/
def State.filling (s : State) (c : Fin 128) : List PWrite :=
  let v := (s.coreAt c).well
  v.pend.filter (fun w => w.seen != 0 && chunkPart (s.writer w) v w && !w.seen.testBit (pathOf .v) && !w.seen.testBit (pathOf .m))

/-- The carried set of a release by a stream at scope code `scp` (R306, R307). -/
def State.carried (s : State) (core : Fin 128) (stream : Nat) (scp : Nat) : List Nat :=
  let t := vget (s.coreAt core).streams stream {}
  let other := (s.pending t.readIds).filter (fun w =>
    scp ≥ 3 || (w.core < 128 && w.core / 16 == core.val / 16) || w.mca)
  (s.idsOf core.val stream ++ t.wrote ++ other.map (·.id)).dedup

end Machine
end Sys2Proof
end

