-- ==== Sys2Proof/Machine/Common.lean ====
section
/-! DEFINITION. The common group (R134-R143): semaphores, followers' transfers, END, FENCE, TRAP, SEND and RECV. -/

namespace Sys2Proof
namespace Machine

/-- The semaphore an SM instruction names (R104, R134). -/
def smOff (base : W) (o : BitVec 8) : Off := (base + (o.signExtend 64 <<< 3)).setWidth 23

/-- A storage data error in a semaphore that the instruction has read: it is taken once the operation is done on the bytes as
read (R56, R328; log 73). -/
def Core.semError (k : Core) (s : State) (off : Off) : Core :=
  if s.poisoned (.well s.turn.core) (semAt off) 8 then k.dataError s.eng s.issue 0 (semAt off) else k

/-- SEMW (R65, R134): with the step already performed, or n = 0, or the count at least n, it completes; otherwise the engine
waits in the order in which it began to. -/
def semWait (s : State) (off : Off) (n : W32) : Host.Outcome State Fault Refusal :=
  onCore s (fun k =>
    if n == 0 then k.finish s.eng s.issue
    else if (k.ctx s.eng).granted.isSome then (k.finish s.eng s.issue).semError s off
    else if n.toNat ≤ k.semCount off then
      (({ k.semWrite s.nextId off (k.semCount off - n.toNat) with
          waiters := k.waiters.filter (fun w => w.1 != s.eng) }).finish s.eng s.issue).semError s off
    else
      ({ k with waiters := if k.waiters.any (fun w => w.1 == s.eng) then k.waiters else k.waiters ++ [(s.eng, off, n)] }).stallOn
        s.eng (.sem off n s.issue))

def execSemw (b : Reg) (o : BitVec 8) (n : BitVec 11) (s : State) := semWait s (smOff (s.src b) o) (n.setWidth 32)
def execSemwReg (b : Reg) (o : BitVec 8) (r : Reg) (s : State) := semWait s (smOff (s.src b) o) ((s.src r).setWidth 32)

/-- SEMP (R64, R134): n added, and the instruction completes. -/
def semSignal (s : State) (off : Off) (n : W32) : Host.Outcome State Fault Refusal :=
  onCore s (fun k => ((k.semPost s.nextId off n.toNat).finish s.eng s.issue).semError s off)

def execSemp (b : Reg) (o : BitVec 8) (n : BitVec 11) (s : State) := semSignal s (smOff (s.src b) o) (n.setWidth 32)
def execSempReg (b : Reg) (o : BitVec 8) (r : Reg) (s : State) := semSignal s (smOff (s.src b) o) ((s.src r).setWidth 32)

/-- The kind an outcome shows in TINFO (R328): [1:0] kind met, [2] routine or release. -/
def outcInfo : Outc → W
  | .branch .jump _ _ => 0
  | .branch .call _ _ => 1
  | .branch .ret _ _ => 2
  | .arm .. => 3
  | .routine _ => 5
  | .release _ => 4

/-- A taken transfer waits for its delay line (R46). -/
def EngineCtx.transfer (x : EngineCtx) (t : LineIx) : EngineCtx := { x with pend := some t }

/-- A follower's BRF of a kind (R47, R48, R136). -/
def brfKind (s : State) (kind : TKind) : Host.Outcome State Fault Refusal :=
  onCore s (fun k =>
    let x := k.ctx s.eng
    match x.outq with
    | [] => k.stallOn s.eng .outEmpty
    | .branch kd taken target :: rest =>
      if kd ≠ kind then k.trapAt s.eng s.issue 0x06 (outcInfo (.branch kd taken target))
      else if !taken then (k.modCtx s.eng (fun x => { x with outq := rest })).finish s.eng s.issue
      else match kind with
        | .jump => (k.modCtx s.eng (fun x => { x.transfer target with outq := rest })).finish s.eng s.issue
        | .call =>
          if x.stack.length ≥ 8 then k.trapAt s.eng s.issue 0x07 0
          else (k.modCtx s.eng (fun x =>
            { x.transfer target with outq := rest, stack := .line (x.line.setWidth 13 + 2) :: x.stack })).finish s.eng s.issue
        | .ret =>
          match x.stack with
          | [] => k.trapAt s.eng s.issue 0x08 0
          | .ctrl .. :: _ => k.trapAt s.eng s.issue 0x0F (s.issue.word.setWidth 64)
          | .line l :: st =>
            (k.modCtx s.eng (fun x => { x.transfer l with outq := rest, stack := st })).finish s.eng s.issue
    | o :: _ => k.trapAt s.eng s.issue 0x06 (outcInfo o))

def execBrf (s : State) := brfKind s .jump
def execBrfCall (s : State) := brfKind s .call
def execBrfRet (s : State) := brfKind s .ret

/-- NOP has no effect (R140). -/
def execNop (s : State) : Host.Outcome State Fault Refusal := onCore s (fun k => k.finish s.eng s.issue)

/-- A chain of the cell is running or queued on some stream (R35, R36). -/
def Core.chainsOf (k : Core) (cell : Nat) : Bool :=
  k.streams.toList.any (fun t =>
    (match t.chain with | some c => c.cell == cell | none => false) || t.queued.any (fun c => c.cell == cell)
      || t.completing.any (fun c => c.cell == cell))

/-- Handle sets of cells that are neither resident nor have a chain running are dropped, and their banks return (R35). -/
def Core.dropSets (k : Core) : Core :=
  ({ k with cist := { k.cist with
      sets := k.cist.sets.filter (fun t => k.chainsOf t.cell || (k.cell.isSome && t.cell == k.cellId)) } }).reclaim

/-- A cell retires once its four engines have executed END: what its queues hold is discarded, and its banks return unless a
chain of the cell still runs (R35). -/
def Core.retire (k : Core) : Core :=
  if allEngines.all (fun e => (k.ctx e).ended) then
    ({ k with cell := none, tok := Vector.replicate 16 0, vals := Vector.replicate 16 [], waiters := [] }).dropSets
  else k

/-- END (R35, R140). In the handler it is a double trap (R331); while the controller is active, refinement misuse (R291). -/
def execEndEngine (s : State) : Host.Outcome State Fault Refusal :=
  onCore s (fun k =>
    if k.handler.isSome then k.trapAt s.eng s.issue 0x11 0
    else if k.ref.pc ≠ .idle then k.trapAt s.eng s.issue 0x0F (s.issue.word.setWidth 64)
    else match (k.ctx s.eng).outq with
      | o :: _ => k.trapAt s.eng s.issue 0x06 (outcInfo o)
      | [] => ((k.finish s.eng s.issue).modCtx s.eng (fun x => { x with ended := true })).retire)

/-- A class set of a FENCE, C in the high bit, as a mask of observers (R107, R141). -/
def classMask (f : BitVec 5) : Nat :=
  bnat (f.getLsbD 4) + 2 * bnat (f.getLsbD 3) + 4 * bnat (f.getLsbD 2) + 8 * bnat (f.getLsbD 1) + 16 * bnat (f.getLsbD 0)

/-- FENCE (R141, R263): writes of the first set's paths, performed in the well, URS or cistern, become visible to every path
of the second. The engine's own earlier accesses have been performed, since each is performed at its step. What a stream still
gathers for a chunk has not been performed (log 21). -/
def execFence (f t : BitVec 5) (s : State) : Host.Outcome State Fault Refusal :=
  let s1 := if classMask f &&& 2 ^ pathP ≠ 0 ∧ t ≠ 0 then s.arriveWell s.turn.core else s
  onCore s1 (fun k =>
    ({ k with
        well := k.well.fence (classMask f) (classMask t), urs := k.urs.fence (classMask f) (classMask t),
        cist := { k.cist with data := k.cist.data.fence (classMask f) (classMask t) } }).finish s.eng s.issue)

/-- TRAP (R142): explicit trap with TINFO := code. -/
def execTrap (c : BitVec 16) (s : State) : Host.Outcome State Fault Refusal :=
  onCore s (fun k => k.trapAfter s.eng s.issue 0x0E (c.setWidth 64))

/-- SEND (R143): a value queue holds 8 entries. -/
def execSend (r : Reg) (e : Engine) (s : State) : Host.Outcome State Fault Refusal :=
  onCore s (fun k =>
    let q := vget k.vals (qIdx s.eng e) []
    if q.length ≥ 8 then k.stallOn s.eng (.valFull e)
    else ({ k with vals := vset k.vals (qIdx s.eng e) (q ++ [k.getS s.eng r]) }).finish s.eng s.issue)

/-- RECV (R143). -/
def execRecv (r : Reg) (e : Engine) (s : State) : Host.Outcome State Fault Refusal :=
  onCore s (fun k =>
    match vget k.vals (qIdx e s.eng) [] with
    | [] => k.stallOn s.eng (.valEmpty e)
    | x :: rest => ({ k with vals := vset k.vals (qIdx e s.eng) rest }).put s.eng s.issue r x)

end Machine
end Sys2Proof
end

