-- ==== Sys2Proof/Machine/Control.lean ====
section
/-! DEFINITION. The C engine's branches, loops, control registers, rendezvous points and shadow configuration
(R44-R51, R69-R71, R144-R154), and the return from the handler (R155, R331). -/

namespace Sys2Proof
namespace Machine

/-- PREP (R45, R144). -/
def execPrep (b : BitVec 3) (o : BitVec 13) (s : State) : Host.Outcome State Fault Refusal :=
  onCore s (fun k =>
    ({ k with regs := { k.regs with b := vset k.regs.b b.toNat (s.issue.line + o.setWidth 12) } }).finish s.eng s.issue)

/-- Every branch-outcome queue of these engines has room (R41, R44). -/
def Core.outRoom (k : Core) (ds : List Engine) : Bool := ds.all (fun d => decide ((k.ctx d).outq.length < k.slipw))

/-- One outcome pushed to each queue. -/
def Core.outPush (k : Core) (ds : List Engine) (o : Outc) : Core :=
  ds.foldl (fun k d => k.modCtx d (fun x => { x with outq := x.outq ++ [o] })) k

/-- BR, CALL and RET (R145): the stack is tested first, then the queues; all pushes are made together. -/
def transferC (s : State) (kind : TKind) (taken : Bool) (target : LineIx) (m : BitVec 3) : Host.Outcome State Fault Refusal :=
  onCore s (fun k =>
    let ds := maskEngines m
    if k.handler.isSome && !ds.isEmpty then k.trapAt s.eng s.issue 0x11 0
    else if taken && kind == .call && decide (k.ec.stack.length ≥ 8) then k.trapAt s.eng s.issue 0x07 0
    else if taken && kind == .ret && k.ec.stack.isEmpty then k.trapAt s.eng s.issue 0x08 0
    else if taken && kind == .ret && (match k.ec.stack with | .ctrl .. :: _ => true | _ => false) then
      k.trapAt s.eng s.issue 0x0F (s.issue.word.setWidth 64)
    else if !k.outRoom ds then k.stallOn s.eng (.outFull ds)
    else
      let k1 := k.outPush ds (.branch kind taken target)
      let k2 := if !taken then k1 else
        match kind with
        | .jump => k1.modCtx .c (fun x => x.transfer target)
        | .call => k1.modCtx .c (fun x => { x.transfer target with stack := .line (s.issue.line.setWidth 13 + 2) :: x.stack })
        | .ret => k1.modCtx .c (fun x =>
            match x.stack with
            | .line l :: st => { x.transfer l with stack := st }
            | _ => x)
      k2.finish s.eng s.issue)

/-- The condition of a BC instruction: bit i of g equals the sense (R103, R145). -/
def bcTaken (s : State) (g i : BitVec 6) (sense : Bool) : Bool := (s.core.getS .c g).getLsbD i.toNat == sense
/-- A branch-target register (R45). -/
def bTarget (s : State) (b : BitVec 3) : LineIx := (vget s.core.regs.b b.toNat 0).setWidth 13

def execBr (b : BitVec 3) (g i : BitVec 6) (n : Bool) (m : BitVec 3) (s : State) :=
  transferC s .jump (bcTaken s g i n) (bTarget s b) m
def execBrUncond (b : BitVec 3) (m : BitVec 3) (s : State) := transferC s .jump true (bTarget s b) m
def execCall (b : BitVec 3) (g i : BitVec 6) (n : Bool) (m : BitVec 3) (s : State) :=
  transferC s .call (bcTaken s g i n) (bTarget s b) m
def execCallUncond (b : BitVec 3) (m : BitVec 3) (s : State) := transferC s .call true (bTarget s b) m
def execRet (g i : BitVec 6) (n : Bool) (m : BitVec 3) (s : State) := transferC s .ret (bcTaken s g i n) 0 m
def execRetUncond (m : BitVec 3) (s : State) := transferC s .ret true 0 m

/-- LOOPB (R51, R147): one arm to all three followers; C continues at L + len + 1. In the handler it is a double trap. -/
def execLoopb (g : Reg) (l : BitVec 7) (m : BitVec 3) (v w : BitVec 4) (s : State) : Host.Outcome State Fault Refusal :=
  onCore s (fun k =>
    if k.handler.isSome then k.trapAt s.eng s.issue 0x11 0
    else if !k.outRoom followers then k.stallOn s.eng (.outFull followers)
    else
      let len := l.toNat + 1
      let k1 := k.outPush followers (.arm ((k.getS .c g).setWidth 32) len m v.toNat w.toNat)
      (k1.modCtx .c (fun x => { x with seqNext := some (s.issue.line.toNat + len + 1) })).finish s.eng s.issue)

/-- CSRR (R148): the value read; CYCLE keeps what it showed. -/
def execCsrr (d : Reg) (i : BitVec 12) (s : State) : Host.Outcome State Fault Refusal :=
  onCore s (fun k =>
    ({ k with cycle := if i = 0x014 then csrRead s i else k.cycle }).put s.eng s.issue d (csrRead s i))

/-- CSRW (R99, R148). -/
def execCsrw (r : Reg) (i : BitVec 12) (s : State) : Host.Outcome State Fault Refusal :=
  onCore s (fun k => ({ k with csr := csrWrite k.csr i (k.getS s.eng r) }).finish s.eng s.issue)

/-- MCW (R154): the shadow bank. -/
def execMcw (r : Reg) (i : BitVec 12) (s : State) : Host.Outcome State Fault Refusal :=
  onCore s (fun k =>
    ({ k with mx := { k.mx with shadow := vset k.mx.shadow i.toNat (k.getS s.eng r) } }).finish s.eng s.issue)

/-- RETT (R155, R331): illegal outside the handler. -/
def execRett (s : State) : Host.Outcome State Fault Refusal :=
  onCore s (fun k =>
    match k.handler with
    | none => k.illegal s.eng s.issue
    | some h => k.rett h)

/-! ### Rendezvous points (R68-R71, R152) -/

/-- The team of the cell on the core of the turn: its partition, its superstep. -/
def State.team (s : State) : Option (Nat × BitVec 10 × SStep × Cell) :=
  match s.core.cell with
  | none => none
  | some c => ((s.part c.part.val).run).map (fun r => (c.part.val, r.1, r.2, c))

/-- A point of the team, and the state with the point replaced. -/
def SStep.point (t : SStep) (p : Nat) : Point := vget t.points p {}
def State.setPoint (s : State) (part : Nat) (q : BitVec 10) (t : SStep) (p : Nat) (x : Point) : State :=
  s.setPart part { s.part part with run := some (q, { t with points := vset t.points p x }) }

/-- Phases that complete: the point moves on, carrying the arrivals counted toward the next phase (R70). -/
def Point.advance : Nat → Point → Point
  | 0, x => x
  | n + 1, x =>
    match x.count with
    | some c => if c ≤ x.now then Point.advance n { x with phase := x.phase + 1, now := x.next, next := 0 } else x
    | none => x

/-- The cell's next arrival number at a point (R70). -/
def Point.arrival (x : Point) (cell : Nat) : Nat := (List.lookup cell x.arrivals).getD 0
def Point.arrive (x : Point) (cell : Nat) : Point :=
  { x with arrivals := (cell, x.arrival cell + 1) :: x.arrivals.filter (fun a => a.1 != cell) }

/-- Barrier misuse (R69-R71), or a double trap in the handler (R331): TINFO holds the point. -/
def barrierTrap (s : State) (p : BitVec 5) : Host.Outcome State Fault Refusal :=
  onCore s (fun k => k.trapAt s.eng s.issue 0x0A (p.setWidth 64))

/-- A BA instruction that completes at the barrier unit. -/
def barrierDone (s : State) (f : Core → Core) : Host.Outcome State Fault Refusal := onCore s f

/-- BINIT (R69, R152). -/
def execBinit (r : Reg) (p : BitVec 5) (s : State) : Host.Outcome State Fault Refusal :=
  match s.team with
  | none => onCore s (fun k => k.finish s.eng s.issue)
  | some (part, q, t, _) =>
    let x := t.point p.toNat
    let c := s.src r
    if s.core.handler.isSome || p.toNat ≥ 24 || x.count.isSome || c == 0 || decide (c.toNat > 65535) then barrierTrap s p
    else barrierDone (s.setPoint part q t p.toNat (Point.advance 2 { x with count := some c.toNat }))
      (fun k => k.finish s.eng s.issue)

/-- BARV (R70, R152). -/
def execBarv (r : Reg) (p : BitVec 5) (s : State) : Host.Outcome State Fault Refusal :=
  match s.team with
  | none => onCore s (fun k => k.finish s.eng s.issue)
  | some (part, q, t, c) =>
    let x := t.point p.toNat
    let j := x.arrival c.linear
    if s.core.handler.isSome || p.toNat ≥ 24 || decide (j < x.phase) then barrierTrap s p
    else if j ≥ x.phase + 2 then onCore s (fun k => k.stallOn s.eng (.barv p.toNat))
    else
      let x1 := x.arrive c.linear
      let x2 := if j = x.phase then { x1 with now := x1.now + 1 } else { x1 with next := x1.next + 1 }
      barrierDone (s.setPoint part q t p.toNat (Point.advance 2 x2))
        (fun k => k.put s.eng s.issue r (BitVec.ofNat 64 j))

/-- BWT (R71, R152). -/
def execBwt (r : Reg) (p : BitVec 5) (s : State) : Host.Outcome State Fault Refusal :=
  match s.team with
  | none => onCore s (fun k => k.finish s.eng s.issue)
  | some (_, _, t, _) =>
    let x := t.point p.toNat
    let ph := (s.src r).toNat
    if s.core.handler.isSome || p.toNat ≥ 24 || decide (ph > x.phase + 1) then barrierTrap s p
    else if ph < x.phase then onCore s (fun k => k.finish s.eng s.issue)
    else onCore s (fun k => k.stallOn s.eng (.bwt p.toNat (s.src r)))

end Machine
end Sys2Proof
end

