-- ==== Sys2Proof/Machine/Crypto.lean ====
section
/-! DEFINITION. The ciphers and hashes the manual names and their own standards define: SHA-256 (R332, R358, R361), HKDF-Expand
(R361), AES-256 in XTS mode (R324) and AES Key Wrap (R361, RFC 3394). Their tables are taken from those standards (log 6). -/

namespace Sys2Proof
namespace Machine

/-! ### SHA-256 -/

/-- First 32 bits of the fractional part of a cube root or square root, by the standard's own definition: ⌊p^(1/3)·2^32⌋. -/
def icbrtBits : Nat → Nat → Nat → Nat
  | 0, _, r => r
  | k + 1, n, r =>
    let t := r + 2 ^ k
    if t * t * t ≤ n then icbrtBits k n t else icbrtBits k n r

def isqBits : Nat → Nat → Nat → Nat
  | 0, _, r => r
  | k + 1, n, r =>
    let t := r + 2 ^ k
    if t * t ≤ n then isqBits k n t else isqBits k n r

/-- The first 64 primes. -/
def primes64 : List Nat :=
  [2, 3, 5, 7, 11, 13, 17, 19, 23, 29, 31, 37, 41, 43, 47, 53] ++
  [59, 61, 67, 71, 73, 79, 83, 89, 97, 101, 103, 107, 109, 113, 127, 131] ++
  [137, 139, 149, 151, 157, 163, 167, 173, 179, 181, 191, 193, 197, 199, 211, 223] ++
  [227, 229, 233, 239, 241, 251, 257, 263, 269, 271, 277, 281, 283, 293, 307, 311]

def shaK : List (BitVec 32) := primes64.map (fun p => BitVec.ofNat 32 (icbrtBits 36 (p * 2 ^ 96) 0))
def shaInit : List (BitVec 32) := (primes64.take 8).map (fun p => BitVec.ofNat 32 (isqBits 38 (p * 2 ^ 64) 0))

def rotr (x : BitVec 32) (n : Nat) : BitVec 32 := x.rotateRight n

/-- The message schedule, newest word first, from the 16 words of a block. -/
def shaSched : Nat → List (BitVec 32) → List (BitVec 32)
  | 0, ws => ws
  | n + 1, ws =>
    let a := ws.getD 1 0
    let b := ws.getD 14 0
    let s0 := rotr b 7 ^^^ rotr b 18 ^^^ (b >>> 3)
    let s1 := rotr a 17 ^^^ rotr a 19 ^^^ (a >>> 10)
    shaSched n ((ws.getD 15 0 + s0 + ws.getD 6 0 + s1) :: ws)

/-- One round on the eight working words. -/
def shaRound (h : List (BitVec 32)) (kw : BitVec 32 × BitVec 32) : List (BitVec 32) :=
  match h with
  | [a, b, c, d, e, f, g, hh] =>
    let t1 := hh + (rotr e 6 ^^^ rotr e 11 ^^^ rotr e 25) + ((e &&& f) ^^^ (~~~e &&& g)) + kw.1 + kw.2
    let t2 := (rotr a 2 ^^^ rotr a 13 ^^^ rotr a 22) + ((a &&& b) ^^^ (a &&& c) ^^^ (b &&& c))
    [t1 + t2, a, b, c, d + t1, e, f, g]
  | x => x

def be32s : Nat → List Byte → List (BitVec 32)
  | 0, _ => []
  | n + 1, bs => BitVec.ofNat 32 (beNat (bs.take 4)) :: be32s n (bs.drop 4)

def shaBlock (h : List (BitVec 32)) (blk : List Byte) : List (BitVec 32) :=
  let ws := (shaSched 48 (be32s 16 blk).reverse).reverse
  ((shaK.zip ws).foldl shaRound h).zipWith (· + ·) h

def shaBlocks : Nat → List Byte → List (BitVec 32) → List (BitVec 32)
  | 0, _, h => h
  | n + 1, bs, h => shaBlocks n (bs.drop 64) (shaBlock h (bs.take 64))

/-- SHA-256 of a byte string: 32 bytes. -/
def sha256 (m : List Byte) : List Byte :=
  let n := m.length
  let pad := (119 - n % 64) % 64
  let full := m ++ [0x80] ++ List.replicate pad 0 ++ beBytes 8 (8 * n)
  (shaBlocks (full.length / 64) full shaInit).flatMap (fun w => beBytes 4 w.toNat)

def hmac (key m : List Byte) : List Byte :=
  let k0 := if key.length > 64 then sha256 key else key
  let k := k0 ++ List.replicate (64 - k0.length) 0
  sha256 (k.map (· ^^^ 0x5C) ++ sha256 (k.map (· ^^^ 0x36) ++ m))

/-- HKDF-Expand with SHA-256 for 32 bytes: one block. -/
def hkdfExpand32 (prk info : List Byte) : List Byte := hmac prk (info ++ [1])

/-- The ASCII bytes of "svx key wrap" (R361). -/
def wrapInfo : List Byte := [0x73, 0x76, 0x78, 0x20, 0x6B, 0x65, 0x79, 0x20, 0x77, 0x72, 0x61, 0x70]

/-! ### AES-256 -/

/-- Multiplication by x in GF(2^8), and of two elements, as numbers of eight bits. -/
def xtime (a : Nat) : Nat := (2 * a) % 256 ^^^ a / 128 * 0x1B
def gmulN (a b : Nat) : Nat :=
  let a1 := xtime a
  let a2 := xtime a1
  let a3 := xtime a2
  let a4 := xtime a3
  let a5 := xtime a4
  let a6 := xtime a5
  (b % 2 * a) ^^^ (b / 2 % 2 * a1) ^^^ (b / 4 % 2 * a2) ^^^ (b / 8 % 2 * a3) ^^^ (b / 16 % 2 * a4) ^^^ (b / 32 % 2 * a5)
    ^^^ (b / 64 % 2 * a6) ^^^ (b / 128 % 2 * xtime a6)
def gmul (a b : Byte) : Byte := BitVec.ofNat 8 (gmulN a.toNat b.toNat)
/-- a^254, the inverse (0 to 0). -/
def ginv (x : Byte) : Byte :=
  let a := x.toNat
  let a2 := gmulN a a
  let a4 := gmulN a2 a2
  let a8 := gmulN a4 a4
  let a16 := gmulN a8 a8
  let a32 := gmulN a16 a16
  let a64 := gmulN a32 a32
  let a128 := gmulN a64 a64
  BitVec.ofNat 8 (gmulN a128 (gmulN a64 (gmulN a32 (gmulN a16 (gmulN a8 (gmulN a4 a2))))))
def sbox (a : Byte) : Byte :=
  let b := ginv a
  b ^^^ b.rotateLeft 1 ^^^ b.rotateLeft 2 ^^^ b.rotateLeft 3 ^^^ b.rotateLeft 4 ^^^ 0x63
def sboxInv (a : Byte) : Byte := ginv (a.rotateLeft 1 ^^^ a.rotateLeft 3 ^^^ a.rotateLeft 6 ^^^ 0x05)

def xorB (a b : List Byte) : List Byte := a.zipWith (· ^^^ ·) b

/-- Key expansion, newest word first; `i` counts words made. -/
def keyExp : Nat → Nat → Byte → List (List Byte) → List (List Byte)
  | 0, _, _, ws => ws
  | n + 1, i, rc, ws =>
    let t := ws.getD 0 []
    let t1 :=
      if i % 8 = 0 then
        match t with
        | [a, b, c, d] => [sbox b ^^^ rc, sbox c, sbox d, sbox a]
        | x => x
      else if i % 8 = 4 then t.map sbox else t
    keyExp n (i + 1) (if i % 8 = 0 then BitVec.ofNat 8 (xtime rc.toNat) else rc) (xorB (ws.getD 7 []) t1 :: ws)

def chunks4 : Nat → List Byte → List (List Byte)
  | 0, _ => []
  | n + 1, bs => bs.take 4 :: chunks4 n (bs.drop 4)

/-- The fifteen round keys of a 32-byte key. -/
def roundKeys (key : List Byte) : List (List Byte) :=
  let ws := (keyExp 52 8 1 (chunks4 8 key).reverse).reverse
  (List.range 15).map (fun r => ((ws.drop (4 * r)).take 4).flatten)

def permBytes (p : List Nat) (b : List Byte) : List Byte := p.map (fun i => b.getD i 0)
def shiftRows (b : List Byte) : List Byte := permBytes [0, 5, 10, 15, 4, 9, 14, 3, 8, 13, 2, 7, 12, 1, 6, 11] b
def shiftRowsInv (b : List Byte) : List Byte := permBytes [0, 13, 10, 7, 4, 1, 14, 11, 8, 5, 2, 15, 12, 9, 6, 3] b
def mixCol (c0 c1 c2 c3 : Byte) (b : List Byte) : List Byte :=
  match b with
  | [x, y, z, w] =>
    [gmul c0 x ^^^ gmul c1 y ^^^ gmul c2 z ^^^ gmul c3 w, gmul c3 x ^^^ gmul c0 y ^^^ gmul c1 z ^^^ gmul c2 w,
     gmul c2 x ^^^ gmul c3 y ^^^ gmul c0 z ^^^ gmul c1 w, gmul c1 x ^^^ gmul c2 y ^^^ gmul c3 z ^^^ gmul c0 w]
  | q => q
def mixCols (b : List Byte) : List Byte := (chunks4 4 b).flatMap (mixCol 2 3 1 1)
def mixColsInv (b : List Byte) : List Byte := (chunks4 4 b).flatMap (mixCol 14 11 13 9)

/-- AES-256 of one 16-byte block. -/
def aesEnc (key blk : List Byte) : List Byte :=
  let rk := roundKeys key
  let s := (rk.drop 1 |>.take 13).foldl (fun s k => xorB (mixCols (shiftRows (s.map sbox))) k) (xorB blk (rk.getD 0 []))
  xorB (shiftRows (s.map sbox)) (rk.getD 14 [])
def aesDec (key blk : List Byte) : List Byte :=
  let rk := roundKeys key
  let s := ((rk.drop 1).take 13).reverse.foldl
    (fun s k => mixColsInv (xorB ((shiftRowsInv s).map sboxInv) k)) (xorB blk (rk.getD 14 []))
  xorB ((shiftRowsInv s).map sboxInv) (rk.getD 0 [])

/-! ### XTS over a data unit of 64 bytes (R324) -/

/-- The tweak doubled in GF(2^128), little-endian. -/
def tweak2 (t : List Byte) : List Byte :=
  let n := leNat t
  leBytes 16 ((2 * n) % 2 ^ 128) |> fun d => if n ≥ 2 ^ 127 then xorB d (0x87 :: List.replicate 15 0) else d

def xtsBlocks (enc : Bool) (k1 : List Byte) : Nat → List Byte → List Byte → List Byte
  | 0, _, _ => []
  | n + 1, t, bs =>
    let x := xorB (bs.take 16) t
    xorB (if enc then aesEnc k1 x else aesDec k1 x) t ++ xtsBlocks enc k1 n (tweak2 t) (bs.drop 16)

/-- One 64-byte data unit under the pair (data key, tweak key), the tweak being PA[51:6] (R324). -/
def xtsUnit (enc : Bool) (keys : List Byte × List Byte) (unit : Nat) (bs : List Byte) : List Byte :=
  xtsBlocks enc keys.1 4 (aesEnc keys.2 (leBytes 16 unit)) bs

/-! ### AES Key Wrap: unwrapping (RFC 3394) -/

/-- One step of the inverse wrapping process, on the integrity word and the n 8-byte words. -/
def unwrapStep (kek : List Byte) (n : Nat) (st : List Byte × List (List Byte)) (t : Nat) : List Byte × List (List Byte) :=
  let i := (t - 1) % n
  let b := aesDec kek (xorB st.1 (beBytes 8 t) ++ st.2.getD i [])
  (b.take 8, st.2.set i (b.drop 8))

def words8 : Nat → List Byte → List (List Byte)
  | 0, _ => []
  | n + 1, bs => bs.take 8 :: words8 n (bs.drop 8)

/-- The key wrapped in `c`, when the integrity check holds. -/
def keyUnwrap (kek c : List Byte) : Option (List Byte) :=
  let n := c.length / 8 - 1
  let r := (List.range (6 * n)).reverse.foldl (fun st j => unwrapStep kek n st (j + 1)) (c.take 8, words8 n (c.drop 8))
  if r.1 = List.replicate 8 0xA6 then some r.2.flatten else none

end Machine
end Sys2Proof
end

