-- ==== Sys2Proof/Machine/Translate.lean ====
section
/-! DEFINITION. Translation: page tables, their caches, versioned regions, keys and targets (R16-R19, R317-R324), and the
accesses to HBM, wells through windows, host memory and peer packages that a translation leads to. -/

namespace Sys2Proof
namespace Machine

/-! ### Page tables (R317-R320) -/

abbrev Pte := BitVec 128

def Pte.valid (p : Pte) : Bool := p.getLsbD 0
def Pte.rd (p : Pte) : Bool := p.getLsbD 1
def Pte.wr (p : Pte) : Bool := p.getLsbD 2
def Pte.at_ (p : Pte) : Bool := p.getLsbD 3
def Pte.ord (p : Pte) : Nat := (p.extractLsb' 4 2).toNat
def Pte.scp (p : Pte) : Nat := (p.extractLsb' 6 3).toNat
def Pte.tgt (p : Pte) : Nat := (p.extractLsb' 9 2).toNat
def Pte.leaf (p : Pte) : Bool := p.getLsbD 11
def Pte.vrs (p : Pte) : Bool := p.getLsbD 12
def Pte.key (p : Pte) : Nat := (p.extractLsb' 16 10).toNat
def Pte.frame (p : Pte) : Nat := (p.extractLsb' 32 36).toNat
def Pte.pkg (p : Pte) : Nat := (p.extractLsb' 68 15).toNat
def Pte.vreg (p : Pte) : Nat := (p.extractLsb' 83 8).toNat

/-- Size of HBM in bytes (R17). -/
def hbmSize : Nat := 2 ^ 39
/-- Base and size of the well windows (R17). -/
def windowBase : Nat := 2 ^ 48
def windowSize : Nat := 2 ^ 30

/-- Page size of a leaf at a level (R318). -/
def pageSize (lvl : Nat) : Nat := if lvl = 0 then 2 ^ 16 else if lvl = 1 then 2 ^ 21 else 2 ^ 35

/-- Index into a table of a level, and the table's size in bytes (R318). -/
def tableIndex (lvl : Nat) (va : W) : Nat :=
  match lvl with
  | 3 => (va.extractLsb' 47 9).toNat
  | 2 => (va.extractLsb' 35 12).toNat
  | 1 => (va.extractLsb' 21 14).toNat
  | _ => (va.extractLsb' 16 5).toNat
def tableSize (lvl : Nat) : Nat :=
  match lvl with
  | 3 => 2 ^ 13 | 2 => 2 ^ 16 | 1 => 2 ^ 18 | _ => 512

/-- A PTE that is well formed at its level (R318, R320). -/
def pteOk (p : Pte) (lvl : Nat) : Bool :=
  p.extractLsb' 91 37 == 0 && p.extractLsb' 26 6 == 0 && p.extractLsb' 13 3 == 0
    && (if p.leaf then
          lvl != 3 && p.ord != 3 && decide (p.scp ≤ 4)
            && (lvl != 1 || p.frame % 32 == 0) && (lvl != 2 || p.frame % 2 ^ 19 == 0)
            && (p.tgt == 2 || p.pkg == 0) && (p.vrs || p.vreg == 0) && (p.tgt == 0 || p.key == 0)
        else
          lvl != 0 && (p &&& ~~~((BitVec.allOnes 36).setWidth 128 <<< 32) &&& ~~~1) == 0
            && (lvl != 2 || p.frame % 4 == 0)
            && decide (p.frame * 2 ^ 16 + tableSize (lvl - 1) ≤ hbmSize))

/-- Fault causes of a pump (R325). -/
def cNotValid : Nat := 1
def cPermission : Nat := 2
def cMalformedPte : Nat := 3
def cKey : Nat := 4
def cData : Nat := 5
def cEntry : Nat := 6

/-- A page walk (R319): the leaf with its level, or a cause with the level of the faulting PTE. A PTE is read as its latest write in
coherence order left it (log 8). -/
def walkFrom (s : State) (va : W) : Nat → Nat → Except (Nat × Nat) (Nat × Pte)
  | 0, _ => .error (cMalformedPte, 0)
  | n + 1, tbl =>
    let lvl := n
    let a := tbl + 16 * tableIndex lvl va
    let p : Pte := BitVec.ofNat 128 (leNat (s.hbm.latestBytes a 16))
    if s.poisoned .hbm a 16 then .error (cData, lvl)
    else if !p.valid then .error (cNotValid, lvl)
    else if !pteOk p lvl then .error (cMalformedPte, lvl)
    else if p.leaf then .ok (lvl, p)
    else walkFrom s va n (p.frame * 2 ^ 16)

def walk (s : State) (ctx : BitVec 12) (va : W) : Except (Nat × Nat) (Nat × Pte) :=
  let e := vget s.ctxTable ctx.toNat 0
  if va.extractLsb' 56 8 ≠ 0 then .error (cNotValid, 3)
  else if !e.getLsbD 36 then .error (cNotValid, 3)
  else
    let tbl := (e.extractLsb' 0 36).toNat * 2 ^ 16
    if tbl + tableSize 3 > hbmSize then .error (cMalformedPte, 3) else walkFrom s va 4 tbl

/-! ### Versioned regions (R323) -/

def Region.malformed (r : Region) : Bool :=
  r.vcnt == 1 || decide (r.vcnt.toNat > 8) || decide (r.mode.toNat > 1) || decide (r.cur.toNat ≥ r.vcnt.toNat)
    || r.ctx.extractLsb' 12 4 != 0 || r.zero5 != 0 || r.zero28.toList.any (· != 0)

/-- VersionOffset (R323): the byte offset of the current version, or of the micro-batch's. -/
def versionOffset (s : State) (reg : Nat) (ctx : BitVec 12) (tag size : Nat) : Except Nat Int :=
  let r := vget s.regions reg {}
  if r.vcnt = 0 ∨ r.ctx.extractLsb' 0 12 ≠ ctx then .error cPermission
  else if r.malformed then .error cMalformedPte
  else
    let v := if r.mode = 0 then r.cur.toNat else tag % r.vcnt.toNat
    let off : Int := signed 32 (vget r.voff v 0).toNat * 2 ^ 16
    if off % (size : Int) ≠ 0 then .error cMalformedPte else .ok off

/-! ### Targets -/

/-- Where a translated element lies (R17-R19). -/
inductive Target where
  | hbm (pa : Nat) (pte : Pte)
  | window (core : Fin 128) (off : Nat) (pte : Pte)
  | host (pa : Nat) (pte : Pte)
  | peer (pkg pa : Nat) (va : W) (pte : Pte)
  | well (off : Nat)
  | bank (b : Fin 64) (off : Nat)
  | unbound (cell : Nat) (h : Fin 64) (off : Nat)
  deriving DecidableEq, Repr, Inhabited

/-- A local physical address: HBM or a well window (R17). -/
def localTarget (pa : Nat) (pte : Pte) : Option Target :=
  if pa < hbmSize then some (.hbm pa pte)
  else if h : windowBase ≤ pa ∧ pa < windowBase + windowSize then
    some (.window ⟨(pa - windowBase) / 2 ^ 23, by obtain ⟨h1, h2⟩ := h; simp only [windowSize] at h2; omega⟩ ((pa - windowBase) % 2 ^ 23) pte)
  else none

/-- The target of a physical address under a leaf's TGT; none when the address lies outside it (R18, R19). -/
def targetOf (own pa : Nat) (va : W) (pte : Pte) : Option Target :=
  match pte.tgt with
  | 0 => if pa < hbmSize then some (.hbm pa pte) else none
  | 1 => match localTarget pa pte with
    | some (.window c o p) => some (.window c o p)
    | _ => none
  | 2 => if pte.pkg = own then localTarget pa pte
    else (localTarget pa pte).map (fun _ => .peer pte.pkg pa va pte)
  | _ => some (.host pa pte)

/-- Kinds of access (R319, R325): read, write, rmw, atom. -/
inductive Acc where
  | read | write | rmw | atom
  deriving DecidableEq, Repr, Inhabited

def Acc.code : Acc → Nat
  | .read => 0 | .write => 1 | .rmw => 2 | .atom => 3

/-- The rest of a translation once the leaf is known (R319): version, bounds, permission, key. -/
def finishTranslate (s : State) (ctx : BitVec 12) (tag : Nat) (va : W) (acc : Acc) (lvl : Nat) (pte : Pte) :
    Except (Nat × Nat) Target :=
  let size := pageSize lvl
  match (if pte.vrs then versionOffset s pte.vreg ctx tag size else .ok 0) with
  | .error c => .error (c, lvl)
  | .ok off =>
    let pa : Int := pte.frame * 2 ^ 16 + off + (va.toNat % size : Nat)
    if pa < 0 ∨ pa ≥ 2 ^ 52 then .error (cMalformedPte, lvl) else
    match targetOf s.mgmt.cfg.pkgNum pa.toNat va pte with
    | none => .error (cMalformedPte, lvl)
    | some t =>
      let needR := acc != .write
      let needW := acc != .read
      if (needR && !pte.rd) || (needW && !pte.wr) || (acc == .atom && !pte.at_) then .error (cPermission, lvl)
      else if pte.key ≠ 0 ∧ (vget s.mgmt.keys pte.key none).isNone then .error (cKey, lvl)
      else .ok t

/-- A full translation by walking, as the front end, the context-save engine and incoming peers make it (R333, R357, R370). None of
them has a micro-batch tag, and the model takes 0 (log 97). -/
def translate (s : State) (ctx : BitVec 12) (va : W) (acc : Acc) : Except (Nat × Nat) Target :=
  match walk s ctx va with
  | .error e => .error e
  | .ok (lvl, pte) => finishTranslate s ctx 0 va acc lvl pte

/-- The cached leaf of a page in the first-level cache of core `c`'s home pump (R321). -/
def tlbHit (s : State) (c : Fin 128) (ctx : BitVec 12) (va : W) : Option TlbEntry :=
  (s.tlb1.find? (fun e => e.1 == c && e.2.ctx == ctx && e.2.page == va.toNat / pageSize e.2.level)).map (·.2)

/-- The pump die whose slice of the second-level cache holds a page of a context (R321). -/
def tlbSlice (ctx : BitVec 12) (page : Nat) : Fin 4 :=
  ⟨(page % 4) ^^^ (ctx.toNat % 4), Nat.xor_lt_two_pow (n := 2) (Nat.mod_lt _ (by decide)) (Nat.mod_lt _ (by decide))⟩

/-- The cached leaf of a page in the slice of the second-level cache that holds it, which every pump reads (R321). -/
def tlb2Hit (s : State) (ctx : BitVec 12) (va : W) : Option TlbEntry :=
  (s.tlb2.find? (fun e => e.2.ctx == ctx && e.2.page == va.toNat / pageSize e.2.level && e.1 == tlbSlice ctx e.2.page)).map (·.2)

/-- The first `n` entries of a cache that belong to one owner stay; entries of others all stay (R321). -/
def trimTlb {α : Type} [DecidableEq α] (o : α) : Nat → List (α × TlbEntry) → List (α × TlbEntry)
  | _, [] => []
  | 0, x :: r => if x.1 = o then trimTlb o 0 r else x :: trimTlb o 0 r
  | n + 1, x :: r => if x.1 = o then x :: trimTlb o n r else x :: trimTlb o (n + 1) r

/-- A leaf enters both caches, of 64 entries per pump and 32,768 per slice, replacing what they hold for its page, or else the
oldest (R321). -/
def State.fillTlb (s : State) (c : Fin 128) (ctx : BitVec 12) (va : W) (lvl : Nat) (pte : Pte) : State :=
  let e : TlbEntry := { ctx := ctx, level := lvl, page := va.toNat / pageSize lvl, pte := pte }
  let same (x : TlbEntry) : Bool := x.ctx == ctx && x.page == va.toNat / pageSize x.level
  { s with
    tlb1 := trimTlb c 64 ((c, e) :: s.tlb1.filter (fun x => !(x.1 == c && same x.2))),
    tlb2 := trimTlb (tlbSlice ctx e.page) 32768 ((tlbSlice ctx e.page, e) :: s.tlb2.filter (fun x => !same x.2)) }

/-! ### Routes (R357) -/

/-- Whether a route is left when the links for which `up` fails are down, and whether it is an Ethernet route. -/
def routeLive (up : Nat → Bool) : Route → Option Bool
  | .none => .none
  | .links set alt => if up set then some false else routeLive up alt
  | .ether .. => some true

/-- The route to a package, none when no route is left (R357): whether it is an Ethernet route. -/
def routeTo (s : State) (pkg : Nat) : Option Bool :=
  let up (set : Nat) : Bool := (List.range 36).any (fun l => set.testBit l && !s.mgmt.linksDown.contains l)
  ((s.mgmt.cfg.routes.find? (fun r => r.1 == pkg)).map (fun r => r.2.1)).bind (routeLive up)

/-- Why an access that is sent to a peer package faults, if it does (R357): no route is left, the route does not carry it (`no`,
by Ethernet route), or the package reports a fault. -/
def peerError (s : State) (pkg : Nat) (va : W) (lvl : Nat) (no : Bool → Bool) : Option (Nat × Nat) :=
  match routeTo s pkg with
  | none => some (cData, 0xFF)
  | some eth => if no eth then some (cPermission, lvl) else (Config.peerFault s.tick s.free va).map (fun f => (f.1.toNat, f.2.toNat))

/-- The same for a target; none of this package's does. A read or a write is carried by every route. -/
def targetError (s : State) (va : W) : Target → Option (Nat × Nat)
  | .peer pkg _ _ _ => peerError s pkg va 0 (fun _ => false)
  | _ => none

/-! ### Encrypted data units (R324) -/

/-- Bytes of HBM as an observer reads them, decrypted under a key slot. -/
def hbmPlain (s : State) (key : Nat) (rd : Nat → Byte) (pa n : Nat) : List Byte :=
  match (if key = 0 then none else vget s.mgmt.keys key none) with
  | none => (List.range n).map (fun i => rd (pa + i))
  | some ks =>
    let u0 := pa / 64
    let units := (List.range ((pa + n + 63) / 64 - u0)).flatMap (fun j =>
      xtsUnit false ks (u0 + j) ((List.range 64).map (fun i => rd (64 * (u0 + j) + i))))
    slice units (pa % 64) n

/-- A write to HBM under a key: whole data units are encrypted again and stored for every observer (log 7). -/
def hbmCipherCells (s : State) (key pa : Nat) (bs : List Byte) : List (Nat × Byte) :=
  match vget s.mgmt.keys key none with
  | none => []
  | some ks =>
    let u0 := pa / 64
    let nu := (pa + bs.length + 63) / 64 - u0
    let old := hbmPlain s key s.hbm.latest (64 * u0) (64 * nu)
    let new := old.take (pa % 64) ++ bs ++ old.drop (pa % 64 + bs.length)
    (List.range nu).flatMap (fun j =>
      cellsAt (2 ^ 52) (64 * (u0 + j)) (xtsUnit true ks (u0 + j) (slice new (64 * j) 64)))

/-! ### Front-end, host and save-engine accesses: performed everywhere at once (log 8) -/

/-- Bytes at a target as the front end reads them. An access of host memory always completes without an error (log 80). -/
def readTarget (s : State) (obs : Nat) (t : Target) (n : Nat) : List Byte :=
  match t with
  | .hbm pa pte => hbmPlain s pte.key (s.hbm.get obs) pa n
  | .host pa _ => s.host.bytes obs pa n
  | .window c o _ => (s.coreAt c).well.bankBytes o n
  | .peer _ _ va _ => (Config.peerRead s.tick s.free va ++ List.replicate n 0).take n
  | _ => []

/-- Bytes written at a target and performed everywhere. -/
def State.writeTarget (s : State) (t : Target) (bs : List Byte) : State :=
  match t with
  | .hbm pa pte =>
    if pte.key = 0 then { s with hbm := s.hbm.store (cellsAt (2 ^ 52) pa bs) }
    else { s with hbm := s.hbm.store (hbmCipherCells s pte.key pa bs) }
  | .host pa _ => { s with host := s.host.store (cellsAt (2 ^ 52) pa bs) }
  | .window c o _ => s.setCoreAt c { s.coreAt c with well := (s.coreAt c).well.store (cellsAt wellSize o bs) }
  | .peer pkg _ va _ => { s with sent := s.sent ++ [(pkg, va, .write bs)] }
  | _ => s

/-- A virtual range cut at 64 KiB boundaries: start and length of each piece. -/
def pagePieces : Nat → Nat → Nat → List (Nat × Nat)
  | 0, _, _ => []
  | fuel + 1, a, n =>
    if n = 0 then [] else
    let k := min n (2 ^ 16 - a % 2 ^ 16)
    (a, k) :: pagePieces fuel (a + k) (n - k)

def pieces (a n : Nat) : List (Nat × Nat) := pagePieces (n / 2 ^ 16 + 2) a n

/-- The store and address of a target in this package. -/
def targetSpace : Target → Option (WSpace × Nat)
  | .hbm pa _ => some (.hbm, pa)
  | .host pa _ => some (.host, pa)
  | .window c o _ => some (.well c, o)
  | _ => none

/-- The bytes read at a target carry an uncorrectable error (R319, R366). -/
def targetEcc (s : State) (t : Target) (n : Nat) : Bool :=
  match targetSpace t with
  | some (.hbm, a) => s.poisoned .hbm a n
  | some (.well c, a) => s.poisoned (.well c) a n
  | _ => false

/-- Bytes of a virtual range in a context, as the front end (observer 128) reads them: a fault gives its cause, level and address. -/
def readVA (s : State) (ctx : BitVec 12) (va : W) (n : Nat) : Except (Nat × Nat × W) (List Byte) :=
  (pieces va.toNat n).foldl (fun acc p =>
    match acc with
    | .error e => .error e
    | .ok bs =>
      let a : W := BitVec.ofNat 64 p.1
      match translate s ctx a .read with
      | .error (c, l) => .error (c, l, a)
      | .ok t =>
        match targetError s a t, targetEcc s t p.2 with
        | some (c, l), _ => .error (c, l, a)
        | none, true => .error (cData, 0xFF, a)
        | none, false => .ok (bs ++ readTarget s 128 t p.2)) (.ok [])

/-- Bytes written to a virtual range in a context, performed everywhere. -/
def writeVA (s : State) (ctx : BitVec 12) (va : W) (bs : List Byte) : Except (Nat × Nat × W) State :=
  (pieces va.toNat bs.length).foldl (fun acc p =>
    match acc with
    | .error e => .error e
    | .ok s =>
      let a : W := BitVec.ofNat 64 p.1
      match translate s ctx a .write with
      | .error (c, l) => .error (c, l, a)
      | .ok t =>
        match targetError s a t with
        | some (c, l) => .error (c, l, a)
        | none => .ok (s.writeTarget t (slice bs (p.1 - va.toNat) p.2))) (.ok s)

end Machine
end Sys2Proof
end

