-- ==== Sys2Proof/Machine/Access.lean ====
section
/-! DEFINITION. The A engine's instructions (R158-R163), the streams' chains and control entries (R164-R179), and the
stream-control word (R327). -/

namespace Sys2Proof
namespace Machine

def Core.stream (k : Core) (n : Nat) : Stream := vget k.streams n {}
def Core.setStream (k : Core) (n : Nat) (t : Stream) : Core := { k with streams := vset k.streams n t }

/-! ### What a stream reads and writes (R300-R302) -/

/-- The stream of a core changed. -/
def State.modStream (s : State) (c : Fin 128) (n : Nat) (f : Stream → Stream) : State :=
  let k := s.coreAt c
  s.setCoreAt c (k.setStream n (f (k.stream n)))

/-- A store as a memory with its pending writes. -/
def State.vmem (s : State) : WSpace → VMem
  | .hbm => s.hbm
  | .host => s.host
  | .well x => (s.coreAt x).well
  | .urs x => (s.coreAt x).urs
  | .cist x => (s.coreAt x).cist.data

/-- The observer that core `c` is of a store: its own well it observes through path P, by a WELL operand (`own`) or through its window
alike, so that it reads every location in coherence order (log 75); another core's through a window (R300, R301). -/
def obsOf (c : Fin 128) (own : Bool) : WSpace → Nat
  | .well x => if own || x == c then pathP else 8 + c.val
  | _ => c.val

/-- The byte at `x` is one of the `n` bytes from `a` on; offsets of a well wrap (R170). -/
def inRange (sp : WSpace) (a n x : Nat) : Bool :=
  match sp with
  | .well _ => decide ((x + wellSize - a % wellSize) % wellSize < n)
  | _ => decide (a ≤ x) && decide (x < a + n)

/-- A write has a byte in a range of its store. -/
def PWrite.touches (x : PWrite) (sp : WSpace) (a n : Nat) : Bool := x.cells.any (fun c => inRange sp a n c.1)

/-- Identifiers of the pending writes of a stream to some bytes (R300). -/
def State.ownIds (s : State) (c : Fin 128) (n : Nat) (sp : WSpace) (a len : Nat) : List Nat :=
  (((s.vmem sp).pend).filter (fun x => x.core == c.val && x.stream == n && x.touches sp a len)).map (·.id)

/-- Before a core reads some bytes: its stream's own writes to them are performed with respect to the core (R300), and each
write whose value it then reads is performed with respect to all observers among whom it is multi-copy atomic (R310). -/
def State.beforeRead (s : State) (c : Fin 128) (n : Nat) (sp : WSpace) (own : Bool) (a len : Nat) : State :=
  let mine := s.ownIds c n sp a len
  let s1 := if mine.isEmpty then s else s.perform mine (2 ^ c.val)
  let read := ((s1.vmem sp).pend).filter (fun x =>
    x.seen.testBit (obsOf c own sp) && x.touches sp a len && atomicSet x c.val != 0)
  read.foldl (fun s x => s.perform [x.id] (atomicSet x c.val)) s1

/-- Identifiers of other cores' pending writes that a core reads at these addresses (R306). -/
def State.readIdsAt (s : State) (c : Fin 128) (sp : WSpace) (own : Bool) (a len : Nat) : List Nat :=
  (((s.vmem sp).pend).filter (fun x => x.core != c.val && x.seen.testBit (obsOf c own sp) && x.touches sp a len)).map (·.id)

/-- A stream reads bytes of its core's well through path P (R300, R306, R310). -/
def State.pathRead (s : State) (c : Fin 128) (n a len : Nat) : State :=
  let s1 := s.beforeRead c n (.well c) true a len
  let ids := s1.readIdsAt c (.well c) true a len
  if ids.isEmpty then s1 else s1.modStream c n (fun t => { t with readIds := (t.readIds ++ ids).dedup })

/-- A stream reads the count of a semaphore (R176). -/
def State.semRead (s : State) (c : Fin 128) (n : Nat) (off : Off) : State := s.pathRead c n (semAt off) 4

/-- STATE codes of the status word (R159). -/
def stateCode : SState → Nat
  | .idle => 0 | .active => 1 | .suspended => 2 | .aborting => 3

/-- The status word (R159). -/
def statusWord (t : Stream) : W :=
  BitVec.ofNat 64 (t.pos.toNat * 2 ^ 32 + t.entry.toNat * 2 ^ 8 + bnat t.flt * 2 ^ 7 + t.queued.length * 2 ^ 4
    + bnat t.waiting * 2 ^ 3 + stateCode t.state)

/-- The micro-batch tag of a cell (R323). -/
def Cell.tag (c : Cell) : Nat := if (c.kern.levels.getD 0 (0, 0)).1 = 1 then c.idx.getD 0 0 else 0

/-- A chain accepted at a well offset for the resident cell (R160). -/
def Core.acceptChain (k : Core) (n : Nat) (off : Off) : Core :=
  let t := k.stream n
  let c : Chain := {
    khead := off &&& ~~~63, cell := k.cellId, tag := (k.cell.map Cell.tag).getD 0,
    inherit_ := k.streams.toList.flatMap (·.posted) }
  k.setStream n { t with queued := t.queued ++ [c] }

/-- MVX (R158, R160): stalls while the stream holds four queued chains. -/
def execMvx (r : Reg) (n : BitVec 2) (s : State) : Host.Outcome State Fault Refusal :=
  onCore s (fun k =>
    if (k.stream n.toNat).queued.length ≥ 4 then k.stallOn s.eng (.streamFull n.toNat)
    else (k.acceptChain n.toNat ((k.getS s.eng r).setWidth 23)).finish s.eng s.issue)

/-- MVQ (R161). -/
def execMvq (r : Reg) (n : BitVec 2) (s : State) : Host.Outcome State Fault Refusal :=
  onCore s (fun k => k.put s.eng s.issue r (statusWord (k.stream n.toNat)))

/-- MVW (R161): waits until the stream is IDLE with nothing queued. -/
def execMvw (r : Reg) (n : BitVec 2) (s : State) : Host.Outcome State Fault Refusal :=
  onCore s (fun k =>
    let t := k.stream n.toNat
    if t.state = .idle ∧ t.queued.isEmpty then k.put s.eng s.issue r (statusWord t)
    else k.stallOn s.eng (.streamBusy n.toNat))

/-- Tiles that a stream's commands hold take their abort transitions (R62). -/
def Tile.abort (n : Nat) (x : Tile) : Tile :=
  if x.held.map (·.val) = some n then
    { x with held := none, state := match x.state with | .filling => .empty | .draining => .ready | st => st }
  else x

/-- A stream's command is stopped at P and its chains dropped: tiles and bands are released, no post is made (R161,
R200). Earlier commands that have not completed are dropped with it, without their posts (log 68). -/
def Core.abortStream (k : Core) (n : Nat) : Core :=
  let t := k.stream n
  let k1 := { k with
    tiles := k.tiles.map (Tile.abort n),
    cist := { k.cist with own := k.cist.own.filter (fun o => o.stream.val != n) } }
  (k1.setStream n { t with
    state := .idle, flt := false, waiting := false, chain := none, queued := [], loops := [], cmd := none, completing := [],
    waits := none, walk := none, fence := none, early := [] }).dropSets

/-- The status word an abort returns: the state before it, and the chains discarded (R161). -/
def abortWord (t : Stream) : W := statusWord { t with state := if t.state = .aborting then .active else t.state }

/-- MVA (R161, R200). On an IDLE stream with chains queued it discards them (log 68). An element at its atomic engine is committed first (R195); until then the stream is ABORTING. -/
def execMva (r : Reg) (n : BitVec 2) (s : State) : Host.Outcome State Fault Refusal :=
  onCore s (fun k =>
    let t := k.stream n.toNat
    if t.inAtomic then (k.setStream n.toNat { t with state := .aborting }).stallOn s.eng (.streamAbort n.toNat)
    else if t.state = .idle ∧ t.queued.isEmpty then k.put s.eng s.issue r (statusWord t)
    else (k.abortStream n.toNat).put s.eng s.issue r (abortWord t))

/-! ### The tile table (R62, R162, R163) -/

def tileIndex (base : W) (i : BitVec 8) : Nat := (base.toNat + i.toNat) % 256
def Core.tile (k : Core) (e : Nat) : Tile := vget k.tiles e {}
def Core.setTile (k : Core) (e : Nat) (x : Tile) : Core := { k with tiles := vset k.tiles e x }

def tileOf (c : BitVec 2) : TileState := if c = 0 then .empty else if c = 1 then .filling else if c = 2 then .ready else .draining
def tileCode : TileState → Nat
  | .empty => 0 | .filling => 1 | .ready => 2 | .draining => 3

/-- TDEF (R162). -/
def execTdef (b e : Reg) (i : BitVec 8) (l : Reg) (s : State) : Host.Outcome State Fault Refusal :=
  onCore s (fun k =>
    let n := tileIndex (k.getS s.eng e) i
    let x := k.tile n
    if x.held.isSome then k.stallOn s.eng (.tileHeld n)
    else
      let len := (k.getS s.eng l).toNat
      (k.setTile n { x with base := (k.getS s.eng b).setWidth 23, len := if len < 2 ^ 23 then len else 2 ^ 23 }).finish s.eng s.issue)

/-- TSET (R62, R162). -/
def execTset (e : Reg) (i : BitVec 8) (c : BitVec 2) (s : State) : Host.Outcome State Fault Refusal :=
  onCore s (fun k =>
    let n := tileIndex (k.getS s.eng e) i
    let x := k.tile n
    if x.held.isSome then k.stallOn s.eng (.tileHeld n)
    else (k.setTile n { x with state := tileOf c }).finish s.eng s.issue)

/-- The entry word of TGET (R163). -/
def tileWord (x : Tile) : W :=
  BitVec.ofNat 64 (bnat x.held.isSome * 2 ^ 58 + tileCode x.state * 2 ^ 56 + x.len * 2 ^ 32 + x.base.toNat)

/-- TGET (R162). -/
def execTget (d e : Reg) (i : BitVec 8) (s : State) : Host.Outcome State Fault Refusal :=
  onCore s (fun k => k.put s.eng s.issue d (tileWord (k.tile (tileIndex (k.getS s.eng e) i))))

/-! ### Chains -/

/-- A change of the stream of the turn. -/
def State.str (s : State) : Stream := s.core.stream s.turn.stream.val
def onStream (s : State) (f : Stream → Stream) : Host.Outcome State Fault Refusal :=
  onCore s (fun k => k.setStream s.turn.stream.val (f (k.stream s.turn.stream.val)))

/-- CHAIN_START (R160, R164, R179): a queued chain starts once the previous one has reached its END; P stays that of the last
data command (R159). -/
def execChainStart (s : State) : Host.Outcome State Fault Refusal :=
  onStream s (fun t =>
    match t.state, t.queued with
    | .idle, c :: rest =>
      { t with
        state := .active, chain := some c, queued := rest, cur := c.khead, entry := 0, loops := [], early := [],
        readIds := (t.readIds ++ c.inherit_).dedup }
    | _, _ => t)

/-- ENTRY: the entry's index within its chain (R159). -/
def entryIndex (t : Stream) : BitVec 17 :=
  match t.chain with
  | some c => BitVec.ofNat 17 (((t.cur - c.khead).toNat) / 64)
  | none => t.entry

/-- The next entry, or another, becomes current (R165). -/
def Stream.goto (t : Stream) (off : Off) : Stream := { t with cur := off }
def Stream.step (t : Stream) : Stream := t.goto (t.cur + 64)

/-- A stream that is running a chain with no data command in progress executes a control entry. -/
def Stream.ctl (t : Stream) (f : Stream → Stream) : Stream :=
  if t.state = .active ∧ t.cmd.isNone then f { t with entry := entryIndex t } else t

/-- The 64 bytes of an entry, read as one access of path P (R165). -/
def Core.entryAt (k : Core) (off : Off) : List Byte := k.wellBytes pathP off.toNat 64

/-- The stream of the turn reads an entry (R165). -/
def State.readEntry (s : State) (off : Off) : State := s.pathRead s.turn.core s.turn.stream.val off.toNat 64

/-- An entry read of the stream meets an uncorrectable error (R165). -/
def State.entryBad (s : State) (off : Off) : Bool := s.poisoned (.well s.turn.core) off.toNat 64

/-- What the search for the end of a skipped loop comes to. -/
inductive Skip where
  | found (next : Off)
  | malformed
  | bad (at_ : Off)
  deriving DecidableEq, Repr, Inhabited

/-- Entries passed while skipping a LOOP with N = 0: the offset after the matching ENDL; malformed when END comes first; or
an entry that cannot be read (R165, R175; log 74). A search that has passed every entry of the well and found neither makes the LOOP
malformed too, by the model's choice (log 74). The state is the one after its reads. -/
def skipLoop : Nat → State → Off → Nat → State × Skip
  | 0, s, _, _ => (s, .malformed)
  | fuel + 1, s, off, depth =>
    if s.entryBad off then (s, .bad off) else
    let s1 := s.readEntry off
    match (entByte (s1.core.entryAt off) 0).toNat with
    | 0x26 => (s1, .malformed)
    | 0x20 => skipLoop fuel s1 (off + 64) (depth + 1)
    | 0x21 => if depth = 0 then (s1, .found (off + 64)) else skipLoop fuel s1 (off + 64) (depth - 1)
    | _ => skipLoop fuel s1 (off + 64) depth

/-- Entries a well can hold: no forward search is longer. -/
def maxEntries : Nat := 2 ^ 17

/-- The KIND byte that the entry at an offset shows (R168). -/
def Core.kindAt (k : Core) (off : Off) : Nat := (entByte (k.entryAt off) 0).toNat

/-- A pump fault (R197, R325, R326, R372): the stream suspends, counts its fault, and posts one record, with the entry that
`off` and `kind` name. -/
def State.suspendAt (s : State) (c : Fin 128) (n : Nat) (off : Off) (kind cause level acc : Nat) (va : W) : State :=
  let k := s.coreAt c
  let t := k.stream n
  let f := t.faults + 1
  let ctx := k.lastCtx.getD 0
  let kh := (t.chain.map (fun x => x.khead.toNat)).getD 0
  let ent := entryIndex { t with cur := off }
  let s1 := s.setCoreAt c (k.setStream n { t with
    state := .suspended, flt := true, faults := f, entry := ent, walk := none, waiting := false, early := [] })
  s1.postRecord (recordBytes 1 cause ctx c.val n level acc va t.pos.toNat ent.toNat kh kind f 0 0)

/-- A fault of the data command in progress, whose entry has been read. -/
def State.streamFault (s : State) (c : Fin 128) (n : Nat) (cause level acc : Nat) (va : W) : State :=
  let t := (s.coreAt c).stream n
  let kind := match t.cmd with
    | some cmd => ((encodeEntry cmd.entry).headD 0).toNat
    | none => (s.coreAt c).kindAt t.cur
  s.suspendAt c n t.cur kind cause level acc va

/-- A fault in reading or decoding an entry: the stream of the turn suspends at position 0 of that entry (R165, R174, R372). -/
def State.entryFault (s : State) (off : Off) (cause : Nat) : State :=
  let k := s.core
  let n := s.turn.stream.val
  (s.setCoreAt s.turn.core (k.setStream n { k.stream n with pos := 0 })).suspendAt s.turn.core n off (k.kindAt off) cause 0xFF 4 0

/-- A malformed entry suspends the stream at position 0 of the entry (R174, R372). -/
def State.malformedEntry (s : State) : State := s.entryFault s.str.cur cEntry

/-- LOOP (R175). -/
def execLoop (n : W32) (ds dd dx : W) (s : State) : Host.Outcome State Fault Refusal :=
  let t := s.str
  if t.state ≠ .active ∨ t.cmd.isSome then onStream s id
  else if t.loops.length ≥ 4 then .next s.malformedEntry
  else if n = 0 then
    match skipLoop maxEntries s (t.cur + 64) 0 with
    | (s1, .malformed) => .next s1.malformedEntry
    | (s1, .bad off) => .next (s1.entryFault off cData)
    | (s1, .found off) => onStream s1 (fun t => t.ctl (fun t => t.goto off))
  else onStream s (fun t => t.ctl (fun t =>
    { t.step with loops := { start := t.cur + 64, n := n, i := 0, ds := ds, dd := dd, dx := dx } :: t.loops }))

/-- ENDL (R175). -/
def execEndl (s : State) : Host.Outcome State Fault Refusal :=
  if s.str.state = .active ∧ s.str.cmd.isNone ∧ s.str.loops.isEmpty then .next s.malformedEntry
  else onStream s (fun t => t.ctl (fun t =>
    match t.loops with
    | [] => t
    | l :: r => if l.i + 1 < l.n then { t.goto l.start with loops := { l with i := l.i + 1 } :: r } else { t.step with loops := r }))

/-- A control entry of the stream of the turn reads a count, when it is one that executes. -/
def State.readCount (s : State) (a : Off) : State :=
  if s.str.state = .active ∧ s.str.cmd.isNone then s.semRead s.turn.core s.turn.stream.val a else s

/-- IFSEM (R176): one read of the count; never waits, never subtracts. -/
def execIfsem (a : Off) (n skip : W32) (s : State) : Host.Outcome State Fault Refusal :=
  let s1 := s.readCount a
  onStream s1 (fun t => t.ctl (fun t =>
    let t := { t with early := [] }
    if n.toNat ≤ s1.core.semSeen a then t.step else t.goto (t.cur + BitVec.ofNat 23 (64 * (skip.toNat + 1)))))

/-- WAITS (R176): waits, with WAIT = 1, until the count is at least n; subtracts nothing. -/
def execWaits (a : Off) (n : W32) (s : State) : Host.Outcome State Fault Refusal :=
  let s1 := s.readCount a
  onStream s1 (fun t => t.ctl (fun t =>
    if n.toNat ≤ s1.core.semSeen a then { t.step with waits := none, waiting := false, early := [] }
    else { t with waits := some (a, n), waiting := true }))

/-- JMP (R177). -/
def execJmp (off : W32) (s : State) : Host.Outcome State Fault Refusal :=
  onStream s (fun t => t.ctl (fun t => t.goto (t.cur + (off.setWidth 23 <<< 6))))

/-- Chain FENCE (R178, R310-R312): the writes it covers become performed at its scope, and it completes. Each earlier read of
the stream has been performed at its own step. SC covers all four streams: it waits until no read-modify-write that one of them has
issued is at its atomic engine and none gathers a chunk of a well (log 21), and takes its place in the order of steps. -/
def execChainFence (kind scope : Byte) (s : State) : Host.Outcome State Fault Refusal :=
  if s.str.state ≠ .active ∨ s.str.cmd.isSome then onStream s id
  else if kind = 2 ∧ (s.core.streams.toList.any (·.inAtomic) ∨ s.gathering s.turn.core s.turn.stream.val) then
    onStream s (fun t => { t with fence := some scope, entry := entryIndex t })
  else
  let c := s.turn.core
  let n := s.turn.stream.val
  let ids := if kind = 2 then (List.range 4).flatMap (fun j => s.idsOf c.val j) else s.idsOf c.val n
  let others := if kind = 2 then (List.range 4).flatMap (fun j => (s.core.stream j).readIds) else []
  let s1 := s.perform ids (scopeMask scope.toNat c.val)
  onStream s1 (fun t => t.ctl (fun t =>
    { t.step with fence := none, early := [], wrote := if kind = 2 then (t.wrote ++ ids).dedup else t.wrote, readIds := (t.readIds ++ others).dedup }))

/-- END (R179): waits until every command of the chain has completed; then the stream is IDLE, free to start its next. -/
def execChainEnd (s : State) : Host.Outcome State Fault Refusal :=
  onCore s (fun k =>
    let t := k.stream s.turn.stream.val
    if t.state = .active ∧ t.cmd.isNone ∧ t.completing.isEmpty then
      (k.setStream s.turn.stream.val { t with entry := entryIndex t, state := .idle, chain := none, loops := [] }).dropSets
    else k)

/-! ### Stream control (R327) -/

/-- The stream a control word names, when its CTX, state and SEQ match and its zero fields are zero. -/
def streamControl (s : State) (w : W) (op : Nat) : Option (Fin 128 × Nat) :=
  let c : Fin 128 := ⟨(w.extractLsb' 33 7).toNat, (w.extractLsb' 33 7).isLt⟩
  let n := (w.extractLsb' 0 2).toNat
  let t := (s.coreAt c).stream n
  if (w.extractLsb' 62 2).toNat = op ∧ w.extractLsb' 52 10 = 0 ∧ !w.getLsbD 32 ∧ t.state = .suspended ∧ t.flt
      ∧ (s.coreAt c).lastCtx = some (w.extractLsb' 40 12) ∧ t.faults % 2 ^ 30 = (w.extractLsb' 2 30).toNat then some (c, n)
  else none

/-- RESUME (R198, R327): the same command continues at P; a malformed entry is read again. -/
def execResume (w : W) (s : State) : Host.Outcome State Fault Refusal :=
  match streamControl s w 1 with
  | none => .next s
  | some (c, n) =>
    let k := s.coreAt c
    .next (s.putCore c (k.setStream n { k.stream n with state := .active, flt := false }))

/-- ABORT (R200, R327): as MVA, the status word discarded. -/
def execAbort (w : W) (s : State) : Host.Outcome State Fault Refusal :=
  match streamControl s w 2 with
  | none => .next s
  | some (c, n) => .next (s.putCore c ((s.coreAt c).abortStream n))

end Machine
end Sys2Proof
end

