-- ==== Sys2Proof/Machine/Pump.lean ====
section
/-! DEFINITION. How a stream reaches its operands: placing an element in a space, reading and writing it under its page's
rules, starting a command, and the releases, posts and faults of a command (R60-R62, R165-R173, R193-R199, R304-R309, R357). -/

namespace Sys2Proof
namespace Machine

/-- Header of a data entry. -/
def entHdr : Instr → EntHdr
  | .copy h .. | .gath h .. | .scat h .. | .xpose h .. | .conv h .. | .decomp h .. | .cmprs h .. | .mcast h .. | .red h ..
  | .fill h .. | .atom h .. | .sempr h .. | .flipv h .. | .pref h .. => h
  | _ => {}

/-- Why an element does not commit now (R195, R197). -/
inductive PErr where
  | fault (cause level acc : Nat) (va : W)
  | walk (va : W) (acc : Nat)
  | wait
  deriving DecidableEq, Repr, Inhabited

/-- A computation over the state that may find a fault, in which case nothing of the element has happened (R194). -/
abbrev PM := StateT State (Except PErr)

/-- The stream and command at work. -/
structure Who where
  core : Fin 128
  n : Nat
  cmd : Cmd

/-! ### Operand addresses (R170, R175) -/

def cistHandle (x : W) : Fin 64 := ⟨(x.extractLsb' 0 6).toNat, (x.extractLsb' 0 6).isLt⟩
def cistLo (x : W) : Nat := (x.extractLsb' 8 2).toNat
def cistHi (x : W) : Nat := (x.extractLsb' 10 2).toNat
/-- Start and length of a CIST operand's band range, in bytes of the bank. -/
def cistStart (x : W) : Nat := 4096 * cistLo x
def cistLen (x : W) : Nat := 4096 * (cistHi x + 1 - cistLo x)

/-- The byte address of an operand's element in its space. -/
def opndAddr (sp : BitVec 2) (x : W) (o : Int) : Nat :=
  match sp.toNat with
  | 0 => (x + BitVec.ofInt 64 o).toNat
  | 1 => (((x.toNat : Int) + o) % (2 ^ 23 : Int)).toNat
  | _ => cistStart x + ((((x.extractLsb' 16 14).toNat : Int) + o) % (cistLen x : Int)).toNat

/-- The pieces of an element that is not naturally aligned: cut at a page of 64 KiB, or at the end of the band range. -/
def opndSpans (sp : BitVec 2) (x : W) (a n : Nat) : List (Nat × Nat) :=
  match sp.toNat with
  | 0 => let k := 2 ^ 16 - a % 2 ^ 16
         if n ≤ k then [(a, n)] else [(a, k), ((a + k) % 2 ^ 64, n - k)]
  | 1 => [(a, n)]
  | _ => let k := cistStart x + cistLen x - a
         if n ≤ k then [(a, n)] else [(a, k), (cistStart x, n - k)]

/-- The context of a core's streams: that of the kernel whose state the core holds (R30, R164). -/
def Core.ctxOf (k : Core) : BitVec 12 := k.lastCtx.getD 0

/-- Where a translated element of the stream lies, or why it faults (R319, R357). `no` names the peer targets that the operation
cannot be sent to: by Ethernet route and address. A peer's own fault is reported as its cause. -/
def placeVA (w : Who) (va : W) (acc : Acc) (no : Bool → Nat → Bool := fun _ _ => false) : PM Target := fun s =>
  let ctx := (s.coreAt w.core).ctxOf
  if va.extractLsb' 56 8 ≠ 0 then .error (.fault cNotValid 3 acc.code va) else
  match tlbHit s w.core ctx va with
  | none => .error (.walk va acc.code)
  | some e =>
    match finishTranslate s ctx w.cmd.tag va acc e.level e.pte with
    | .error (c, l) => .error (.fault c l acc.code va)
    | .ok (.peer pkg pa v pte) =>
      (match peerError s pkg va e.level (fun eth => no eth pa) with
       | some (c, l) => .error (.fault c l acc.code va)
       | none => .ok (.peer pkg pa v pte, { s with free := s.free + 1 }))
    | .ok t => .ok (t, s)

/-- The bands a command took for one of its CIST operands. -/
def bandOf (k : Core) (w : Who) (opnd : Nat) : Option BandOf :=
  (k.cist.own.find? (fun o => o.cmd == w.cmd.uid && o.opnd == opnd)).map (·.of)

/-- The target of one piece of an operand. -/
def place (w : Who) (sp : BitVec 2) (opnd a : Nat) (acc : Acc) (no : Bool → Nat → Bool := fun _ _ => false) :
    PM (W × Target) := fun s =>
  match sp.toNat with
  | 0 => (placeVA w (BitVec.ofNat 64 a) acc no s).map (fun r => ((BitVec.ofNat 64 a, r.1), r.2))
  | 1 => .ok ((0, .well a), s)
  | _ => match bandOf (s.coreAt w.core) w opnd with
    | some (.bank b) => .ok ((0, .bank b a), s)
    | some (.handle cell h) => .ok ((0, .unbound cell h a), s)
    | none => .ok ((0, .unbound w.cmd.cell 0 a), s)

/-! ### Reading -/

/-- A leaf's kind is SO (R304). -/
def Pte.isSO (p : Pte) : Bool := p.ord == 0

/-- Earlier SO writes of the stream are performed at their pages' scopes before its next SO access, and no read has been
performed ahead of it (R304). -/
def soFlush (w : Who) (pte : Pte) : PM Unit := fun s =>
  if pte.isSO then
    .ok ((), ((s.soIds w.core.val w.n).foldl (fun s x => s.perform [x.id] x.scope) s).modStream w.core w.n
      (fun t => { t with early := [] }))
  else .ok ((), s)

/-- Writes of other observers whose values are read, which a later release of the stream may carry (R306). -/
def noteIds (w : Who) (ids : List Nat) : PM Unit := fun s =>
  .ok ((), if ids.isEmpty then s else s.modStream w.core w.n (fun t => { t with readIds := (t.readIds ++ ids).dedup }))

/-- An uncorrectable error in the bytes read (R319, R328). -/
def poisonCheck (st : Store) (a n : Nat) (acc : Acc) (va : W) : PM Unit := fun s =>
  if s.poisoned st a n then .error (.fault cData 0xFF acc.code va) else .ok ((), s)

/-- Reads performed ahead of an access to some bytes by the same stream are not used after it (R300). -/
def Stream.dropEarly (t : Stream) (sp : WSpace) (a n : Nat) : Stream :=
  if t.early.isEmpty then t
  else { t with early := t.early.filter (fun e => !(e.sp == sp && (List.range 8).any (fun i => inRange sp a n (e.addr + i)))) }

/-- The read performed ahead that holds some bytes. -/
def Stream.earlyAt (t : Stream) (sp : WSpace) (own : Bool) (a n : Nat) : Option EarlyRead :=
  t.early.find? (fun e => e.sp == sp && e.own == own && decide (e.addr ≤ a) && decide (a + n ≤ e.addr + 8))

/-- At the acquire of a command, the read of its first element, what the stream has read ahead is dropped; a UN page makes no
acquire (R305, R308). -/
def acquire (w : Who) (un : Bool) : PM Unit := fun s =>
  .ok ((), if (entHdr w.cmd.entry).acq && w.cmd.pos == 0 && !un then
      s.modStream w.core w.n (fun t => { t with early := [] }) else s)

/-- Bytes of a store read by the stream, or those it has read ahead (R298-R304). -/
def memRead (w : Who) (sp : WSpace) (own : Bool) (a n : Nat) (ahead : Bool) (rd : State → List Byte) : PM (List Byte) := do
  let s ← get
  let t := (s.coreAt w.core).stream w.n
  set (s.modStream w.core w.n (fun t => t.dropEarly sp a n))
  match (if ahead then t.earlyAt sp own a n else none) with
  | some e =>
    noteIds w e.ids
    pure (slice e.bytes (a - e.addr) n)
  | none =>
    modify (fun s => s.beforeRead w.core w.n sp own a n)
    let s1 ← get
    noteIds w (s1.readIdsAt w.core sp own a n)
    pure (rd s1)

/-- What a peer package answers to a read: free bytes (R357, log 57). -/
def peerGet (va : W) (n : Nat) : PM (List Byte) := fun s =>
  .ok ((Config.peerRead s.tick s.free va ++ List.replicate n 0).take n, { s with free := s.free + 1 })

/-- Bytes read at a target by the stream (R12, R59, R165, R298-R304). -/
def readPiece (w : Who) (va : W) (t : Target) (n : Nat) (acc : Acc) : PM (List Byte) := do
  match t with
  | .hbm pa pte =>
    poisonCheck .hbm pa n acc va
    soFlush w pte
    acquire w (pte.ord == 2)
    memRead w .hbm false pa n (acc == .read && pte.key == 0 && !pte.isSO)
      (fun s => hbmPlain s pte.key (s.hbm.get w.core.val) pa n)
  | .window x off pte =>
    poisonCheck (.well x) off n acc va
    soFlush w pte
    acquire w (pte.ord == 2)
    memRead w (.well x) false off n (acc == .read && !pte.isSO) (fun s => (s.coreAt x).wellBytes (obsOf w.core false (.well x)) off n)
  | .host pa pte =>
    soFlush w pte
    acquire w (pte.ord == 2)
    memRead w .host false pa n (acc == .read && !pte.isSO) (fun s => s.host.bytes w.core.val pa n)
  | .peer _ _ va pte =>
    soFlush w pte
    acquire w (pte.ord == 2)
    peerGet va n
  | .well off =>
    poisonCheck (.well w.core) off n acc va
    acquire w false
    memRead w (.well w.core) true off n (acc == .read) (fun s => (s.coreAt w.core).wellBytes pathP off n)
  | .bank b off =>
    poisonCheck (.cist w.core) (bankSize * b.val + off) n acc va
    acquire w false
    let s ← get
    pure ((s.coreAt w.core).cist.data.bytes pathP (bankSize * b.val + off) n)
  | .unbound _ _ _ =>
    modify (fun s => s.setCoreAt w.core (s.coreAt w.core).setUnb)
    pure (List.replicate n 0)

/-- Pieces read one after another. -/
def readPieces (w : Who) (sp : BitVec 2) (opnd : Nat) (acc : Acc) : List (Nat × Nat) → PM (List Byte)
  | [] => pure []
  | p :: r => do
    let vt ← place w sp opnd p.1 acc
    let bs ← readPiece w vt.1 vt.2 p.2 acc
    let rest ← readPieces w sp opnd acc r
    pure (bs ++ rest)

/-- An element of `n` bytes at offset `o` of an operand. -/
def readEl (w : Who) (sp : BitVec 2) (x : W) (o : Int) (opnd n : Nat) : PM (List Byte) :=
  readPieces w sp opnd .read (opndSpans sp x (opndAddr sp x o) n)

/-! ### Writing -/

/-- A number for the next write. -/
def freshId : PM Nat := fun s => .ok (s.nextId, { s with nextId := s.nextId + 1 })

/-- The current command of a stream changed. -/
def State.modCmd (s : State) (c : Fin 128) (n : Nat) (f : Cmd → Cmd) : State :=
  s.modStream c n (fun t => { t with cmd := t.cmd.map f })

/-- A write of the command is recorded (R166). -/
def noteWrite (w : Who) (id : Nat) : PM Unit :=
  modify (fun s => s.modCmd w.core w.n (fun c => { c with writes := c.writes ++ [id] }))

/-- The carried set of a release to a page (R305, R306); none on a UN page or without REL. -/
def relDeps (s : State) (w : Who) (rel : Bool) (pte : Pte) : List Nat :=
  if rel && pte.ord != 2 then s.carried w.core w.n pte.scp else []

/-- A pending write of the stream to global memory under its page's kind and scope (R304-R306, R310). -/
def pageWrite (s : State) (w : Who) (id : Nat) (cells : List (Nat × Byte)) (pte : Pte) (rel : Bool) (deps : List Nat) : PWrite :=
  { id := id, cells := cells, seen := 0, core := w.core.val, stream := w.n, cmd := w.cmd.uid, scope := scopeMask pte.scp w.core.val,
    mca := decide (3 ≤ pte.scp) && (pte.isSO || (rel && pte.ord != 2)), rc := pte.ord == 1, so := pte.isSO,
    deps := deps.filter (fun d => (s.pending [d]).any (fun _ => true)) }

/-- An access sent to a peer package, a release after what it carries (R306, R357). -/
def peerSend (w : Who) (pkg : Nat) (va : W) (pte : Pte) (rel : Bool) (op : PeerOp) : PM Unit :=
  modify (fun s =>
    let d := relDeps s w rel pte
    let s1 := if d.isEmpty then s else s.perform d (scopeMask pte.scp w.core.val)
    { s1 with sent := s1.sent ++ [(pkg, va, op)] })

/-- Bytes that a stream writes to its own well, one pending write for each aligned 64-byte chunk (R12), by its NORM tap or not. What
belongs to a read-modify-write is in the well at once (`now`); other bytes are gathered until they arrive (log 21). -/
def ownWellWrite (w : Who) (tap now : Bool) : List (List (Nat × Byte)) → PM Unit
  | [] => pure ()
  | cs :: r => do
    let id ← freshId
    modify (fun s =>
      let k := s.coreAt w.core
      s.setCoreAt w.core { k with well := k.well.push wellAll {
        id := id, cells := cs, seen := if now then 2 ^ pathP else 0, core := w.core.val, stream := w.n, cmd := w.cmd.uid, scope := 2 ^ w.core.val, tap := tap } })
    noteWrite w id
    ownWellWrite w tap now r

/-- A write pushed at a target, in one part (R299-R306), `now` that of a read-modify-write of the core's own well. A release to the well
or the cistern has CORE scope (R305). -/
def writePart (w : Who) (t : Target) (bs : List Byte) (rel : Bool) (now : Bool := false) : PM Unit := do
  let s ← get
  let id ← freshId
  match t with
  | .hbm pa pte =>
    modify (fun s => s.modStream w.core w.n (fun t => t.dropEarly .hbm pa bs.length))
    if pte.key = 0 then
      let d := relDeps s w rel pte
      modify (fun s => { s with hbm := s.hbm.push globalAll (pageWrite s w id (cellsAt (2 ^ 52) pa bs) pte rel d) })
      noteWrite w id
    else
      let d := relDeps s w rel pte
      modify (fun s =>
        let s1 := if d.isEmpty then s else s.perform d (scopeMask pte.scp w.core.val)
        { s1 with hbm := s1.hbm.store (hbmCipherCells s1 pte.key pa bs) })
  | .window x off pte =>
    let d := relDeps s w rel pte
    modify (fun s => s.modStream w.core w.n (fun t => t.dropEarly (.well x) off bs.length))
    modify (fun s => s.setCoreAt x { s.coreAt x with
      well := (s.coreAt x).well.push wellAll (pageWrite s w id (cellsAt wellSize off bs) pte rel d) })
    noteWrite w id
  | .host pa pte =>
    let d := relDeps s w rel pte
    modify (fun s => s.modStream w.core w.n (fun t => t.dropEarly .host pa bs.length))
    modify (fun s => { s with host := s.host.push globalAll (pageWrite s w id (cellsAt (2 ^ 52) pa bs) pte rel d) })
    noteWrite w id
  | .peer pkg _ va pte => peerSend w pkg va pte rel (.write bs)
  | .well off =>
    modify (fun s => s.modStream w.core w.n (fun t => t.dropEarly (.well w.core) off bs.length))
    modify (fun s => if rel then s.perform (s.carried w.core w.n 0) (2 ^ w.core.val) else s)
    ownWellWrite w false now (chunksOf (cellsAt wellSize off bs))
  | .bank b off =>
    modify (fun s =>
      let s1 := if rel then s.perform (s.carried w.core w.n 0) (2 ^ w.core.val) else s
      s1.setCoreAt w.core ((s1.coreAt w.core).bankWrite pathP id b off bs))
    noteWrite w id
  | .unbound _ _ _ => pure ()

/-- A first write through an unbound handle binds it; with no free bank the stream waits, keeping what it holds (R60, R170). -/
def bindFor (w : Who) (t : Target) : PM Target := fun s =>
  match t with
  | .unbound cell h off =>
    match (s.coreAt w.core).bankOf cell h with
    | some b => .ok (.bank b off, s)
    | none =>
      match (s.coreAt w.core).bind s.tick cell h with
      | none => .error .wait
      | some (k, b) => .ok (.bank b off, s.setCoreAt w.core k)
  | t => .ok (t, s)

/-- The pieces of an element to be written: a naturally aligned one whole, any other byte by byte (R170, R298). -/
def writeSpans (sp : BitVec 2) (x : W) (a n : Nat) : List (Nat × Nat) :=
  if a % n = 0 then [(a, n)]
  else (opndSpans sp x a n).flatMap (fun p => (List.range p.2).map (fun i => (p.1 + i, 1)))

/-- Pieces placed, and then written; a fault on any piece comes before any write (R195). -/
def placeAll (w : Who) (sp : BitVec 2) (opnd : Nat) (acc : Acc) : List (Nat × Nat) → PM (List (Target × Nat))
  | [] => pure []
  | p :: r => do
    let vt ← place w sp opnd p.1 acc
    let t ← bindFor w vt.2
    let rest ← placeAll w sp opnd acc r
    pure ((t, p.2) :: rest)

def writeAll (w : Who) (rel : Bool) : List (Target × Nat) → List Byte → PM Unit
  | [], _ => pure ()
  | p :: r, bs => do
    (match p.1 with
     | .hbm _ pte | .window _ _ pte | .host _ pte | .peer _ _ _ pte => soFlush w pte
     | _ => pure ())
    writePart w p.1 (bs.take p.2) rel
    writeAll w rel r (bs.drop p.2)

/-- An element written at offset `o` of an operand; `rel` for the last element of a command carrying REL. -/
def writeEl (w : Who) (sp : BitVec 2) (x : W) (o : Int) (opnd : Nat) (bs : List Byte) (rel : Bool) : PM Unit := do
  let ps ← placeAll w sp opnd .write (writeSpans sp x (opndAddr sp x o) bs.length)
  writeAll w rel ps bs

/-- Own-well reads and writes of a command's fixed well operands (lists, smoothing and norm vectors, results). -/
def wellRead (w : Who) (a n : Nat) : PM (List Byte) := readPiece w 0 (.well (a % wellSize)) n .read
def wellPut (w : Who) (a : Nat) (bs : List Byte) : PM Unit := writePart w (.well (a % wellSize)) bs false

/-- Well offset of the entry that the NORM tap of a row or column updates (R173). -/
def normAt (h : EntHdr) (row col : Nat) : Nat := (h.normoff.toNat + 4 * (if h.naxis then col else row)) % wellSize

/-- An error in the tap's entry is found before the element is issued (R195, R319). -/
def normCheck (w : Who) (h : EntHdr) (row col : Nat) : PM Unit :=
  if h.norm then poisonCheck (.well w.core) (normAt h row col) 4 .read 0 else pure ()

/-- The NORM tap's read-modify-write at the bank: x·x exact and one rounding (R173). -/
def normPut (w : Who) (h : EntHdr) (row col : Nat) (x : Fp) : PM Unit := do
  if h.norm then
    let a := normAt h row col
    modify (fun s => (s.pathRead w.core w.n a 4).modStream w.core w.n (fun t => t.dropEarly (.well w.core) a 4))
    let s ← get
    let old := leNat ((List.range 4).map (fun i => (s.coreAt w.core).well.bank ((a + i) % wellSize)))
    ownWellWrite w true true (chunksOf (cellsAt wellSize a (leBytes 4 (fin1 .f32 (fpFma x x (decode .f32 old) .rne) .rne 0).1)))
  else pure ()

/-- The NORM tap of a committed element. -/
def normTap (w : Who) (h : EntHdr) (row col : Nat) (x : Fp) : PM Unit := do
  normCheck w h row col
  normPut w h row col x

/-- A moved element as the tap reads it (R173). -/
def tapValue (h : EntHdr) (bs : List Byte) : Fp := if h.esz = 1 then decode .bf16 (leNat bs) else decode .f32 (leNat bs)

/-! ### Starting a command (R60, R62, R171) -/

/-- Positions of a data command (R193). -/
def entCount : Instr → Nat
  | .copy _ _ _ a b c d .. => a.toNat * b.toNat * c.toNat * d.toNat
  | .gath _ _ _ _ n r .. | .scat _ _ _ _ n r .. => n.toNat * r.toNat
  | .xpose _ _ _ r c .. => r.toNat * c.toNat
  | .conv _ _ _ _ n .. => n.toNat
  | .decomp _ _ _ n => n.toNat
  | .cmprs _ _ _ _ _ n .. => n.toNat
  | .mcast _ _ _ n nd => n.toNat * nd.toNat
  | .red _ _ _ n .. => n.toNat
  | .fill _ _ n _ => n.toNat
  | .atom .. | .sempr .. | .flipv .. => 1
  | _ => 0

/-- The CIST operands of a command with their numbers: 0 for D, 1 for S, 2 + k for the k-th listed source. -/
def cistOpnds (c : Cmd) : List (Nat × W) :=
  let h := entHdr c.entry
  let s (x : W) : List (Nat × W) := if h.spS = 2 then [(1, x)] else []
  let d (x : W) : List (Nat × W) := if h.spD = 2 then [(0, x)] else []
  match c.entry with
  | .copy _ x y .. | .gath _ x y .. | .scat _ x y .. | .xpose _ x y .. | .decomp _ x y _ => s x ++ d y
  | .conv _ x .. | .cmprs _ x .. | .mcast _ x .. => s x
  | .fill _ y .. => d y
  | .red _ _ y .. =>
    (if h.spS = 2 then (List.range c.list.length).map (fun k => (2 + k, c.list.getD k 0)) else []) ++ d y
  | _ => []

/-- What a CIST operand names now: its bank, or the unbound handle (R60). -/
def resolveBand (k : Core) (cell : Nat) (x : W) : BandOf :=
  match k.bankOf cell (cistHandle x) with
  | some b => .bank b
  | none => .handle cell (cistHandle x)

/-- No other stream owns a band of this range (R60). -/
def bandFree (k : Core) (n : Nat) (b : BandOf) (x : W) : Bool :=
  k.cist.own.all (fun o => o.stream.val == n || o.of != b || decide (o.hi < cistLo x) || decide (cistHi x < o.lo))

/-- FILL and DRAIN conditions and the bands, tested together (R60, R62, R171). -/
def startOk (k : Core) (n : Nat) (c : Cmd) : Bool :=
  let h := entHdr c.entry
  (!h.fill || (k.tile h.ftile.toNat).state == .empty) && (!h.drain || (k.tile h.dtile.toNat).state == .ready)
    && (cistOpnds c).all (fun o => bandFree k n (resolveBand k c.cell o.2) o.2)

/-- The command waits for tiles or bands before its first element, so nothing of it is read ahead of that. -/
def hasStart (c : Cmd) : Bool := (entHdr c.entry).fill || (entHdr c.entry).drain || !(cistOpnds c).isEmpty

def streamFin (n : Nat) : Fin 4 := ⟨n % 4, Nat.mod_lt _ (by decide)⟩

/-- Tiles and bands taken together. -/
def takeStart (k : Core) (n : Nat) (c : Cmd) : Core :=
  let h := entHdr c.entry
  let k1 := if h.fill then k.setTile h.ftile.toNat { k.tile h.ftile.toNat with state := .filling, held := some (streamFin n) } else k
  let k2 := if h.drain then k1.setTile h.dtile.toNat { k1.tile h.dtile.toNat with state := .draining, held := some (streamFin n) } else k1
  let mine := (cistOpnds c).map (fun o =>
    ({ stream := streamFin n, cmd := c.uid, opnd := o.1, of := resolveBand k c.cell o.2, lo := cistLo o.2, hi := cistHi o.2 } : BandOwn))
  { k2 with cist := { k2.cist with own := k2.cist.own ++ mine } }

/-- The checks of a FLIPV, in their order (R191, R372). -/
def flipvCheck (w : Who) : PM Unit := fun s =>
  match w.cmd.entry with
  | .flipv _ region ver inc =>
    let r := vget s.regions region.toNat {}
    if r.vcnt = 0 ∨ r.ctx.extractLsb' 0 12 ≠ (s.coreAt w.core).ctxOf then .error (.fault cPermission 0xFF 1 0)
    else if r.malformed then .error (.fault cMalformedPte 0xFF 1 0)
    else if !inc ∧ ver.toNat ≥ r.vcnt.toNat then .error (.fault cEntry 0xFF 4 0)
    else .ok ((), s)
  | _ => .ok ((), s)

/-- An address list of a command in the well (R186, R187): `cnt` addresses of 8 bytes at X, which DX moves. -/
def readList (w : Who) (x : W) : Nat → Nat → PM (List W)
  | 0, _ => pure []
  | n + 1, i => do
    let bs ← wellRead w (opndAddr 1 x (w.cmd.dx + 8 * i)) 8
    let r ← readList w x n (i + 1)
    pure (BitVec.ofNat 64 (leNat bs) :: r)

/-- The list of an MCAST or a RED. A listed CIST operand obeys R170. -/
def startList (w : Who) : PM (List W) := do
  match w.cmd.entry with
  | .mcast _ _ x _ nd => readList w x nd.toNat 0
  | .red h x _ _ ns _ _ _ =>
    let l ← readList w x ns.toNat 0
    if h.spS = 2 ∧ l.any (fun a => !cistOk 2 a 2) then throw (.fault cEntry 0xFF 4 0) else pure l
  | _ => pure []

/-- The command starts its first element: its list is read, its conditions are met and taken, or it waits. -/
def startCmd (w : Who) : PM Cmd := do
  flipvCheck w
  let l ← startList w
  let c := { w.cmd with list := l, started := true }
  let s ← get
  if startOk (s.coreAt w.core) w.n c then
    modify (fun s => (s.setCoreAt w.core (takeStart (s.coreAt w.core) w.n c)).modCmd w.core w.n (fun _ => c))
    modify (fun s => if hasStart c then s.modStream w.core w.n (fun t => { t with early := [] }) else s)
    pure c
  else throw .wait

/-! ### Posts and completion (R67, R166, R171, R172) -/

/-- The writes of a command performed at their destination (R299). -/
def State.landWrites (s : State) (c : Fin 128) (ids : List Nat) : State := if ids.isEmpty then s else s.performDest c.val ids

/-- A post to a semaphore of the stream's own core (R64, R66). -/
def State.post (s : State) (c : Fin 128) (off : Off) (n : Nat) : State :=
  let k := (s.coreAt c).semPost s.nextId off n
  { s.setCoreAt c k with nextId := s.nextId + 1 }

/-- The same post made `j` times. -/
def State.posts (s : State) (c : Fin 128) (off : Off) (n : Nat) : Nat → State
  | 0 => s
  | j + 1 => State.posts (s.post c off n) c off n j

/-- Per-m posts due at a position (R172): each further m elements, but none at the last. For an MCAST it is (element,
destination) pairs, the units of its position, that are counted (log 70). -/
def postsDue (h : EntHdr) (pos total : Nat) : Nat :=
  if h.post && h.every != 0 then min pos (total - 1) / h.every.toNat else 0

/-- Elements up to `pos` are committed (R166, R172): P moves, per-m posts are made once their writes are performed, and after
the last element the stream goes on to its next entry while the command completes. -/
def State.committed (s : State) (c : Fin 128) (n pos : Nat) : State :=
  match ((s.coreAt c).stream n).cmd with
  | none => s
  | some cmd =>
    let h := entHdr cmd.entry
    let total := entCount cmd.entry
    let due := postsDue h pos total - cmd.posts
    let s1 := if due = 0 then s
      else (s.landWrites c (cmd.writes ++ s.ownIds c n (.well c) (semAt h.sem) 8)).posts c h.sem h.cnt.toNat due
    let cmd1 := { cmd with pos := pos, posts := cmd.posts + due, landed := if due = 0 then cmd.landed else s.nextId }
    s1.modStream c n (fun t =>
      let t1 := { t with pos := BitVec.ofNat 32 pos, walk := none, inAtomic := false }
      if pos ≥ total then { t1 with cmd := none, completing := t1.completing ++ [cmd1], cur := t1.cur + 64 }
      else { t1 with cmd := some cmd1 })

/-- Writes of a command that lie in the core's well and cistern shown to every path: the release of a completion post (R67). -/
def Core.showCmd (k : Core) (ids : List Nat) : Core :=
  { k with
    well := k.well.show_ wellAll (fun w => ids.contains w.id) pathsAll,
    cist := { k.cist with data := k.cist.data.show_ wellAll (fun w => ids.contains w.id) pathsAll } }

/-- Tiles a completed command releases (R62). -/
def doneTile (k : Core) (on : Bool) (e : Nat) (st : TileState) : Core :=
  if on then k.setTile e { k.tile e with state := st, held := none } else k

/-- COMMAND_COMPLETION (R166, R171): the oldest command of the stream whose elements are all committed completes. While MVA stops the
stream none does (R200). -/
def execCommandCompletion (s : State) : Host.Outcome State Fault Refusal :=
  let c := s.turn.core
  let n := s.turn.stream.val
  if (s.core.stream n).state = .aborting then onStream s id else
  match (s.core.stream n).completing with
  | [] => onStream s id
  | cmd :: rest =>
    let h := entHdr cmd.entry
    let s1 := s.landWrites c cmd.writes
    let held := decide (0 < entCount cmd.entry)
    let k := s1.coreAt c
    let k1 := doneTile (doneTile k (h.fill && held) h.ftile.toNat .ready) (h.drain && held) h.dtile.toNat .empty
    let k2 := { k1 with cist := { k1.cist with own := k1.cist.own.filter (fun o => o.cmd != cmd.uid) } }
    let t := k2.stream n
    let k3 := (k2.setStream n { t with completing := rest, posted := t.readIds }).reclaim
    let k4 := if h.post then (k3.showCmd cmd.writes).semPost s1.nextId h.sem h.cnt.toNat else k3
    .next (({ s1 with nextId := s1.nextId + 1 }).putCore c k4.dropSets)

end Machine
end Sys2Proof
end

