-- ==== Sys2Proof/Machine/Entries.lean ====
section
/-! DEFINITION. The data commands of a stream (R180-R193): what each element of each command reads and writes, the transfer
unit that commits it (R167), page walks (R319-R321), the atomic engines (R313, R314), and writes as they are performed
(R20, R300). -/

namespace Sys2Proof
namespace Machine

/-! ### Elements. Each answers the position after the commit, or none when the element is at its atomic engine. -/

/-- Is the command carrying REL at its last element? -/
def relAt (w : Who) (pos : Nat) : Bool := (entHdr w.cmd.entry).rel && decide (pos ≥ entCount w.cmd.entry)

/-- The partial state of the command (R196). -/
def keep (w : Who) (f : Cmd → Cmd) : PM Unit := modify (fun s => s.modCmd w.core w.n f)

/-- An element moved unchanged, and tapped. -/
def moveEl (w : Who) (h : EntHdr) (s d : W) (so do_ : Int) (row col : Nat) : PM (Option Nat) := do
  let bs ← readEl w h.spS s (so + w.cmd.ds) 1 h.size
  writeEl w h.spD d (do_ + w.cmd.dd) 0 bs (relAt w (w.cmd.pos + 1))
  normTap w h row col (tapValue h bs)
  pure (some (w.cmd.pos + 1))

/-- COPY (R180). -/
def copyEl (w : Who) (h : EntHdr) (s d : W) (n0 n1 n2 : Nat) (ss1 ss2 ss3 ds1 ds2 ds3 : W32) : PM (Option Nat) :=
  let p := w.cmd.pos
  let i0 := p % n0
  let i1 := p / n0 % n1
  let i2 := p / (n0 * n1) % n2
  let i3 := p / (n0 * n1 * n2)
  let e : Int := (i0 * h.size : Nat)
  moveEl w h s d (i3 * ss3.toInt + i2 * ss2.toInt + i1 * ss1.toInt + e) (i3 * ds3.toInt + i2 * ds2.toInt + i1 * ds1.toInt + e)
    i1 i0

/-- The row index of a GATH or SCAT, read before row i and kept in the context (R181). -/
def rowIndex (w : Who) (h : EntHdr) (x : W) (isz : Byte) (i j : Nat) : PM Nat := do
  if j = 0 then
    let sz := if isz = 1 then 4 else 8
    let bs ← readEl w h.spX x ((i * sz : Nat) + w.cmd.dx) 99 sz
    keep w (fun c => { c with row := BitVec.ofNat 64 (leNat bs) })
    pure (leNat bs)
  else pure w.cmd.row.toNat

/-- GATH and SCAT (R181). -/
def gathEl (w : Who) (h : EntHdr) (s d x : W) (rlen : Nat) (rstr : W) (isz : Byte) : PM (Option Nat) := do
  let p := w.cmd.pos
  let i := p / rlen
  let j := p % rlen
  let idx ← rowIndex w h x isz i j
  moveEl w h s d (idx * rstr.toInt + (j * h.size : Nat)) (p * h.size : Nat) i j

def scatEl (w : Who) (h : EntHdr) (s d x : W) (rlen : Nat) (rstr : W) (isz : Byte) : PM (Option Nat) := do
  let p := w.cmd.pos
  let i := p / rlen
  let j := p % rlen
  let idx ← rowIndex w h x isz i j
  moveEl w h s d (p * h.size : Nat) (idx * rstr.toInt + (j * h.size : Nat)) i j

/-- XPOSE (R182): destination row-major. -/
def xposeEl (w : Who) (h : EntHdr) (s d : W) (rows : Nat) (sstr dstr : W) : PM (Option Nat) :=
  let r := w.cmd.pos / rows
  let c := w.cmd.pos % rows
  moveEl w h s d (c * sstr.toInt + (r * h.size : Nat)) (r * dstr.toInt + (c * h.size : Nat)) c r

/-- The element format of a CONV's FMT, and whether it is block-scaled (R183). -/
def convFmt (f : BitVec 4) : Fmt :=
  if f = 0 then .e4m3 else if f = 1 then .e5m2 else if f = 2 then .e2m1 else if f = 5 then .bf16 else .kt8
def convScaled (f : BitVec 4) : Bool := f != 3 && f != 5

/-- Elements of an operand read one after another. -/
def readRun (w : Who) (sp : BitVec 2) (x : W) (delta : Int) (opnd sz : Nat) : Nat → Nat → PM (List W32)
  | 0, _ => pure []
  | n + 1, i => do
    let bs ← readEl w sp x ((i * sz : Nat) + delta) opnd sz
    let r ← readRun w sp x delta opnd sz n (i + 1)
    pure (BitVec.ofNat 32 (leNat bs) :: r)

/-- y[i] of a CONV (R183): the source, times the smoothing vector's entry exactly. -/
def convY (w : Who) (bf smooth : Bool) (smoff : Off) (slen : Nat) (i : Nat) (src : W32) : PM Fp := do
  let x := decode (if bf then .bf16 else .f32) src.toNat
  if smooth then
    let bs ← wellRead w (smoff.toNat + 4 * (i % slen)) 4
    pure (fpMul x (decode .f32 (leNat bs))).1
  else pure x

/-- The values of a block. -/
def convYs (w : Who) (bf smooth : Bool) (smoff : Off) (slen : Nat) : Nat → List W32 → PM (List Fp)
  | _, [] => pure []
  | i, x :: r => do
    let y ← convY w bf smooth smoff slen i x
    let ys ← convYs w bf smooth smoff slen (i + 1) r
    pure (y :: ys)

/-- q[i] under a block scale (R183, R185): 0 when the scale is NaN. -/
def quant (f : Fmt) (sc : Nat) (y : Fp) (rm : RMode) (u : Nat) : Nat :=
  if sc = 0xFF then 0 else (convFp f (fpScale y (127 - (sc : Int))) rm u).1

/-- CONV (R183). Of one element, the block's scale is written first, then the result, then the NORM tap adds (log 116). -/
def convEl (w : Who) (h : EntHdr) (s d x : W) (n : Nat) (smoff : Off) (fmt : BitVec 4) (bf smooth : Bool) (rm : BitVec 3)
    (slen : Nat) (seed : W) : PM (Option Nat) := do
  let p := w.cmd.pos
  let sz := if bf then 2 else 4
  let f := convFmt fmt
  let b0 := p / 32 * 32
  -- the sources of the block, or of the one element of an unscaled format
  let srcs ← (if convScaled fmt then
      (if p % 32 = 0 then readRun w h.spS s w.cmd.ds 1 sz (min 32 (n - b0)) b0 else pure w.cmd.src)
    else readRun w h.spS s w.cmd.ds 1 sz 1 p)
  let sc ← (if convScaled fmt && p % 32 == 0 then do
      let ys ← convYs w bf smooth smoff slen b0 srcs
      pure (mxScale ys f)
    else pure w.cmd.scale.toNat)
  let at_ (i : Nat) : W32 := if convScaled fmt then srcs.getD (i - b0) 0 else srcs.getD (i - p) 0
  let q (i : Nat) : PM Nat := do
    let y ← convY w bf smooth smoff slen i (at_ i)
    let u := (mix (BitVec.ofNat 64 i) seed).toNat % 65536
    pure (if convScaled fmt then quant f sc y (rmodeOf rm) u else (convFp f y (rmodeOf rm) u).1)
  let next := if fmt = 2 then min (p + 2) n else p + 1
  let q0 ← q p
  let q1 ← (if fmt = 2 && p + 1 < n then q (p + 1) else pure 0)
  let bytes := if fmt = 2 then [BitVec.ofNat 8 (q0 + 16 * q1)] else leBytes (f.width / 8) q0
  let off : Nat := if fmt = 2 then p / 2 else p * (f.width / 8)
  if convScaled fmt && p % 32 == 0 then
    writeEl w h.spX x ((p / 32 : Nat) + w.cmd.dx) 99 [BitVec.ofNat 8 sc] (relAt w next)
  else pure ()
  writeEl w h.spD d ((off : Nat) + w.cmd.dd) 0 bytes (relAt w next)
  keep w (fun c => { c with src := if convScaled fmt then srcs else [], scale := BitVec.ofNat 8 sc })
  let tap (i : Nat) : PM Unit := normTap w h 0 i (decode (if bf then .bf16 else .f32) (at_ i).toNat)
  tap p
  if next = p + 2 then tap (p + 1) else pure ()
  pure (some next)

/-- DECOMP (R184). -/
def decompEl (w : Who) (h : EntHdr) (s d : W) : PM (Option Nat) := do
  let p := w.cmd.pos
  let j := p % 64
  let mask ← (if j = 0 then do
      let bs ← readEl w h.spS s ((w.cmd.srcOff : Nat) + w.cmd.ds) 1 8
      pure (BitVec.ofNat 64 (leNat bs))
    else pure w.cmd.dmask)
  let off := if j = 0 then w.cmd.srcOff + 8 else w.cmd.srcOff
  let bs ← (if mask.getLsbD j then readEl w h.spS s ((off : Nat) + w.cmd.ds) 1 h.size else pure (List.replicate h.size 0))
  let off1 := if mask.getLsbD j then off + h.size else off
  writeEl w h.spD d ((p * h.size : Nat) + w.cmd.dd) 0 bs (relAt w (p + 1))
  normTap w h 0 p (tapValue h bs)
  keep w (fun c => { c with dmask := mask, srcOff := if j = 63 then (off1 + 7) / 8 * 8 else off1 })
  pure (some (p + 1))

/-- CMPRS (R185). Of one element, the result is written first, then the residual, then the block's scale, and then the NORM tap adds
(log 116). -/
def cmprsEl (w : Who) (h : EntHdr) (s d x y : W) (n : Nat) (rm : BitVec 3) (seed : W) : PM (Option Nat) := do
  let p := w.cmd.pos
  let b0 := p / 32 * 32
  let m := min 32 (n - b0)
  let srcs ← (if p % 32 = 0 then readRun w h.spS s w.cmd.ds 1 4 m b0 else pure w.cmd.src)
  let ys ← (if p % 32 = 0 then do
      let rs ← readRun w h.spY y w.cmd.ds 99 4 m b0
      pure ((srcs.zip rs).map (fun v => BitVec.ofNat 32 (addF .f32 v.1.toNat v.2.toNat .rne 0).1))
    else pure w.cmd.block)
  let sc := if p % 32 = 0 then mxScale (ys.map (fun v => decode .f32 v.toNat)) .e4m3 else w.cmd.scale.toNat
  let yc := (ys.getD (p - b0) 0).toNat
  let q := quant .e4m3 sc (decode .f32 yc) (rmodeOf rm) ((mix (BitVec.ofNat 64 p) seed).toNat % 65536)
  let res := if sc = 0xFF then yc else
    (fin1 .f32 (fpAdd (decode .f32 yc) (fpNeg (fpScale (decode .e4m3 q) ((sc : Int) - 127))) .rne) .rne 0).1
  writeEl w h.spD d ((p : Nat) + w.cmd.dd) 0 [BitVec.ofNat 8 q] (relAt w (p + 1))
  writeEl w h.spY y ((4 * p : Nat) + w.cmd.ds) 99 (leBytes 4 res) (relAt w (p + 1))
  if p % 32 = 0 then
    writeEl w h.spX x ((p / 32 : Nat) + w.cmd.dx) 99 [BitVec.ofNat 8 sc] (relAt w (p + 1))
  else pure ()
  normTap w h 0 p (decode .f32 (srcs.getD (p - b0) 0).toNat)
  keep w (fun c => { c with src := srcs, block := ys, scale := BitVec.ofNat 8 sc })
  pure (some (p + 1))

/-- MCAST (R186): element-major, the destination inner; an element is read once and tapped once. -/
def mcastEl (w : Who) (h : EntHdr) (s : W) (nd : Nat) : PM (Option Nat) := do
  let p := w.cmd.pos
  let e := p / nd
  let k := p % nd
  let bs ← (if k = 0 then readEl w h.spS s ((e * h.size : Nat) + w.cmd.ds) 1 h.size else pure (leBytes h.size w.cmd.row.toNat))
  keep w (fun c => { c with row := BitVec.ofNat 64 (leNat bs) })
  writeEl w h.spD (w.cmd.list.getD k 0) ((e * h.size : Nat) + w.cmd.dd) 0 bs (relAt w (p + 1))
  if k = 0 then normTap w h 0 e (tapValue h bs) else pure ()
  pure (some (p + 1))

/-- FILL (R188). -/
def fillEl (w : Who) (h : EntHdr) (d val : W) : PM (Option Nat) := do
  let p := w.cmd.pos
  let bs := leBytes h.size val.toNat
  writeEl w h.spD d ((p * h.size : Nat) + w.cmd.dd) 0 bs (relAt w (p + 1))
  normTap w h 0 p (tapValue h bs)
  pure (some (p + 1))

/-! ### RED (R187) -/

def redSize (typ : Byte) : Nat := if typ = 1 then 2 else 4
def redWiden (typ : Byte) (x : Nat) : Nat := if typ = 1 then x * 65536 else x
/-- One step of RED: rounded FP32 addition, MAX or MIN under R77, or the i32 rules. -/
def redOp (typ : Byte) (op : BitVec 2) (x y : Nat) : Nat :=
  if typ = 2 then
    let a := signed 32 x
    let b := signed 32 y
    wrap 32 (if op = 0 then (clamp (-(2 ^ 31)) (2 ^ 31 - 1) (a + b)).1 else if op = 1 then max a b else min a b)
  else if op = 0 then (addF .f32 x y .rne 0).1
  else (fpMinMax (op == 1) .f32 x y).1
def redRound (typ : Byte) (x : Nat) : Nat :=
  if typ = 2 then x else (convFp (if typ = 1 then .bf16 else .f32) (decode .f32 x) .rne 0).1
/-- The new value of an accumulate: one rounding, to TYPE, of the exact sum (R83, R187). -/
def redAcc (typ : Byte) (op : BitVec 2) (old acc : Nat) : Nat :=
  if typ = 1 ∧ op = 0 then (fin1 .bf16 (fpAdd (decode .f32 (redWiden typ old)) (decode .f32 acc) .rne) .rne 0).1
  else redRound typ (redOp typ op (redWiden typ old) acc)
def redTap (typ : Byte) (x : Nat) : Fp := if typ = 1 then decode .bf16 x else decode .f32 x

/-- An address with its low bits cleared to an element of `n` bytes. -/
def alignTo (a n : Nat) : Nat := a / n * n

/-- An element at a cleared address. -/
def readAligned (w : Who) (sp : BitVec 2) (x : W) (o : Int) (opnd n : Nat) : PM Nat := do
  let bs ← readPieces w sp opnd .read [(alignTo (opndAddr sp x o) n, n)]
  pure (leNat bs)

/-- The sources of one element combined. -/
def redFold (w : Who) (h : EntHdr) (op : BitVec 2) (typ : Byte) (e : Nat) : Nat → List W → Nat → PM Nat
  | _, [], acc => pure acc
  | k, x :: r, acc => do
    let v ← readAligned w h.spS x ((e * redSize typ : Nat) + w.cmd.ds) (2 + k) (redSize typ)
    redFold w h op typ e (k + 1) r (if k = 0 then redWiden typ v else redOp typ op acc (redWiden typ v))

/-- The level of the cached leaf of an address, for a fault that the leaf itself does not raise. -/
def leafLevel (w : Who) (va : W) (s : State) : Nat :=
  ((tlbHit s w.core ((s.coreAt w.core).ctxOf) va).map (·.level)).getD 0xFF

/-- A fault at the leaf of an element. -/
def leafFault {α : Type} (w : Who) (cause : Nat) (acc : Acc) (va : W) : PM α := fun s =>
  .error (.fault cause (leafLevel w va s) acc.code va)

/-- The engine that serves a target (R313): the stack's, or the cluster's of the target core. -/
def stackEng (pa : Nat) : Fin 40 := ⟨pa / 2 ^ 36 % 8, by omega⟩
def clusterEng (x : Fin 128) : Fin 40 := ⟨8 + x.val / 4, by have := x.isLt; omega⟩

/-- A WELL element has CORE scope and RC ordering (R305). -/
def ownPte : Pte := 1#128 <<< 4

/-- Before a read-modify-write of some bytes, the pending writes to them are performed with respect to the core, and to the
observers among whom they are multi-copy atomic (R300, R310, R313). Answers those writes. -/
def rmwFlush (w : Who) (sp : WSpace) (a n : Nat) : PM (List PWrite) := do
  let s ← get
  let over_ := (s.vmem sp).pend.filter (fun p => p.touches sp a n)
  set ((over_.foldl (fun s x => s.perform [x.id] (2 ^ w.core.val ||| atomicSet x w.core.val)) s).modStream w.core w.n
    (fun t => t.dropEarly sp a n))
  pure over_

/-- Other cores' writes whose values a read-modify-write has returned (R306). -/
def rmwNote (w : Who) (over_ : List PWrite) : PM Unit :=
  noteIds w ((over_.filter (fun p => p.core != w.core.val)).map (·.id))

/-- The bytes that a read-modify-write reads: the last of the coherence order, under the page's key in HBM (R313, R324). -/
def rmwBytes (s : State) (sp : WSpace) (pte : Pte) (a n : Nat) : List Byte :=
  match sp with
  | .hbm => hbmPlain s pte.key s.hbm.latest a n
  | .host => s.host.latestBytes a n
  | sp => (s.vmem sp).bankBytes a n

/-- A read-modify-write's write (R306, R308, R313): it carries what the writes it follows carried, and in a well it is
performed at the bank. -/
def rmwWrite (w : Who) (sp : WSpace) (a : Nat) (pte : Pte) (rel : Bool) (over_ : List PWrite) (bs : List Byte) : PM Unit := do
  let s ← get
  let id ← freshId
  let deps := (relDeps s w rel pte ++ over_.flatMap (·.deps)).dedup
  let scope := over_.foldl (fun m p => if p.deps.isEmpty then m else m ||| p.scope) (scopeMask pte.scp w.core.val)
  match sp with
  | .hbm =>
    if pte.key = 0 then
      modify (fun s =>
        let p := { pageWrite s w id (cellsAt (2 ^ 52) a bs) pte rel deps with scope := scope }
        { s with hbm := s.hbm.push globalAll p })
      noteWrite w id
    else
      modify (fun s =>
        let s1 := if deps.isEmpty then s else s.perform deps scope
        { s1 with hbm := s1.hbm.store (hbmCipherCells s1 pte.key a bs) })
  | .host =>
    modify (fun s =>
      let p := { pageWrite s w id (cellsAt (2 ^ 52) a bs) pte rel deps with scope := scope }
      { s with host := s.host.push globalAll p })
    noteWrite w id
  | .well x =>
    modify (fun s =>
      let p := { pageWrite s w id (cellsAt wellSize a bs) pte rel deps with scope := scope }
      (s.setCoreAt x { s.coreAt x with well := (s.coreAt x).well.push wellAll p }).perform [id] (2 ^ x.val))
    noteWrite w id
  | _ => pure ()

/-- A request issued to an atomic engine: from then on the element is always committed (R195). -/
def issueAtomic (w : Who) (r : AtomicReq) (pte : Pte) : PM (Option Nat) := do
  soFlush w pte
  modify (fun s => { s.modStream w.core w.n (fun t => { t with inAtomic := true }) with atomics := s.atomics ++ [r] })
  pure none

/-- An accumulate of one element (R187). -/
def redCommit (w : Who) (h : EntHdr) (op : BitVec 2) (typ : Byte) (e a acc : Nat) : PM (Option Nat) := do
  let sz := redSize typ
  let rel := relAt w (e + 1)
  normCheck w h 0 e
  let vt ← place w h.spD 0 a .rmw (fun eth _ => eth)
  let tap (v : Nat) : PM Unit := normPut w h 0 e (redTap typ v)
  let req (eng : Fin 40) (addr : Nat) (tg : Option (Fin 128)) (pte : Pte) : AtomicReq :=
    { eng := eng, core := w.core, stream := streamFin w.n, addr := addr, target := tg,
      op := .red op typ (BitVec.ofNat 32 acc), pte := pte, rel := rel }
  match vt.2 with
  | .hbm pa pte => do
    poisonCheck .hbm pa sz .rmw vt.1
    issueAtomic w (req (stackEng pa) pa none pte) pte
  | .window x off pte => do
    poisonCheck (.well x) off sz .rmw vt.1
    issueAtomic w (req (clusterEng x) off (some x) pte) pte
  | .peer pkg _ va pte => do
    soFlush w pte
    peerSend w pkg va pte rel (.red op (typ.setWidth 2) (BitVec.ofNat 32 acc))
    acquire w (pte.ord == 2)
    tap (leNat (← peerGet va sz))
    pure (some (e + 1))
  | .host pa pte => do
    -- host memory under CXL.cache ownership
    soFlush w pte
    let over_ ← rmwFlush w .host pa sz
    rmwNote w over_
    let s ← get
    let v := redAcc typ op (leNat (rmwBytes s .host pte pa sz)) acc
    rmwWrite w .host pa pte rel over_ (leBytes sz v)
    acquire w (pte.ord == 2)
    tap v
    pure (some (e + 1))
  | t => do
    -- one bank access
    let _ ← readPiece w vt.1 t sz .rmw
    let t1 ← bindFor w t
    let s ← get
    let old := leNat (match t1 with
      | .well off => (List.range sz).map (fun i => (s.coreAt w.core).well.bank ((off + i) % wellSize))
      | .bank b off => (s.coreAt w.core).cist.data.bankBytes (bankSize * b.val + off) sz
      | _ => [])
    let v := redAcc typ op old acc
    writePart w t1 (leBytes sz v) rel true
    tap v
    pure (some (e + 1))

/-- RED (R187). -/
def redEl (w : Who) (h : EntHdr) (d : W) (op : BitVec 2) (acc : Bool) (typ : Byte) : PM (Option Nat) := do
  let e := w.cmd.pos
  let sz := redSize typ
  let v ← redFold w h op typ e 0 w.cmd.list 0
  let a := alignTo (opndAddr h.spD d ((e * sz : Nat) + w.cmd.dd)) sz
  if acc then redCommit w h op typ e a v
  else
    let r := redRound typ v
    let ps ← placeAll w h.spD 0 .write [(a, sz)]
    writeAll w (relAt w (e + 1)) ps (leBytes sz r)
    normTap w h 0 e (redTap typ r)
    pure (some (e + 1))

/-! ### ATOM, SEMPR, FLIPV (R189-R191) -/

/-- The new value of an ATOM (R189). -/
def atomNew (op : BitVec 3) (n : Nat) (old opnd cmpv : Nat) : Nat :=
  let x := opnd % 2 ^ (8 * n)
  match op.toNat with
  | 0 => (old + x) % 2 ^ (8 * n)
  | 1 => if signed (8 * n) x < signed (8 * n) old then x else old
  | 2 => if signed (8 * n) old < signed (8 * n) x then x else old
  | 3 => min old x
  | 4 => max old x
  | 5 => x
  | _ => if old = cmpv % 2 ^ (8 * n) then x else old

/-- The well offset of an ATOM's result. -/
def retAt (off : Off) : Nat := off.toNat / 8 * 8

def atomEl (w : Who) (h : EntHdr) (d opnd cmpv : W) (retoff : Off) (op : BitVec 3) (w64 : Bool) : PM (Option Nat) := do
  let n := if w64 then 8 else 4
  let a := alignTo (opndAddr h.spD d w.cmd.dd) n
  let vt ← place w h.spD 0 a .atom (fun eth _ => eth && !(w64 && (op == 0 || op == 6)))
  let req (eng : Fin 40) (addr : Nat) (tg : Option (Fin 128)) (pte : Pte) : AtomicReq :=
    { eng := eng, core := w.core, stream := streamFin w.n, addr := addr, target := tg,
      op := .atom op w64 opnd cmpv retoff, pte := pte, rel := h.rel }
  match vt.2 with
  | .hbm pa pte => do
    poisonCheck .hbm pa n .atom vt.1
    issueAtomic w (req (stackEng pa) pa none pte) pte
  | .window x off pte => do
    poisonCheck (.well x) off n .atom vt.1
    issueAtomic w (req (clusterEng x) off (some x) pte) pte
  | .well off => do
    poisonCheck (.well w.core) off n .atom 0
    issueAtomic w (req (clusterEng w.core) off (some w.core) ownPte) ownPte
  | .host pa pte => do
    soFlush w pte
    let over_ ← rmwFlush w .host pa n
    rmwNote w over_
    let s ← get
    let old := leNat (rmwBytes s .host pte pa n)
    rmwWrite w .host pa pte h.rel over_ (leBytes n (atomNew op n old opnd.toNat cmpv.toNat))
    acquire w (pte.ord == 2)
    wellPut w (retAt retoff) (leBytes 8 old)
    pure (some 1)
  | .peer pkg _ va pte => do
    soFlush w pte
    peerSend w pkg va pte h.rel (.atom op w64 opnd cmpv)
    acquire w (pte.ord == 2)
    let old ← peerGet va n
    wellPut w (retAt retoff) (leBytes 8 (leNat old))
    pure (some 1)
  | _ => pure (some 1)

/-- SEMPR (R190). -/
def semprEl (w : Who) (h : EntHdr) (d : W) (amt : W32) : PM (Option Nat) := do
  let a := alignTo (opndAddr h.spD d w.cmd.dd) 8
  let vt ← place w h.spD 0 a .write (fun eth pa => eth || decide (pa < windowBase))
  let req (addr : Nat) (x : Fin 128) (pte : Pte) : AtomicReq :=
    { eng := clusterEng x, core := w.core, stream := streamFin w.n, addr := addr, target := some x,
      op := .sempr amt, pte := pte, rel := h.rel }
  match vt.2 with
  | .window x off pte => issueAtomic w (req off x pte) pte
  | .well off => issueAtomic w (req off w.core ownPte) ownPte
  | .peer pkg _ va pte => do
    soFlush w pte
    peerSend w pkg va pte h.rel (.sempr amt)
    acquire w (pte.ord == 2)
    pure (some 1)
  | _ => leafFault w cPermission .write vt.1

/-- FLIPV (R191): its checks passed when it started. A register write has no page, so a REL on it orders nothing (log 69). -/
def flipvEl (w : Who) (region ver : Byte) (inc : Bool) : PM (Option Nat) := do
  flipvCheck w
  modify (fun s =>
    let r := vget s.regions region.toNat {}
    let v := if inc then BitVec.ofNat 8 ((r.cur.toNat + 1) % r.vcnt.toNat) else ver
    { s with regions := vset s.regions region.toNat { r with cur := v } })
  pure (some 1)

/-- The next element of the command (R193). -/
def element (w : Who) : PM (Option Nat) :=
  match w.cmd.entry with
  | .copy h s d n0 n1 n2 _ a b c x y z => copyEl w h s d n0.toNat n1.toNat n2.toNat a b c x y z
  | .gath h s d x _ r t i => gathEl w h s d x r.toNat t i
  | .scat h s d x _ r t i => scatEl w h s d x r.toNat t i
  | .xpose h s d r _ a b => xposeEl w h s d r.toNat a b
  | .conv h s d x n sm f bf sth rm sl seed => convEl w h s d x n.toNat sm f bf sth rm sl.toNat seed
  | .decomp h s d _ => decompEl w h s d
  | .cmprs h s d x y n rm seed => cmprsEl w h s d x y n.toNat rm seed
  | .mcast h s _ _ nd => mcastEl w h s nd.toNat
  | .red h _ d _ _ op acc t => redEl w h d op acc t
  | .fill h d _ v => fillEl w h d v
  | .atom h d o c r op w64 => atomEl w h d o c r op w64
  | .sempr h d a => semprEl w h d a
  | .flipv _ r v i => flipvEl w r v i
  | _ => pure (some w.cmd.pos)

/-! ### Data entries begin (R166, R196) -/

/-- Sums of the open loops' deltas (R175). -/
def loopSum (ls : List LoopFrame) (f : LoopFrame → W) : Int := ls.foldl (fun acc l => acc + (l.i.toNat : Int) * (f l).toInt) 0

/-- A data entry becomes the stream's command. One without elements has none to start: it goes on to complete. -/
def beginCmd (i : Instr) (s : State) : Host.Outcome State Fault Refusal :=
  onStream { s with nextId := s.nextId + 1 } (fun t =>
    if t.state = .active ∧ t.cmd.isNone then
      let c : Cmd := {
        entry := i, uid := s.nextId, at_ := t.cur, index := entryIndex t, khead := (t.chain.map (·.khead)).getD 0,
        cell := (t.chain.map (·.cell)).getD 0, tag := (t.chain.map (·.tag)).getD 0,
        ds := loopSum t.loops (·.ds), dd := loopSum t.loops (·.dd), dx := loopSum t.loops (·.dx) }
      let t1 := { t with entry := entryIndex t, pos := 0, waiting := false }
      match i with
      | .pref .. => { t1 with cmd := some c }
      | _ => if entCount i = 0 then { t1 with completing := t1.completing ++ [c], cur := t1.cur + 64 } else { t1 with cmd := some c }
    else t)

def execCopy (h : EntHdr) (a d : W) (n0 n1 n2 n3 : BitVec 16) (s1 s2 s3 d1 d2 d3 : W32) (s : State) :=
  beginCmd (.copy h a d n0 n1 n2 n3 s1 s2 s3 d1 d2 d3) s
def execGath (h : EntHdr) (a d x : W) (n r : W32) (t : W) (i : Byte) (s : State) := beginCmd (.gath h a d x n r t i) s
def execScat (h : EntHdr) (a d x : W) (n r : W32) (t : W) (i : Byte) (s : State) := beginCmd (.scat h a d x n r t i) s
def execXpose (h : EntHdr) (a d : W) (r c : W32) (x y : W) (s : State) := beginCmd (.xpose h a d r c x y) s
def execConv (h : EntHdr) (a d x : W) (n : W32) (sm : Off) (f : BitVec 4) (bf sth : Bool) (rm : BitVec 3) (sl : BitVec 16)
    (seed : W) (s : State) := beginCmd (.conv h a d x n sm f bf sth rm sl seed) s
def execDecomp (h : EntHdr) (a d : W) (n : W32) (s : State) := beginCmd (.decomp h a d n) s
def execCmprs (h : EntHdr) (a d x y : W) (n : W32) (rm : BitVec 3) (seed : W) (s : State) := beginCmd (.cmprs h a d x y n rm seed) s
def execMcast (h : EntHdr) (a x : W) (n : W32) (nd : Byte) (s : State) := beginCmd (.mcast h a x n nd) s
def execRed (h : EntHdr) (x d : W) (n : W32) (ns : Byte) (op : BitVec 2) (acc : Bool) (t : Byte) (s : State) :=
  beginCmd (.red h x d n ns op acc t) s
def execFill (h : EntHdr) (d : W) (n : W32) (v : W) (s : State) := beginCmd (.fill h d n v) s
def execAtom (h : EntHdr) (d o c : W) (r : Off) (op : BitVec 3) (w64 : Bool) (s : State) := beginCmd (.atom h d o c r op w64) s
def execSempr (h : EntHdr) (d : W) (a : W32) (s : State) := beginCmd (.sempr h d a) s
def execFlipv (h : EntHdr) (r v : Byte) (i : Bool) (s : State) := beginCmd (.flipv h r v i) s
def execPref (h : EntHdr) (d l : W) (s : State) := beginCmd (.pref h d l) s

/-! ### The transfer unit (R167, R195) -/

/-- A stream that the home pump can serve: it runs a command and waits for nothing. -/
def streamReady (t : Stream) : Bool :=
  t.state == .active && t.cmd.isSome && !t.waiting && t.walk.isNone && !t.inAtomic

/-- The next stream in round-robin order. -/
def nextStream (k : Core) : Option Nat :=
  ((List.range 4).map (fun i => (k.lastServed + 1 + i) % 4)).find? (fun n => streamReady (k.stream n))

/-- What a command took for its first element is given back: its tiles take their abort transitions, its bands are free. -/
def Core.giveBack (k : Core) (n : Nat) (c : Cmd) : Core :=
  if c.started then
    let h := entHdr c.entry
    let k1 := if h.fill then k.setTile h.ftile.toNat ((k.tile h.ftile.toNat).abort n) else k
    let k2 := if h.drain then k1.setTile h.dtile.toNat ((k1.tile h.dtile.toNat).abort n) else k1
    ({ k2 with cist := { k2.cist with own := k2.cist.own.filter (fun o => o.cmd != c.uid) } }).reclaim
  else k

/-- A command whose entry proves malformed is dropped at position 0: its entry is read again on RESUME (R174, R198). -/
def State.dropCmd (s : State) (c : Fin 128) (n : Nat) : State :=
  let s1 := match ((s.coreAt c).stream n).cmd with
    | some cmd => s.setCoreAt c ((s.coreAt c).giveBack n cmd)
    | none => s
  s1.modStream c n (fun t => { t with pos := 0 })

/-- An element that does not commit: its fault is taken, its walk requested, or the stream waits. A malformed entry is read
again on RESUME (R174, R197). -/
def State.notCommitted (s : State) (c : Fin 128) (n : Nat) : PErr → State
  | .fault cause level acc va =>
    if cause = cEntry then ((s.dropCmd c n).streamFault c n cause level acc va).modStream c n (fun t => { t with cmd := none })
    else s.streamFault c n cause level acc va
  | .walk va acc => s.modStream c n (fun t => { t with walk := some { va := va, acc := acc } })
  | .wait => s.modStream c n (fun t => { t with waiting := true })

/-- One step of a PREF (R192): the next page of the range is walked; past its end the entry completes. -/
def prefStep (s : State) (c : Fin 128) (n : Nat) (cmd : Cmd) (d len : W) : State :=
  if cmd.srcOff ≥ len.toNat then s.committed c n 0
  else s.modStream c n (fun t => { t with walk := some { va := d + BitVec.ofInt 64 (cmd.dd + cmd.srcOff), acc := 0 } })

/-- The started command's next element. -/
def runElement (s : State) (w : Who) : State :=
  match (element w).run s with
  | .error e => s.notCommitted w.core w.n e
  | .ok (none, s1) => s1
  | .ok (some pos, s1) => s1.committed w.core w.n pos

/-- One transfer unit of stream `n`, of one element: it starts the command's first element or commits the next (R62, R167, R194;
log 21). -/
def State.serve (s : State) (c : Fin 128) (n : Nat) : State :=
  match ((s.coreAt c).stream n).cmd with
  | none => s
  | some cmd =>
    match cmd.entry with
    | .pref _ d len => prefStep s c n cmd d len
    | _ =>
      if cmd.started then runElement s { core := c, n := n, cmd := cmd }
      else match (startCmd { core := c, n := n, cmd := cmd }).run s with
        | .error e => s.notCommitted c n e
        | .ok (cmd1, s1) => runElement s1 { core := c, n := n, cmd := cmd1 }

/-- A place of a store that a stream of core `c` can read ahead: eight aligned bytes of HBM, of host memory, of a well through a
window, or of its own well. -/
def earlyPlace (c : Fin 128) (sp : WSpace) (own : Bool) (a : Nat) : Bool :=
  a % 8 == 0 && (match sp with
    | .hbm => !own && decide (a + 8 ≤ hbmSize)
    | .host => !own && decide (a + 8 ≤ 2 ^ 52)
    | .well x => decide (a + 8 ≤ wellSize) && (!own || x == c)
    | _ => false)

/-- A read performed ahead (R195, R304), which the choice `Config.readAhead` makes: a later element that reads the bytes may take
them as they are now. -/
def State.readAhead (s : State) (c : Fin 128) : State :=
  match Config.readAhead s.tick with
  | none => s
  | some (n, sp, own, a) =>
    if earlyPlace c sp own a && ((s.coreAt c).stream n.val).state == .active then
      let s1 := s.beforeRead c n.val sp own a 8
      let e : EarlyRead := {
        sp := sp, own := own, addr := a, bytes := (s1.vmem sp).bytes (obsOf c own sp) a 8, ids := s1.readIdsAt c sp own a 8 }
      s1.modStream c n.val (fun t => { t.dropEarly sp a 8 with early := e :: (t.dropEarly sp a 8).early })
    else s

/-- PUMP_TRANSFER_UNIT (R167): the home pump serves its ready streams round-robin. -/
def execPumpTransferUnit (s : State) : Host.Outcome State Fault Refusal :=
  let c := s.turn.core
  match nextStream s.core with
  | none => onStream s id
  | some n =>
    let s0 := s.readAhead c
    let s1 := s0.setCoreAt c { s0.coreAt c with lastServed := n }
    let s2 := s1.serve c n
    .next ({ s2 with nextId := s2.nextId + 1 }.putCore c (s2.coreAt c))

/-- STREAM_WAIT_SATISFIED (R60-R62, R170, R176): the condition of the waiting stream is tested afresh. -/
def execStreamWaitSatisfied (s : State) : Host.Outcome State Fault Refusal :=
  let c := s.turn.core
  let n := s.turn.stream.val
  let t := s.str
  if t.state ≠ .active ∨ !t.waiting then onStream s id else
  match t.waits, t.cmd with
  | some (a, m), _ =>
    let s1 := s.semRead c n a
    onStream s1 (fun t =>
      if m.toNat ≤ s1.core.semSeen a then { t.step with waits := none, waiting := false, early := [] } else t)
  | none, none => onStream s (fun t => { t with waiting := false })
  | none, some cmd =>
    if cmd.started then
      onStream s (fun t => if s.core.cist.free.isEmpty && s.core.cist.own.any (fun o => o.cmd == cmd.uid && (match o.of with
        | .handle .. => true
        | _ => false)) then t else { t with waiting := false })
    else match (startCmd { core := c, n := n, cmd := cmd }).run s with
      | .error .wait => onStream s id
      | .error e => .next (s.notCommitted c n e)
      | .ok (_, s1) => onStream s1 (fun t => { t with waiting := false })

/-- PAGE_WALK (R319-R321): the walk a stream waits for, from the second-level slice or the tables; a stream may also translate
ahead (R195). A PREF skips what does not translate (R192). -/
def execPageWalk (va : W) (useL2 : Bool) (s : State) : Host.Outcome State Fault Refusal :=
  let c := s.turn.core
  let n := s.turn.stream.val
  let t := s.str
  let ctx := s.core.ctxOf
  let isPref := match t.cmd.map (·.entry) with
    | some (.pref ..) => true
    | _ => false
  let mine := match t.walk with
    | some w => w.va == va
    | none => false
  let hit := if useL2 then tlb2Hit s ctx va else none
  let res : Except (Nat × Nat) (Nat × Pte) := match hit with
    | some e => .ok (e.level, e.pte)
    | none => walk s ctx va
  if t.state ≠ .active ∨ (t.walk.isSome ∧ !mine) then onStream s id else
  let past (size : Nat) (t : Stream) : Stream :=
    if mine then { t with
      walk := none,
      cmd := if isPref then t.cmd.map (fun x => { x with srcOff := x.srcOff + (size - va.toNat % size) }) else t.cmd }
    else t
  match res with
  | .ok (lvl, pte) => onStream (s.fillTlb c ctx va lvl pte) (past (pageSize lvl))
  | .error (cause, lvl) =>
    if !mine then onStream s id
    else if isPref then onStream s (past (2 ^ 16))
    else .next (s.streamFault c n cause lvl ((t.walk.map (·.acc)).getD 0) va)

/-! ### The atomic engines (R313, R314) -/

/-- An earlier request of the list waits for the same location of the same engine. -/
def sameLoc (a b : AtomicReq) : Bool := a.eng == b.eng && a.addr / 8 == b.addr / 8 && a.target == b.target

/-- The request an engine serves next (R314): ports round-robin, a port's requests and a location's in arrival order. A port for each
core that asks is the model's choice (log 96). -/
def nextAtomic (s : State) (eng : Fin 40) : Option AtomicReq :=
  let rs := s.atomics.filter (fun r => r.eng == eng)
  let last := vget s.lastPort eng.val 127
  let tryPort (p : Nat) : Option AtomicReq :=
    match rs.find? (fun r => r.core.val == p) with
    | none => none
    | some r => if (rs.find? (sameLoc r)) == some r then some r else none
  ((List.range 128).map (fun i => (last + 1 + i) % 128)).findSome? tryPort

/-- The store that a request's target lies in. -/
def AtomicReq.space (r : AtomicReq) : WSpace :=
  match r.target with
  | none => .hbm
  | some x => .well x

/-- One read-modify-write performed, with the rest of its element (R187, R189, R190). -/
def serveAtomic (w : Who) (r : AtomicReq) : PM Unit := do
  match r.op with
  | .atom op w64 opnd cmpv ret => do
    let n := if w64 then 8 else 4
    let over_ ← rmwFlush w r.space r.addr n
    rmwNote w over_
    let s ← get
    let old := leNat (rmwBytes s r.space r.pte r.addr n)
    rmwWrite w r.space r.addr r.pte r.rel over_ (leBytes n (atomNew op n old opnd.toNat cmpv.toNat))
    acquire w (Pte.ord r.pte == 2)
    wellPut w (retAt ret) (leBytes 8 old)
  | .red op typ val => do
    let n := redSize typ
    let over_ ← rmwFlush w r.space r.addr n
    rmwNote w over_
    let s ← get
    let v := redAcc typ op (leNat (rmwBytes s r.space r.pte r.addr n)) val.toNat
    rmwWrite w r.space r.addr r.pte r.rel over_ (leBytes n v)
    acquire w (Pte.ord r.pte == 2)
    normPut w (entHdr w.cmd.entry) 0 w.cmd.pos (redTap typ v)
  | .sempr amt => do
    let over_ ← rmwFlush w r.space (r.addr / 8 * 8) 8
    rmwNote w over_
    modify (fun s =>
      let d := (relDeps s w r.rel r.pte ++ over_.flatMap (·.deps)).dedup
      let m := over_.foldl (fun m p => if p.deps.isEmpty then m else m ||| p.scope) (scopeMask (Pte.scp r.pte) w.core.val)
      let s1 := if d.isEmpty then s else (s.perform d m).showIds d m true
      s1.post (r.target.getD w.core) (BitVec.ofNat 23 r.addr) amt.toNat)
    acquire w (Pte.ord r.pte == 2)

/-- The element of a served request is committed (R195). No read that was performed ahead of it is used after an SO access (R304). -/
def State.atomicDone (s : State) (r : AtomicReq) : State :=
  match ((s.coreAt r.core).stream r.stream.val).cmd with
  | none => s.modStream r.core r.stream.val (fun t => { t with inAtomic := false })
  | some cmd =>
    match (serveAtomic { core := r.core, n := r.stream.val, cmd := cmd } r).run s with
    | .error _ => s
    | .ok (_, s1) =>
      let s2 := if Pte.isSO r.pte then s1.modStream r.core r.stream.val (fun t => { t with early := [] }) else s1
      s2.committed r.core r.stream.val (cmd.pos + 1)

/-- ATOMIC_OP (R313, R314). -/
def execAtomicOp (eng : Fin 40) (s : State) : Host.Outcome State Fault Refusal :=
  match nextAtomic s eng with
  | none => .next s
  | some r =>
    .next ({ s with atomics := s.atomics.erase r, lastPort := s.lastPort.set eng.val r.core.val }.atomicDone r)

/-- Requests at the engines served in arrival order, so that streams can stop (R195, R332). -/
def State.drainList : List AtomicReq → State → State
  | [], s => s
  | r :: rs, s => State.drainList rs (s.atomicDone r)
def State.drainAtomics (s : State) : State := State.drainList s.atomics { s with atomics := [] }

/-! ### Writes performed (R20, R300-R303) -/

/-- WINDOW_ACCESS (R20, R302): a write that came through a window arrives in the well of the core, once its command has filled its
chunk (log 21). -/
def execWindowAccess (id : Nat) (s : State) : Host.Outcome State Fault Refusal :=
  if s.core.well.pend.any (fun w => w.id == id && !s.chunkOpen s.core.well pathP w) then .next (s.perform [id] (2 ^ s.turn.core.val))
  else .next s

/-- The writes of a well that an observer comes to see together with `w`. V and M see what one stream command writes to an aligned
64-byte chunk whole: one access of theirs meets the chunk wholly old or wholly new (R223, R276; log 21). -/
def chunkMates (v : VMem) (obs : Nat) (w : PWrite) : List PWrite :=
  if w.cmd = 0 ∨ (obs ≠ pathOf .v ∧ obs ≠ pathOf .m) then [w]
  else v.pend.filter (fun x => x.id == w.id || (x.cmd == w.cmd && x.chunk == w.chunk && !x.seen.testBit obs))

/-- A write in a well becomes visible to one of its observers, unless its chunk is still being filled; an engine's path sees a window
write only once it has arrived. -/
def wellPerformed (s : State) (c : Fin 128) (id obs : Nat) : State :=
  match (s.coreAt c).well.pend.find? (fun w => w.id == id) with
  | none => s
  | some w =>
    if s.chunkOpen (s.coreAt c).well obs w then s
    else if obs ≥ 8 then s.perform [id] (if obs = 136 then 2 ^ 130 else 2 ^ (obs - 8)) else
    let ws := chunkMates (s.coreAt c).well obs w
    let late := (ws.filter (fun x => x.seen == 0)).map (·.id)
    let s1 := if late.isEmpty then s else s.perform late (2 ^ c.val)
    let ids := ws.map (·.id)
    s1.setCoreAt c { s1.coreAt c with well := (s1.coreAt c).well.show_ wellAll (fun w => ids.contains w.id) (2 ^ obs) }

/-- WRITE_PERFORMED (R300): a write becomes performed with respect to one more observer, a release after what it carries (R306). -/
def execWritePerformed (sp : WSpace) (id obs : Nat) (s : State) : Host.Outcome State Fault Refusal :=
  match sp with
  | .hbm => .next (if s.hbm.pend.any (fun w => w.id == id) && obs < 131 then s.perform [id] (2 ^ obs) else s)
  | .host => .next (if s.host.pend.any (fun w => w.id == id) && obs < 131 then s.perform [id] (2 ^ obs) else s)
  | .well c => .next (if (s.coreAt c).well.pend.any (fun w => w.id == id) && obs < 137 then wellPerformed s c id obs else s)
  | .urs c => .next (s.setCoreAt c { s.coreAt c with
      urs := (s.coreAt c).urs.show_ wellAll (fun w => w.id == id && obs < 5) (2 ^ obs) })
  | .cist c => .next (s.setCoreAt c { s.coreAt c with cist := { (s.coreAt c).cist with
      data := (s.coreAt c).cist.data.show_ wellAll (fun w => w.id == id && obs < 5) (2 ^ obs) } })

end Machine
end Sys2Proof
end

