-- ==== Sys2Proof/Machine/Kernel.lean ====
section
/-! DEFINITION. The kernel object, the M-configuration record and the operator record as the front end reads and checks them
(R26-R28, R256, R344), the placement of cells (R31-R33), passes (R346), and the completion of a packet (R341, R342). -/

namespace Sys2Proof
namespace Machine

/-! ### The kernel object (R26-R28) -/

/-- The low 12 bits of a queue's CTX. -/
def Queue.ctxId (x : Queue) : BitVec 12 := x.ctx.setWidth 12

/-- KIND and COUNT of a loop-table entry, and whether it obeys R27. -/
def levelOf (bs : List Byte) (j : Nat) : Nat × Nat := (field bs (0x44 + 8 * j) 1, field bs (0x40 + 8 * j) 4)
def levelOk (bs : List Byte) (j : Nat) : Bool :=
  let l := levelOf bs j
  allZero (slice bs (0x45 + 8 * j) 3) && decide (l.1 ≤ 3) && (if l.1 = 0 then l.2 == 0 else decide (1 ≤ l.2))

/-- Product of the counts of the levels of some kinds (R27, R32). -/
def countOf (levels : List (Nat × Nat)) (p : Nat → Bool) : Nat :=
  levels.foldl (fun acc l => if p l.1 then acc * l.2 else acc) 1
def Kernel.supersteps (k : Kernel) : Nat := countOf k.levels (· == 1)
def Kernel.cn (k : Kernel) : Nat := countOf k.levels (· == 2)
def Kernel.dn (k : Kernel) : Nat := countOf k.levels (· == 3)

/-- The fields of a kernel object of 256 bytes, without its M-configuration record. -/
def kernelOf (bs : List Byte) : Kernel := {
  cohort := bitsOf (field bs 0x06 2) 0 0 == 1, textid := field64 bs 0x08, textva := field64 bs 0x10,
  textlen := field bs 0x18 2, entry := BitVec.ofNat 12 (field bs 0x1A 2), trapv := BitVec.ofNat 12 (field bs 0x1C 2),
  slipw := if field bs 0x1E 1 = 0 then 8 else field bs 0x1E 1,
  viewv := field bs 0x20 4, viewt := field bs 0x24 4, viewa := field bs 0x28 4, wlim := field bs 0x2C 4,
  argsz := field bs 0x30 2, argoff := field bs 0x34 4, levels := (List.range 6).map (levelOf bs) }

/-- The checks of R28 on the object itself, but for the wave check. -/
def kernelOk (bs : List Byte) : Bool :=
  let k := kernelOf bs
  let view (v n : Nat) : Bool := v % 512 == 0 && decide (v + n ≤ 262144)
  field bs 0x00 4 == 0x4B595331 && field bs 0x04 2 == 1 && decide (field bs 0x06 2 ≤ 1)
    && field bs 0x10 8 % 32 == 0 && decide (1 ≤ k.textlen) && decide (k.textlen ≤ 4096)
    && decide (field bs 0x1A 2 < k.textlen) && decide (field bs 0x1C 2 < k.textlen)
    && decide (field bs 0x1E 1 ≤ 16) && field bs 0x1F 1 == 0
    && view k.viewv 30720 && view k.viewt 98304 && view k.viewa 131072
    && k.wlim % 65536 == 0 && decide (65536 ≤ k.wlim) && decide (k.wlim ≤ 8388608)
    && decide (k.argsz ≤ 4096) && field bs 0x32 2 == 0
    && k.argoff % 8 == 0 && decide (k.argoff + k.argsz ≤ k.wlim) && field bs 0x38 8 % 8 == 0
    && (List.range 6).all (levelOk bs)
    && decide (k.cn * k.dn ≤ 2 ^ 24) && decide (k.supersteps ≤ 2 ^ 48) && allZero (slice bs 0x70 144)

/-- Entries of a configuration record from an offset: INDEX and VALUE (R256, R344). -/
def cfgEntries (bs : List Byte) (off n : Nat) : List (Nat × W) :=
  (List.range n).map (fun j => (field bs (off + 16 * j) 2, field64 bs (off + 16 * j + 8)))
def cfgEntriesOk (bs : List Byte) (off n : Nat) : Bool :=
  (List.range n).all (fun j => allZero (slice bs (off + 16 * j + 2) 6) && cfgRw (field bs (off + 16 * j) 2))

/-- Why a packet cannot run (R342), by its status. -/
def stBad : Nat := 2
def stWaves : Nat := 3
def stFault : Nat := 4

/-- A read by the front end in a packet's context: a fault completes the packet with status 4. -/
def feRead (s : State) (ctx : BitVec 12) (va : W) (n : Nat) : Except Nat (List Byte) :=
  match readVA s ctx va n with
  | .error _ => .error stFault
  | .ok bs => .ok bs

/-- The M-configuration record at MCFGVA, none for 0 (R256). -/
def readMcfg (s : State) (ctx : BitVec 12) (va : W) : Except Nat (List (Nat × W)) :=
  if va = 0 then .ok [] else
  match feRead s ctx va 8 with
  | .error e => .error e
  | .ok h =>
    let n := field h 0 4
    if n > 256 ∨ field h 4 4 ≠ 0 then .error stBad else
    match feRead s ctx (va + 8) (16 * n) with
    | .error e => .error e
    | .ok bs => if cfgEntriesOk bs 0 n then .ok (cfgEntries bs 0 n) else .error stBad

/-- Waves of a superstep in a partition of `pd` dies (R32). -/
def Kernel.waves (k : Kernel) (pd : Nat) : Nat := ceilDiv k.dn pd * ceilDiv k.cn 16

/-- READING AND CHECKING A KERNEL OBJECT (R26-R28, R256): the kernel, or the status of R342; of several checks that fail the wave check
comes last (log 102). -/
def readKernel (s : State) (ctx : BitVec 12) (va : W) (pd : Nat) : Except Nat Kernel :=
  match feRead s ctx va 256 with
  | .error e => .error e
  | .ok bs =>
    if !kernelOk bs then .error stBad else
    match readMcfg s ctx (field64 bs 0x38) with
    | .error e => .error e
    | .ok m =>
      let k := { kernelOf bs with mcfg := m }
      if k.cohort && decide (1 < k.waves pd) then .error stWaves else .ok k

/-! ### Operator records (R344) -/

def opRecOf (bs : List Byte) : OpRec := {
  strm := BitVec.ofNat 4 (field bs 2 1), khead := (List.range 4).map (fun j => BitVec.ofNat 23 (field bs (8 + 4 * j) 4)),
  argva := field64 bs 0x18, cfg := cfgEntries bs 0x20 (field bs 0 2) }

def opRecOk (bs : List Byte) : Bool :=
  decide (field bs 0 2 ≤ 14) && decide (field bs 2 1 < 16) && allZero (slice bs 3 5)
    && (List.range 4).all (fun j => decide (field bs (8 + 4 * j) 4 < 2 ^ 23)) && cfgEntriesOk bs 0x20 (field bs 0 2)

/-- Record `n` of a chain at RECVA. -/
def readOpRec (s : State) (ctx : BitVec 12) (recva : W) (n : Nat) : Except Nat OpRec :=
  match feRead s ctx (recva + BitVec.ofNat 64 (256 * n)) 256 with
  | .error e => .error e
  | .ok bs => if opRecOk bs then .ok (opRecOf bs) else .error stBad

/-! ### Cells and their placement (R31, R32) -/

/-- Indices of the levels, highest-numbered first, from the superstep's, the C and the D numbers: the highest varies fastest. -/
def splitIdx : List (Nat × Nat) → Nat → Nat → Nat → List Nat
  | [], _, _, _ => []
  | (kind, n) :: r, t, c, d =>
    if kind = 1 then (t % n) :: splitIdx r (t / n) c d
    else if kind = 2 then (c % n) :: splitIdx r t (c / n) d
    else if kind = 3 then (d % n) :: splitIdx r t c (d / n)
    else 0 :: splitIdx r t c d

/-- Indices of levels 0 to 5 (R34). -/
def Kernel.indices (k : Kernel) (sstep cc dd : Nat) : List Nat := (splitIdx k.levels.reverse sstep cc dd).reverse

/-- Cell linear index, over all C and D levels (R32). -/
def Kernel.linear (k : Kernel) (idx : List Nat) : Nat :=
  (k.levels.zip idx).foldl (fun acc p => if p.1.1 = 2 ∨ p.1.1 = 3 then acc * p.1.2 + p.2 else acc) 0

/-- cc and dd of the cell that a core runs in a wave (R32). -/
def cellAt (cn pd pdie pos wave : Nat) : Nat × Nat :=
  let w := ceilDiv cn 16
  (wave % w * 16 + pos, wave / w * pd + pdie)

/-- Partition die and position of a core of a partition (R8, R32). -/
def placeOf (dies : List Nat) (c : Fin 128) : Option (Nat × Nat) :=
  let i := dies.idxOf (c.val / 16)
  if i < dies.length then some (i, c.val % 16) else none

/-- The cells of one core in wave order, each with its wave and cell linear index. -/
def Kernel.coreCells (k : Kernel) (sstep : Nat) (pd pdie pos : Nat) : List (Nat × Nat) :=
  (List.range (k.waves pd)).filterMap (fun w =>
    let p := cellAt k.cn pd pdie pos w
    if p.1 < k.cn ∧ p.2 < k.dn then some (w, k.linear (k.indices sstep p.1 p.2)) else none)

/-- The cores of a superstep with the cells each is to run. -/
def Kernel.plan (k : Kernel) (dies : List Nat) (sstep : Nat) : List CorePlan :=
  (List.finRange 128).filterMap (fun c =>
    match placeOf dies c with
    | none => none
    | some (pdie, pos) =>
      let ws := k.coreCells sstep dies.length pdie pos
      if ws.isEmpty then none else some { core := c, waves := ws })

/-- Position of a core in its partition, which places its area (R332). -/
def areaIndex (dies : List Nat) (c : Fin 128) : Nat := ((placeOf dies c).map (fun p => 16 * p.1 + p.2)).getD 0

/-! ### Runnable queues and passes (R346, R347) -/

def allQueues : List (BitVec 10) := (List.range 1024).map (BitVec.ofNat 10)

/-- The queue has a superstep to start or to resume in a partition. -/
def Queue.ready (x : Queue) (p : Nat) : Bool := x.state == .active && x.part.toNat == p && x.work.isSome

/-- Between a completed LAUNCH or OPCHAIN and a next packet that had been published by then: it keeps its PASS (R346). -/
def Queue.between (x : Queue) : Bool :=
  match x.keep with
  | some lim => decide (x.read < lim) || x.pkt.isSome
  | none => false
def Queue.runnable (x : Queue) (p : Nat) : Bool :=
  x.ready p || (x.state == .active && x.part.toNat == p && x.between)

/-- The queue whose superstep is running counts as runnable (R346). -/
def isRunnable (s : State) (p : Nat) (r : BitVec 10) : Bool :=
  (s.queue r).runnable p || (s.part p).run.map (·.1) == some r

/-- Least PASS of the other runnable queues of the partition. -/
def minPass (s : State) (p : Nat) (q : BitVec 10) : Option W :=
  (allQueues.filter (fun r => r != q && isRunnable s p r)).foldl (fun acc r =>
    match acc with
    | none => some (s.queue r).pass
    | some m => if (s.queue r).pass < m then some (s.queue r).pass else some m) none

/-- A queue becomes runnable, or joins at BIND (R336, R346). -/
def State.joinPass (s : State) (q : BitVec 10) : State :=
  let x := s.queue q
  match minPass s x.part.toNat q with
  | some m => s.setQueue q { x with pass := m }
  | none => s

/-- stride(q) (R346). -/
def strideOf (tickets : BitVec 16) : Nat := 2 ^ 20 / tickets.toNat

/-- The charge after a superstep has run `t` ns. -/
def passCharge (x : Queue) (t : Nat) : W := BitVec.ofNat 64 (strideOf x.tickets * max 1 (ceilDiv t 1000))

/-- No superstep runs any more; the time that an urgent one ran is noted (R347). -/
def Part.stopRun (part : Part) (now : Nat) : Part :=
  let ran := match part.run with
    | some (_, ss) => part.urgentRun && ss.started
    | none => false
  { part with
    run := none, urgentRun := false, returned := false,
    urgent := if ran then part.urgent ++ [(part.since, now)] else part.urgent }

/-- A superstep stops, by ending or by pre-emption: its queue pays, and urgent time is noted (R346, R347). -/
def State.charge (s : State) (p : Nat) (q : BitVec 10) : State :=
  let part := s.part p
  let x := s.queue q
  let s1 := s.setQueue q { x with pass := x.pass + passCharge x (s.now - part.chargeFrom) }
  s1.setPart p (part.stopRun s.now)

/-! ### Completing a packet (R341, R342) -/

/-- Everything the cores of some dies have written becomes performed at SYSTEM scope: the release of a signal, over the dies that its
queue's packets have run on (R341). -/
def State.releaseCores (s : State) (dies : List Nat) : State :=
  let mine (w : PWrite) : Bool := decide (w.core < 128) && dies.contains (w.core / 16)
  let ids := ((s.hbm.pend ++ s.host.pend ++ s.cores.toList.flatMap (fun k => k.well.pend)).filter mine).map (·.id)
  s.perform ids.dedup globalAll

/-- Bytes at a target at the end of the coherence order, as an indivisible read-modify-write reads them. -/
def latestTarget (s : State) (t : Target) (n : Nat) : List Byte :=
  match t with
  | .hbm pa pte => hbmPlain s (Pte.key pte) s.hbm.latest pa n
  | .host pa _ => s.host.latestBytes pa n
  | t => readTarget s 128 t n

/-- Before a read-modify-write of the front end or a peer, the pending writes to its bytes are performed, with what they carry
(R300, R306, R313). -/
def State.flushTarget (s : State) (t : Target) (n : Nat) : State :=
  match targetSpace t with
  | some (sp, a) => s.perform (((s.vmem sp).pend.filter (fun w => w.touches sp a n)).map (·.id)) globalAll
  | none => s

/-- The signal of a packet: SIGV written at SIGVA, or added to it; a fault drops it (R341, R342). The page is that of the first byte
(log 101). -/
def State.signalWrite (s : State) (ctx : BitVec 12) (va v : W) (add : Bool) : State :=
  match translate s ctx va (if add then .rmw else .write) with
  | .error _ => s
  | .ok t =>
    if (targetError s va t).isSome then s else
    match t, add with
    | .peer pkg _ a _, true => { s with sent := s.sent ++ [(pkg, a, .atom 0 true v 0)] }
    | t, true =>
      if targetEcc s t 8 then s else
      let s1 := s.flushTarget t 8
      s1.writeTarget t (leBytes 8 ((leNat (latestTarget s1 t 8) + v.toNat) % 2 ^ 64))
    | t, false => s.writeTarget t (leBytes 8 v.toNat)

/-- STATVA receives a status; a fault drops it (R342). The page is that of the first byte (log 101). -/
def State.statusWrite (s : State) (ctx : BitVec 12) (va : W) (status : Nat) : State :=
  if va = 0 then s else
  match translate s ctx va .write with
  | .error _ => s
  | .ok t => if (targetError s va t).isNone then s.writeTarget t (leBytes 8 status) else s

/-- EVT[3] and FAULTED at the completion of a packet whose READ could not be written (R370). -/
def State.lateFault (s : State) (q : BitVec 10) : State :=
  let x := s.queue q
  if x.idxFault then (s.setQueue q { x with state := .faulted, idxFault := false }).setEvt q 8 else s

/-- COMPLETING A PACKET (R341, R342): status, signal, interrupt, in this order; a malformed one sets EVT[2] before. -/
def State.completePacket (s : State) (q : BitVec 10) (status : Nat) : State :=
  let x := s.queue q
  match x.pkt with
  | none => s
  | some p =>
    let s1 := s.statusWrite x.ctxId p.statva status
    let s2 := if p.sigva = 0 then s1
      else (s1.releaseCores (x.ran ++ (s.part x.part.toNat).dies)).signalWrite x.ctxId p.sigva p.sigv (p.flags.getLsbD 1)
    let s3 := if p.flags.getLsbD 0 then s2.raise x.vec.toNat else s2
    let y := s3.queue q
    let launch := p.typ == 1 || p.typ == 2
    (s3.setQueue q { y with
      pkt := none, work := none, checked := false,
      keep := if launch && x.work.isSome then some y.pub else y.keep }).lateFault q

end Machine
end Sys2Proof
end

