-- ==== Sys2Proof/Machine/Operands.lean ====
section
/-! DEFINITION. Operand forms of V and M: vector registers, taps, groups and masks (R203-R208), elements by type (R204), and
how a V result is issued and lands (R209-R216). -/

namespace Sys2Proof
namespace Machine

/-! ### Elements (R203, R204) -/

/-- Element `i` of width `w` of a register. -/
def elemAt (v : VReg) (w i : Nat) : Nat := (v.extractLsb' (i * w) w).toNat

/-- A register from its elements, element 0 lowest. -/
def packEls (w : Nat) (xs : List Nat) : VReg := BitVec.ofNat 4096 (xs.foldr (fun x acc => x % 2 ^ w + 2 ^ w * acc) 0)

/-- The floating format of a type code 8 to 15 (R204). -/
def typeFmt (t : BitVec 4) : Fmt :=
  match t.toNat with
  | 8 => .bf16 | 9 => .f16 | 10 => .f32 | 11 => .f64 | 12 => .kt8 | 13 => .e4m3 | 14 => .e5m2 | _ => .e2m1

/-- Is an integer type signed (R204)? -/
def typeSigned (t : BitVec 4) : Bool := [0, 2, 4, 6, 7].contains t.toNat

/-- The value of an integer element. -/
def intOf (t : BitVec 4) (x : Nat) : Int := if typeSigned t then signed (typeWidth t) x else (x : Int)

/-- The 64-bit form of an integer element: sign- or zero-extended. -/
def extend64 (t : BitVec 4) (x : Nat) : W := BitVec.ofInt 64 (intOf t x)

/-- A subnormal FP32, BF16 or FP16 source becomes a zero of its sign under DAZ (R90). -/
def flush (daz : Bool) (t : BitVec 4) (x : Nat) : Nat :=
  if daz && (t == 8 || t == 9 || t == 10) then
    let f := typeFmt t
    let p := f.prec
    if (x / 2 ^ p) % 2 ^ (f.width - 1 - p) = 0 then x / 2 ^ (f.width - 1) * 2 ^ (f.width - 1) else x
  else x

/-! ### Vector registers and taps (R105, R203, R212) -/

/-- URS offset of a vector register (R203). -/
def Core.vOff (k : Core) (r : Nat) : Nat := k.viewv + 512 * r

/-- A vector source: a register as path V reads it, or a bypass tap. -/
def Core.vreg (k : Core) (r : Reg) : VReg :=
  if r.toNat < 60 then BitVec.ofNat 4096 (leNat (k.ursBytes (pathOf .v) (k.vOff r.toNat) 512))
  else if r = 60 then k.vp.bp0 else if r = 61 then k.vp.bp1 else k.vp.bp2

/-- Element `i` of a group of `g` registers (R205). -/
def Core.groupEl (k : Core) (r : Reg) (g w i : Nat) : Nat :=
  elemAt (k.vreg (r + BitVec.ofNat 6 (i % g))) w (i / g)

/-- The MSK mask: which lanes are active, and Z (R207). -/
def Core.active (k : Core) (i : Issue) (j : Nat) : Bool :=
  match i.mask with
  | none => true
  | some (m, inv, _) => (k.vreg m).getLsbD j != inv
def Issue.zeroing (i : Issue) : Bool :=
  match i.mask with
  | none => false
  | some (_, _, z) => z

/-- The cross-lane read (R208): the highest active lane at or below `j`. -/
def crossLane (tab : Nat → Nat) (size cnt : Nat) (act : Nat → Bool) (id : Nat) : Nat → Nat
  | 0 => if 0 < size && act 0 then tab 0 else id
  | j + 1 => if size ≤ j + 1 then id else if act ((j + 1) % cnt) then tab (j + 1)
    else crossLane tab size cnt act id j

/-! ### Results -/

/-- One register of a result: values of the lanes, and the bits it writes (R207). -/
def lanePart (w cnt : Nat) (act : Nat → Bool) (z : Bool) (f : Nat → Nat) : VReg × VReg :=
  (packEls w ((List.range cnt).map (fun i => if act i then f i else 0)),
   packEls w ((List.range cnt).map (fun i => if act i || z then 2 ^ w - 1 else 0)))

/-- A whole register. -/
def wholePart (v : VReg) : VReg × VReg := (v, BitVec.allOnes 4096)

/-- Latch numbers, which are the classes of R210 (R216). -/
def clsAlu : Nat := 0
def clsMul : Nat := 1
def clsFma : Nat := 2
def clsBit : Nat := 3
def clsSfu : Nat := 4
def clsCvt : Nat := 5
def clsLoad : Nat := 6
def clsRed : Nat := 7
/-- Landing latency of a class (R210). -/
def clsLatency (c : Nat) : Nat := [2, 4, 5, 3, 8, 4, 6, 6].getD c 2

/-- Where a vector result goes: its register, the bypass, or in latch mode its class's latch. Lanes of a latched result that
the mask leaves out are zero with a transient destination (R207, R232), and otherwise free (R212, R216). -/
def vectorDest (k : Core) (tick cls : Nat) (d : Reg) (parts : List (VReg × VReg)) : VDest :=
  if k.csr.latchMode then
    .latch cls (parts.zipIdx.map (fun p =>
      if d = 63 then p.1.1 &&& p.1.2 else (p.1.1 &&& p.1.2) ||| (Config.latchLane tick p.2 &&& ~~~p.1.2)))
  else if d = 63 then .transient (parts.map (fun p => p.1 &&& p.2))
  else .vec d.toNat parts

/-- Where a 64-bit scalar result goes. -/
def scalarDest (k : Core) (cls : Nat) (d : Reg) (x : W) : VDest :=
  if k.csr.latchMode then .latch cls [x.setWidth 4096] else .scalar d x

/-- The first register of a list of sources that carries an uncorrectable error, as an offset of the URS (R328). -/
def vPoison (s : State) (rs : List Reg) : Option Nat :=
  ((rs.filter (fun r => decide (r.toNat < 60))).map (fun r => s.core.vOff r.toNat)).find?
    (fun o => s.poisoned (.urs s.turn.core) o 512)

/-- A V instruction issues: its result flies, and an error among its sources is taken at the next issue boundary. -/
def vIssue (s : State) (srcs : List Reg) (cls : Nat) (dest : Core → VDest) (fl : Flags) (f : Core → Core) :
    Host.Outcome State Fault Refusal :=
  let srcs := srcs ++ (match s.issue.mask with | some (m, _, _) => [m] | none => [])
  onCore s (fun k =>
    let k1 := ((f k).fly (clsLatency cls) (dest k) fl s.issue).modCtx .v (fun x => x.past s.issue)
    match vPoison s srcs with
    | some o => { k1 with lateV := some (BitVec.ofNat 64 (2 ^ 62 + o), tlineOf (k.ctx .v) .v s.issue.lane) }
    | none => k1)

/-- A vector result, and a scalar one. -/
def vResult (s : State) (srcs : List Reg) (cls : Nat) (d : Reg) (parts : List (VReg × VReg)) (fl : Flags)
    (f : Core → Core := id) : Host.Outcome State Fault Refusal :=
  vIssue s srcs cls (fun k => vectorDest k s.tick cls d parts) fl f
/-- A write to s0 is discarded, flags included (R125; DEDUCED for V's own reductions, log 10). -/
def scalarFlags (k : Core) (d : Reg) (fl : Flags) : Flags := if d = 0 && !k.csr.latchMode then 0 else fl
def vScalar (s : State) (srcs : List Reg) (cls : Nat) (d : Reg) (x : W) (fl : Flags) : Host.Outcome State Fault Refusal :=
  vIssue s srcs cls (fun k => scalarDest k cls d x) (scalarFlags s.core d fl) id

/-! ### Landing (R211, R212, R214, R216) -/

/-- Bytes of a register that a result writes, with the old bits kept where it writes none (R207). -/
def mergeCells (a : Nat) (v m : VReg) : List (Nat × Byte) :=
  ((List.range 512).filter (fun i => elemAt m 8 i != 0)).map (fun i => ((a + i) % ursSize, BitVec.ofNat 8 (elemAt v 8 i)))

/-- An entry enters the bypass. -/
def VPipe.enter (p : VPipe) (v : VReg) : VPipe := { p with bp0 := v, bp1 := p.bp0, bp2 := p.bp1 }

/-- One register of a landing result. -/
def Core.landReg (k : Core) (id r : Nat) (p : VReg × VReg) : Core :=
  let old := BitVec.ofNat 4096 (leNat (k.ursBytes (pathOf .v) (k.vOff r) 512))
  let new := (old &&& ~~~p.2) ||| (p.1 &&& p.2)
  { k with
    urs := k.urs.pathWrite (pathOf .v) id (mergeCells (k.vOff r) new p.2),
    vp := k.vp.enter new }

def Core.landRegs (k : Core) (id : Nat) : Nat → List (VReg × VReg) → Core
  | _, [] => k
  | r, p :: ps => Core.landRegs (k.landReg (id + idReg * r) r p) id (r + 1) ps

/-- A result lands: destination, flags (a latched result sets its flags when VMVL reads it), and its token pushes. -/
def Core.land (k : Core) (id : Nat) (f : Flight) : Core :=
  let k1 := match f.dest with
    | .vec d parts => k.landRegs id d parts
    | .transient parts => { k with vp := parts.foldl VPipe.enter k.vp }
    | .scalar r x => k.setS .v r x
    | .latch c parts => { k with vp := { k.vp with latches := vset k.vp.latches c { parts := parts, flags := f.flags } } }
    | .pattern p bits => { k with vp := { k.vp with patterns := vset k.vp.patterns p bits } }
    | .none => k
  let k2 := match f.dest with
    | .latch .. => k1
    | _ => { k1 with csr := { k1.csr with vflg := k1.csr.vflg ||| f.flags } }
  k2.duePush .v (0, 0) f.pushes

/-- A slot begins: what is due lands in issue order, and every other result comes one slot nearer (R211). -/
def Core.beginSlot (k : Core) (id : Nat) : Core :=
  let due := k.vp.flights.filter (fun f => f.rem == 0)
  let rest := (k.vp.flights.filter (fun f => f.rem != 0)).map (fun f => { f with rem := f.rem - 1 })
  (due.zip (List.range due.length)).foldl (fun k f => k.land (id + idFlight * f.2) f.1)
    { k with vp := { k.vp with flights := rest, busy := false } }

/-- V_RESULT_LANDING (R209, R211, R213): a busy or a drain slot passes, and what is due in it lands. -/
def execVResultLanding (s : State) : Host.Outcome State Fault Refusal :=
  onCore s (fun k => k.beginSlot s.nextId)

end Machine
end Sys2Proof
end

