-- ==== Sys2Proof/Machine/Save.lean ====
section
/-! DEFINITION. The context-save engine: saving and restoring the cores of a superstep, parking a kernel between two
supersteps, and loading a text (R29, R57, R264, R332, R333, R368). -/

namespace Sys2Proof
namespace Machine

/-! ### The text (R29) -/

/-- A byte string as a memory from an address, in canonical form. -/
def memOf (base : Nat) (bs : List Byte) : Memory :=
  ((List.range bs.length).zip bs).filterMap (fun p => if p.2 = 0 then none else some (base + p.1, p.2))

/-- The resident text is the kernel's. -/
def Core.textFits (k : Core) (kern : Kernel) (ctx : BitVec 12) : Bool :=
  k.textOk && k.textId == kern.textid && k.textCtx == ctx
def Core.loadText (k : Core) (kern : Kernel) (ctx : BitVec 12) (bs : List Byte) : Core :=
  if k.textFits kern ctx then k
  else { k with istore := memOf 0 bs, textId := kern.textid, textCtx := ctx, textOk := true, textLines := kern.textlen }

/-- The lines of the kernel's text, read only when some core of the list must load it. -/
def readText (s : State) (kern : Kernel) (ctx : BitVec 12) (cores : List (Fin 128)) : Except (Nat × Nat × W) (List Byte) :=
  if cores.all (fun c => (s.coreAt c).textFits kern ctx) then .ok [] else readVA s ctx kern.textva (32 * kern.textlen)

/-! ### Areas (R332) -/

/-- VA of the area of a core. -/
def areaVA (saveva : W) (j : Nat) : W := saveva + BitVec.ofNat 64 (0x10000 + 0xA00000 * j)

def engineLen : Nat := 262144 - 64
def fitLen (n : Nat) (bs : List Byte) : List Byte := (bs ++ List.replicate n 0).take n

/-- The engine-state region that this step's save of a core writes; its layout is the device's. -/
def engineBytes (s : State) (c : Fin 128) : List Byte := fitLen engineLen (Config.engineImage (128 * s.tick + c.val))
/-- The team block with its digest. -/
def teamBytes (s : State) : List Byte :=
  let b := fitLen (65536 - 32) (Config.teamImage s.tick)
  b ++ sha256 b

/-- The 512-byte URS block `b` is saved (R264): in the vector or tile view, in a valid a-register, or in no view. -/
def ursSaved (k : Core) (b : Nat) : Bool :=
  let a := 512 * b
  let inView (v n : Nat) : Bool := decide (v ≤ a) && decide (a < v + n)
  inView k.viewv 30720 || inView k.viewt 98304
    || (if inView k.viewa 131072 then k.mx.valid.getLsbD ((a - k.viewa) / 16384) else true)
def ursBlocks (k : Core) : List Nat := (List.range 512).filter (ursSaved k)

/-- Banks in use: bound in a handle set of the core, or resolved by a command that owns bands of them. -/
def usedBanks (k : Core) : List Nat :=
  ((List.finRange 64).filter (fun b => k.bankOwned b || k.cist.sets.any (fun t => t.binds.toList.contains (some b)))).map (·.val)

/-- The header of a core area. -/
def areaHeader (c : Fin 128) (k : Core) (banks : List Nat) (wlim : Nat) (ctx : BitVec 12) (digest : List Byte) : List Byte :=
  leBytes 4 0x53564131 ++ leBytes 2 1 ++ leBytes 1 c.val ++ leBytes 1 k.mx.valid.toNat
    ++ leBytes 8 (banks.foldl (fun m b => m ||| 2 ^ b) 0) ++ leBytes 4 wlim ++ leBytes 2 ctx.toNat ++ leBytes 10 0 ++ digest

/-! ### Saving -/

/-- A fault of a save or a restore: cause, level, address, and the core, 0xFF for the team block. -/
structure SaveFault where
  cause : Nat
  level : Nat
  va : W
  core : Nat
  acc : Nat

/-- Writes at offsets from a base until one faults. -/
def writeParts (s : State) (ctx : BitVec 12) (base : W) (core : Nat) : List (Nat × List Byte) → State × Option SaveFault
  | [] => (s, none)
  | p :: r =>
    match writeVA s ctx (base + BitVec.ofNat 64 p.1) p.2 with
    | .error (c, l, a) => (s, some { cause := c, level := l, va := a, core := core, acc := 1 })
    | .ok s1 => writeParts s1 ctx base core r

/-- What a save of a core writes in its area: header, engine state, URS, banks, well. A window write that has not arrived is
in no image (R20). -/
def areaParts (s : State) (c : Fin 128) (k : Core) (banks : List Nat) (wlim : Nat) (ctx : BitVec 12) : List (Nat × List Byte) :=
  let img := engineBytes s c
  [(0, areaHeader c k banks wlim ctx (sha256 img)), (0x40, img)]
    ++ (ursBlocks k).map (fun b => (0x40000 + 512 * b, k.urs.bankBytes (512 * b) 512))
    ++ banks.map (fun b => (0x80000 + 16384 * b, k.cist.data.bankBytes (16384 * b) 16384))
    ++ [(0x180000, k.well.bankBytes 0 wlim)]

/-- The cores of a list saved one after another; the first fault ends it. -/
def saveCores (s : State) (x : Queue) (dies : List Nat) (wlim : Nat) : List (Fin 128 × CoreImage) → State × Option SaveFault
  | [] => (s, none)
  | (c, im) :: r =>
    match writeParts s x.ctxId (areaVA x.saveva (areaIndex dies c)) c.val (areaParts s c im.core im.banks wlim x.ctxId) with
    | (s1, some f) => (s1, some f)
    | (s1, none) => saveCores s1 x dies wlim r

/-- The fault record of a save, park, restore or return (R325, R333). Fields that R325 gives only for a pump fault or a halt are 0
(log 28). -/
def State.saveRecord (s : State) (ctx : BitVec 12) (f : SaveFault) : State :=
  s.postRecord (recordBytes 3 f.cause ctx f.core 0 f.level f.acc f.va 0 0 0 0 0 0 0)

/-- A stream stops for pre-emption (R192, R195, R199): a walk, and a read made ahead, are made again later; a PREF is dropped. -/
def Stream.stop (t : Stream) : Stream :=
  let t1 := { t with walk := none, early := [] }
  match t.cmd with
  | some cmd => match cmd.entry with
    | .pref _ _ len => { t1 with cmd := some { cmd with srcOff := len.toNat } }
    | _ => t1
  | none => t1

/-- The engines stop at an issue boundary and the streams at an element boundary (R75, R199): a stalled instruction, and a
MALIAS in progress, are issued again after the restore (R135, R157, R280). -/
def Core.stop (k : Core) : Core :=
  let k1 := k.abandon
  { k1 with
    ec := k1.ec.unstall, ea := k1.ea.unstall, ev := k1.ev.unstall, em := k1.em.unstall, waiters := [],
    streams := k1.streams.map Stream.stop }

/-- What leaves a core with its cell and its kernel's streams: it holds no cell, no bank and no chain. -/
def Core.leave (k : Core) : Core :=
  { k with
    cell := none, kern := none, handler := none, halted := none, waiters := [], stall := 0, lateV := none, lateM := none,
    heldOvf := false, heldUnb := false, tok := Vector.replicate 16 0, vals := Vector.replicate 16 [], ref := {},
    streams := Vector.replicate 4 {}, cist := { data := k.cist.data },
    vp := { k.vp with flights := [], busy := false, chain := none }, mx := { k.mx with held := none, run := .idle } }

def State.leaveCores (s : State) (cores : List (Fin 128)) : State :=
  cores.foldl (fun s c => s.setCoreAt c (s.coreAt c).leave) s

/-- The cores of a partition. -/
def partCores (dies : List Nat) : List (Fin 128) := (List.finRange 128).filter (fun c => (placeOf dies c).isSome)

/-- The engines are brought to an issue boundary: a SEMW that has subtracted its n completes, and a busy slot of V passes (R75, R157,
R209). -/
def Core.endSlot (k : Core) (id : Nat) : Core := if k.endGrants.vp.busy then k.endGrants.beginSlot id else k.endGrants

/-- The cores of a list brought to an issue boundary. -/
def State.endSlots (s : State) (cores : List (Fin 128)) : State :=
  { cores.foldl (fun s c => s.setCoreAt c ((s.coreAt c).endSlot (s.nextId + idStep * c.val))) s with
    nextId := s.nextId + 128 * idStep }

/-- PRE-EMPTION of the running superstep (R192, R195, R199, R332, R333). -/
def State.preempt (s : State) (p : Nat) (q : BitVec 10) (ss : SStep) (w : Work) : State :=
  let dies := (s.part p).dies
  let x := s.queue q
  let cores := ss.plan.map (·.core)
  let s1 := s.drainAtomics.endSlots cores
  let s2 := cores.foldl (fun s c => (s.setCoreAt c (s.coreAt c).stop).landOwn c) s1
  let images := cores.map (fun c =>
    (c, ({ core := s2.coreAt c, filling := s2.filling c, banks := usedBanks (s2.coreAt c) } : CoreImage)))
  let r1 := saveCores s2 x dies w.kern.wlim images
  let r2 := match r1 with
    | (s3, some f) => (s3, some f)
    | (s3, none) => writeParts s3 x.ctxId x.saveva 0xFF [(0, teamBytes s3)]
  let s3 := match r2.2 with
    | some f => r2.1.saveRecord x.ctxId f
    | none => r2.1
  let s4 := (s3.leaveCores cores).charge p q
  let s5 := s4.setPart p { s4.part p with resident := none }
  s5.setQueue q { s5.queue q with work := some { w with saved := some (ss, images), saveOk := r2.2.isNone } }

/-- PARKING the kernel whose state is on the cores of the partition, between two of its supersteps (R368). -/
def State.park (s : State) (p : Nat) (q : BitVec 10) (w : Work) : State :=
  let dies := (s.part p).dies
  let x := s.queue q
  let cores := partCores dies
  let s0 := cores.foldl (fun s c => s.landOwn c) s
  let images := cores.map (fun c => (c, ({ core := s0.coreAt c, filling := s0.filling c } : CoreImage)))
  let r := saveCores s0 x dies w.kern.wlim images
  let s1 := match r.2 with
    | some f => r.1.saveRecord x.ctxId f
    | none => r.1
  let s2 := s1.leaveCores cores
  let s3 := s2.setPart p { s2.part p with resident := none }
  s3.setQueue q { s3.queue q with work := some { w with parked := images, saveOk := r.2.isNone } }

/-! ### Restoring -/

/-- A read of a restore. -/
def restoreRead (s : State) (ctx : BitVec 12) (va : W) (n core : Nat) : Except SaveFault (List Byte) :=
  match readVA s ctx va n with
  | .error (c, l, a) => .error { cause := c, level := l, va := a, core := core, acc := 0 }
  | .ok bs => .ok bs

/-- A mismatch of a header or a digest. -/
def mismatch (core : Nat) : SaveFault := { cause := 0, level := 0xFF, va := 0, core := core, acc := 0 }

/-- Header and engine-state digest of a core's area (R332). -/
def checkArea (s : State) (x : Queue) (va : W) (c : Fin 128) (wlim : Nat) : Except SaveFault Unit := do
  let h ← restoreRead s x.ctxId va 64 c.val
  let e ← restoreRead s x.ctxId (va + 0x40) engineLen c.val
  if field h 6 1 = c.val ∧ field h 0x10 4 = wlim ∧ field h 0x14 2 = x.ctxId.toNat ∧ slice h 0x20 32 = sha256 e then .ok ()
  else .error (mismatch c.val)

/-- Blocks read one after another, each as a memory from its place. -/
def restoreBlocks (s : State) (ctx : BitVec 12) (va : W) (size core : Nat) : List Nat → Except SaveFault Memory
  | [] => .ok []
  | b :: r => do
    let bs ← restoreRead s ctx (va + BitVec.ofNat 64 (size * b)) size core
    let rest ← restoreBlocks s ctx va size core r
    .ok (memOf (size * b) bs ++ rest)

/-- The stores of a core read back from its area (R57, R264, R333): URS, banks into the same banks, well below WLIM. -/
def restoreStores (s : State) (x : Queue) (va : W) (c : Fin 128) (im : CoreImage) (wlim : Nat) :
    Except SaveFault (Memory × Memory × Memory) := do
  let u ← restoreBlocks s x.ctxId (va + 0x40000) 512 c.val (ursBlocks im.core)
  let b ← restoreBlocks s x.ctxId (va + 0x80000) 16384 c.val im.banks
  let w ← restoreRead s x.ctxId (va + 0x180000) wlim c.val
  .ok (u, b, memOf 0 w)

/-- A well read back (R57, R332): every byte below WLIM is what the area holds, and the rest is zero. Where that is what a stream had
written to a chunk which it was filling, V and M still see the byte before it, as they did when the core was saved (R223, R276;
log 21). -/
def CoreImage.refill (im : CoreImage) (v : VMem) (m : Memory) (wlim : Nat) : VMem :=
  let last (a : Nat) : Option Byte := im.filling.foldl (fun acc w => (List.lookup a w.cells).or acc) none
  let kept (x : Nat × Byte) : Bool := decide (x.1 < wlim) && last x.1 == some (m.get x.1)
  let ws := (im.filling.map (fun w => { w with cells := w.cells.filter kept })).filter (fun w => !w.cells.isEmpty)
  let old : VMem := { im.core.well with pend := im.core.well.pend.filter (fun w => !im.filling.contains w) }
  let cells := (ws.flatMap (·.cells)).map (fun x => (x.1, old.bank x.1))
  settle wellAll (m.putAll cells) (ws ++ v.pend.filter (fun w => w.seen == 0))

/-- A core with a saved superstep's state: everything of the image but the stores, the text and CYCLE (R149, R332). -/
def Core.restored (k : Core) (im : CoreImage) (ctx : BitVec 12) (m : Memory × Memory × Memory) (wlim : Nat) : Core :=
  { im.core with
    urs := ⟨m.1, []⟩, cist := { im.core.cist with data := ⟨m.2.1, []⟩ }, well := im.refill k.well m.2.2 wlim,
    istore := k.istore, textId := k.textId, textCtx := k.textCtx, textOk := k.textOk, textLines := k.textLines, lastCtx := some ctx, cycle := k.cycle }

/-- A core with a parked kernel's state (R368). Where the kernel has run no cell, the core's last kernel stays what it was (R30). -/
def Core.returned (k : Core) (im : CoreImage) (ctx : BitVec 12) (m : Memory × Memory × Memory) (wlim : Nat) : Core :=
  let o := im.core
  { k with
    urs := ⟨m.1, []⟩, well := im.refill k.well m.2.2 wlim, tiles := o.tiles, samp := o.samp, kern := o.kern,
    lastCtx := if o.kern.isSome then some ctx else k.lastCtx, heldOvf := o.heldOvf, heldUnb := o.heldUnb,
    vp := { k.vp with bp0 := o.vp.bp0, bp1 := o.vp.bp1, bp2 := o.vp.bp2, latches := o.vp.latches, patterns := o.vp.patterns },
    mx := { k.mx with active := o.mx.active, shadow := o.mx.shadow, pos := o.mx.pos, nstep := o.mx.nstep } }

/-- The cores of a list read back; nothing is resumed when one fails. -/
def restoreCores (s : State) (x : Queue) (dies : List Nat) (wlim : Nat) (f : Core → CoreImage → Memory × Memory × Memory → Core) :
    List (Fin 128 × CoreImage) → Except SaveFault State
  | [] => .ok s
  | (c, im) :: r =>
    match checkArea s x (areaVA x.saveva (areaIndex dies c)) c wlim with
    | .error e => .error e
    | .ok _ =>
      match restoreStores s x (areaVA x.saveva (areaIndex dies c)) c im wlim with
      | .error e => .error e
      | .ok m => restoreCores (s.setCoreAt c (f (s.coreAt c) im m)) x dies wlim f r

/-- The text reloaded on the cores that no longer hold it (R29, R332). A fault of the one read that serves them all names the first
of them as its CORE (log 28). -/
def reloadText (s : State) (w : Work) (ctx : BitVec 12) (cores : List (Fin 128)) : Except SaveFault State :=
  match readText s w.kern ctx cores with
  | .error (c, l, a) => .error { cause := c, level := l, va := a, core := (cores.map (·.val)).headD 0, acc := 0 }
  | .ok bs => .ok (cores.foldl (fun s c => s.setCoreAt c ((s.coreAt c).loadText w.kern ctx bs)) s)

/-- The team block's digest (R332). -/
def checkTeam (s : State) (x : Queue) : Except SaveFault Unit := do
  let b ← restoreRead s x.ctxId x.saveva 65536 0xFF
  if b.drop (65536 - 32) = sha256 (b.take (65536 - 32)) then .ok () else .error (mismatch 0xFF)

/-- RESTORING a saved superstep, or returning a parked kernel, onto the same cores (R21, R332, R333, R368). -/
def restoreWork (s : State) (x : Queue) (w : Work) (dies : List Nat) : Except SaveFault State :=
  if !w.saveOk then .error (mismatch (match w.saved with
    | some _ => 0xFF
    | none => ((w.parked.map (fun i => i.1.val)).headD 0)))
  else match w.saved with
  | some (_, images) =>
    match checkTeam s x with
    | .error e => .error e
    | .ok _ =>
      match reloadText s w x.ctxId (images.map (·.1)) with
      | .error e => .error e
      | .ok s1 => restoreCores s1 x dies w.kern.wlim (fun k im m => k.restored im x.ctxId m w.kern.wlim) images
  | none =>
    match reloadText s w x.ctxId (w.parked.map (·.1)) with
    | .error e => .error e
    | .ok s1 => restoreCores s1 x dies w.kern.wlim (fun k im m => k.returned im x.ctxId m w.kern.wlim) w.parked

/-- A failed restore: a record of TYPE 3, and the queue HALTED with EVT[1]; what was saved stays saved (R332, R333, R343). -/
def State.restoreFailed (s : State) (q : BitVec 10) (f : SaveFault) : State :=
  let s1 := s.saveRecord (s.queue q).ctxId f
  (s1.setQueue q { s1.queue q with state := .halted }).setEvt q 2

end Machine
end Sys2Proof
end

