-- ==== Sys2Proof/Machine/Sched.lean ====
section
/-! DEFINITION. The scheduler's choice, the start of a kernel and of its cells, the end of a superstep and the timeslice
(R30, R33, R34, R36, R345-R349). -/

namespace Sys2Proof
namespace Machine

/-- The partition that holds a core. -/
def partOf (s : State) (c : Fin 128) : Option Nat := (List.range 8).find? (fun p => (s.part p).dies.contains (c.val / 16))

/-! ### The choice (R346, R347) -/

/-- Urgent time in the trailing 20 ms, in ns. -/
def urgentTime (now : Nat) (xs : List (Nat × Nat)) : Nat :=
  xs.foldl (fun acc i => acc + (min i.2 now - max i.1 (now - 20000000))) 0

/-- The urgent cap is not reached. -/
def underCap (s : State) (p : Nat) : Bool :=
  decide (urgentTime s.now (s.part p).urgent * 256 < 20000000 * (s.part p).ucap)

/-- The queue of least PASS; ties go to the lower number. -/
def leastPass (s : State) (qs : List (BitVec 10)) : Option (BitVec 10) :=
  qs.foldl (fun acc q => match acc with
    | none => some q
    | some b => if (s.queue q).pass < (s.queue b).pass then some q else some b) none

def readyQueues (s : State) (p : Nat) : List (BitVec 10) := allQueues.filter (fun q => (s.queue q).ready p)

/-- The queue chosen (R346, R347). -/
def chosenQueue (s : State) (p : Nat) : Option (BitVec 10) :=
  let qs := readyQueues s p
  let urgent := qs.filter (fun q => (s.queue q).cls.getLsbD 0)
  leastPass s (if underCap s p && !urgent.isEmpty then urgent else qs)

/-- The chosen queue's superstep becomes the partition's (R346, R347): a resumed one runs from now, and the time of a return
counts toward its charge (R368). -/
def State.startRun (s : State) (p : Nat) (q : BitVec 10) (ss : SStep) (returned : Bool) : State :=
  let part := s.part p
  s.setPart p { part with
    run := some (q, ss), urgentRun := (s.queue q).cls.getLsbD 0, since := s.now, chargeFrom := s.now, sliceFrom := s.now,
    returned := returned, resident := some q }

/-- The first wave of the partition's superstep starts: its time runs from here (R33, R346, R347). -/
def Part.begin (part : Part) (q : BitVec 10) (ss : SStep) (now : Nat) : Part :=
  { part with
    run := some (q, ss), since := now, sliceFrom := now, chargeFrom := if part.returned then part.chargeFrom else now }

/-- SCHEDULER_CHOICE (R346, R347, R368): with nothing running, another queue's kernel still on the cores is parked, and the
chosen queue's superstep is restored, or its kernel returned, or the superstep made ready to start. -/
def execSchedulerChoice (p3 : BitVec 3) (s : State) : Host.Outcome State Fault Refusal :=
  let p := p3.toNat
  if (s.part p).run.isSome then .next s else
  match chosenQueue s p with
  | none => .next s
  | some q =>
    let s1 := match (s.part p).resident with
      | some r =>
        if r = q then s else (match (s.queue r).work with
          | some w => s.park p r w
          | none => s)
      | none => s
    let dies := (s1.part p).dies
    match (s1.queue q).work with
    | none => .next s1
    | some w =>
      let fresh : SStep := { index := w.sstep, plan := w.kern.plan dies w.sstep }
      match w.saved with
      | some (ss, _) =>
        (match restoreWork s1 (s1.queue q) w dies with
         | .error f => .next (s1.restoreFailed q f)
         | .ok s2 => .next ((s2.setQueue q { s2.queue q with work := some { w with saved := none } }).startRun p q ss false))
      | none =>
        if w.parked.isEmpty then .next (s1.startRun p q fresh false) else
        match restoreWork s1 (s1.queue q) w dies with
        | .error f => .next (s1.restoreFailed q f)
        | .ok s2 => .next ((s2.setQueue q { s2.queue q with work := some { w with parked := [] } }).startRun p q fresh true)

/-! ### Kernel start (R30, R345) -/

/-- A bank at its reset values with entries written in order (R256). -/
def cfgBank (b : Vector W 64) (cfg : List (Nat × W)) : Vector W 64 := cfg.foldl (fun b e => vset b e.1 e.2) b
def mcfgBank (k : Kernel) : Vector W 64 := cfgBank (Vector.replicate 64 0) k.mcfg

/-- The argument block written for every path of the core. -/
def Core.putArgs (k : Core) (kern : Kernel) (args : List Byte) : Core :=
  { k with well := k.well.store (cellsAt wellSize kern.argoff args) }

/-- A kernel starts on a core (R30, R215, R256). -/
def Core.startKernel (k : Core) (kern : Kernel) (ctx : BitVec 12) (text args : List Byte) : Core :=
  let k1 := k.loadText kern ctx text
  let k2 := match k1.lastCtx with
    | some c => if c = ctx then k1 else { k1 with well := settle wellAll [] (k1.well.pend.filter (fun w => w.seen == 0)), urs := {} }
    | none => k1
  let k3 := { k2 with
    urs := k2.urs.wipe kern.viewv (kern.viewv + 30720), tiles := Vector.replicate 256 {}, lastCtx := some ctx, kern := some kern,
    vp := { patterns := Vector.replicate 8 identityPattern }, samp := Vector.replicate 32 0,
    mx := { active := mcfgBank kern, shadow := mcfgBank kern }, heldOvf := false, heldUnb := false }
  k3.putArgs kern args

/-- The record of an operator: the shadow bank is set and the banks exchanged (R345). -/
def Core.exchange (k : Core) (kern : Kernel) (cfg : List (Nat × W)) : Core :=
  { k with mx := { k.mx with active := cfgBank (mcfgBank kern) cfg, shadow := k.mx.active } }

/-- The argument source of the current operator or launch. -/
def argSource (x : Queue) (w : Work) : W :=
  match x.pkt with
  | some pk => if pk.typ = 2 then w.oprec.argva else pk.f28
  | none => 0
def isOpchain (x : Queue) : Bool := match x.pkt with
  | some pk => pk.typ == 2
  | none => false

/-- Text and argument block as the kernel start needs them; nothing is done to any core before both are read. -/
def startData (s : State) (x : Queue) (w : Work) (cores : List (Fin 128)) : Except Nat (List Byte × List Byte) :=
  match readText s w.kern x.ctxId cores with
  | .error _ => .error stFault
  | .ok text =>
    let src := argSource x w
    if src = 0 then .ok (text, List.replicate w.kern.argsz 0)
    else match feRead s x.ctxId src w.kern.argsz with
      | .error e => .error e
      | .ok args => .ok (text, args)

/-- The kernel leaves the cores of its superstep; flags still held are discarded (R369). -/
def State.endKernel (s : State) (p : Nat) (cores : List (Fin 128)) : State :=
  let s1 := cores.foldl (fun s c => s.setCoreAt c { s.coreAt c with kern := none, heldOvf := false, heldUnb := false }) s
  s1.setPart p { (s1.part p).stopRun s1.now with resident := none }

/-! ### Cells (R33, R34) -/

/-- The 64 g-registers at cell start. -/
def cellRegs (kern : Kernel) (linear : Nat) (idx : List Nat) : Vector W 64 :=
  Vector.ofFn (fun i => if i.val = 56 then BitVec.ofNat 64 kern.argoff else if i.val = 57 then BitVec.ofNat 64 linear
    else if 58 ≤ i.val then BitVec.ofNat 64 (idx.getD (i.val - 58) 0) else 0)

/-- A cell starts on a core (R34, R149, R369); the streams and what R34 does not list keep their values. -/
def Core.startCell (k : Core) (kern : Kernel) (q : BitVec 10) (p : Fin 8) (ctx : BitVec 12) (wave linear sstep : Nat)
    (idx : List Nat) : Core :=
  let e : EngineCtx := { line := kern.entry }
  let cl : Cell := {
    id := k.nextCell, queue := q, part := p, ctx := ctx, linear := linear, wave := wave, sstep := sstep, idx := idx,
    kern := kern }
  { k with
    regs := { g := cellRegs kern linear idx },
    ec := e, ea := e, ev := e, em := e, tok := Vector.replicate 16 0, vals := Vector.replicate 16 [],
    csr := { xflg := if k.heldOvf then 4 else 0 }, cist := { k.cist with unb := k.heldUnb },
    heldOvf := false, heldUnb := false,
    mx := { k.mx with held := none, valid := 0, dirty := 0, run := .idle },
    vp := { k.vp with flights := [], busy := false, chain := none },
    ref := {}, handler := none, halted := none, waiters := [], stall := 0, lateV := none, lateM := none,
    kern := some kern, nextCell := k.nextCell + 1,
    cell := some cl }

/-- The chains that an operator record starts at every cell start (R345): as MVX would. -/
def Core.startChains (k : Core) (rec : OpRec) : Core :=
  (List.range 4).foldl (fun k j => if rec.strm.getLsbD j then k.acceptChain j (rec.khead.getD j 0) else k) k
/-- Every stream it starts can accept a chain. -/
def Core.chainRoom (k : Core) (rec : OpRec) : Bool :=
  (List.range 4).all (fun j => !rec.strm.getLsbD j || decide ((k.stream j).queued.length < 4))

def partFin (p : Nat) : Fin 8 := ⟨p % 8, Nat.mod_lt _ (by decide)⟩

/-- The next cell of a core's plan starts there. -/
def State.startCellOn (s : State) (p : Nat) (q : BitVec 10) (ss : SStep) (w : Work) (c : Fin 128) (wave linear : Nat) : State :=
  let dies := (s.part p).dies
  let x := s.queue q
  let pl := (placeOf dies c).getD (0, 0)
  let cd := cellAt w.kern.cn dies.length pl.1 pl.2 wave
  let k := (s.coreAt c).startCell w.kern q (partFin p) x.ctxId wave linear ss.index (w.kern.indices ss.index cd.1 cd.2)
  s.setCoreAt c (if isOpchain x then k.startChains w.oprec else k)

/-- The plan with the cells of the cores that satisfy `f` moved on by one. -/
def SStep.advance (ss : SStep) (f : Fin 128 → Bool) : SStep :=
  { ss with started := true, plan := ss.plan.map (fun e => if f e.core then { e with waves := e.waves.tail } else e) }

/-- The record of an operator on a core of the partition (R345): the banks exchanged, and the argument block written unless it
is left as it is. -/
def Core.operator (k : Core) (kern : Kernel) (rec : OpRec) (args : Option (List Byte)) : Core :=
  let k1 := k.exchange kern rec.cfg
  match args with
  | some bs => k1.putArgs kern bs
  | none => k1

/-- The first wave of a superstep: the kernel starts on the cores that run its cells if it has not, the record of operator 0 acts
on every core of the partition, and the cells of wave 0 start together (R30, R33, R345, R349). -/
def State.firstWave (s : State) (p : Nat) (q : BitVec 10) (ss : SStep) (w : Work) : State :=
  let cores := ss.plan.map (·.core)
  let x := s.queue q
  let started : Except Nat State :=
    if w.begun then .ok s else
    match startData s x w cores with
    | .error e => .error e
    | .ok (text, args) =>
      let s1 := cores.foldl (fun s c => (s.landOwn c).setCoreAt c (((s.landOwn c).coreAt c).startKernel w.kern x.ctxId text args)) s
      .ok (if isOpchain x then
        (partCores (s1.part p).dies).foldl (fun s c => s.setCoreAt c ((s.coreAt c).operator w.kern w.oprec (some args))) s1
      else s1)
  match started with
  | .error e => (s.completePacket q e).endKernel p cores
  | .ok s1 =>
    let s2 := ss.plan.foldl (fun s e => match e.waves with
      | [] => s
      | (wave, lin) :: _ => s.startCellOn p q ss w e.core wave lin) s1
    let s3 := s2.setQueue q { s2.queue q with
      work := some { w with begun := true }, ran := ((s2.queue q).ran ++ (s2.part p).dies).dedup }
    s3.setPart p ((s3.part p).begin q (ss.advance (fun _ => true)) s3.now)

/-- CELL_START (R33, R34): the first wave of the partition's superstep, or the next cell of the core of the turn once its
earlier one has retired. -/
def execCellStart (s : State) : Host.Outcome State Fault Refusal :=
  let c := s.turn.core
  match partOf s c with
  | none => .next s
  | some p =>
    match (s.part p).run with
    | none => .next s
    | some (q, ss) =>
      match (s.queue q).work with
      | none => .next s
      | some w =>
        if !ss.started then .next (s.firstWave p q ss w)
        else match ss.plan.find? (fun e => e.core == c) with
          | some { core := _, waves := (wave, lin) :: _ } =>
            if (s.coreAt c).cell.isSome || (isOpchain (s.queue q) && !(s.coreAt c).chainRoom w.oprec) then .next s
            else
              let s1 := s.startCellOn p q ss w c wave lin
              .next (s1.setPart p { s1.part p with run := some (q, ss.advance (· == c)) })
          | _ => .next s

/-! ### The end of a superstep (R36, R341, R345) -/

/-- No stream of the core has a chain running, queued or completing. -/
def Core.streamsDone (k : Core) : Bool :=
  k.streams.toList.all (fun t => t.state == .idle && t.queued.isEmpty && t.completing.isEmpty)

/-- All cells of the superstep have retired and every chain they issued has completed. -/
def superstepDone (s : State) (ss : SStep) : Bool :=
  ss.started && ss.plan.all (fun e => e.waves.isEmpty && (s.coreAt e.core).cell.isNone && (s.coreAt e.core).streamsDone)

/-- The next operator of a chain, on every core of the partition (R344, R345), or the status that ends the chain. -/
def State.nextOp (s : State) (p : Nat) (q : BitVec 10) (w : Work) : Except Nat State :=
  let x := s.queue q
  match readOpRec s x.ctxId ((x.pkt.map (·.f28)).getD 0) (w.op + 1) with
  | .error e => .error e
  | .ok rec =>
    match (if rec.argva = 0 then .ok none else (feRead s x.ctxId rec.argva w.kern.argsz).map some) with
    | .error e => .error e
    | .ok args =>
      let s1 := (partCores (s.part p).dies).foldl (fun s c => s.setCoreAt c ((s.coreAt c).operator w.kern rec args)) s
      let s2 := s1.setQueue q { s1.queue q with work := some { w with op := w.op + 1, sstep := 0, oprec := rec } }
      .ok (s2.setPart p { s2.part p with resident := some q })

/-- SUPERSTEP_END (R36). -/
def execSuperstepEnd (p3 : BitVec 3) (s : State) : Host.Outcome State Fault Refusal :=
  let p := p3.toNat
  match (s.part p).run with
  | none => .next s
  | some (q, ss) =>
    if !superstepDone s ss then .next s else
    match (s.queue q).work with
    | none => .next s
    | some w =>
      let cores := ss.plan.map (·.core)
      let s1 := s.charge p q
      if w.sstep + 1 < w.kern.supersteps then
        .next ((s1.setQueue q { s1.queue q with work := some { w with sstep := w.sstep + 1 } }).setPart p
          { s1.part p with resident := some q })
      else if w.op + 1 < w.nops then
        match s1.nextOp p q w with
        | .ok s2 => .next s2
        | .error e => .next ((s1.completePacket q e).endKernel p cores)
      else .next ((s1.completePacket q 0).endKernel p cores)

/-! ### The timeslice (R75, R347) -/

/-- TIMESLICE_EXPIRY: the superstep has run its timeslice; with another queue runnable it is pre-empted, at an issue boundary,
otherwise it runs another. A superstep with a halted cell is not pre-empted (R332). -/
def execTimesliceExpiry (p3 : BitVec 3) (s : State) : Host.Outcome State Fault Refusal :=
  let p := p3.toNat
  match (s.part p).run with
  | none => .next s
  | some (q, ss) =>
    if s.now < (s.part p).sliceFrom + (s.part p).tslice * 1000 ∨ ss.halted ∨ !ss.started then .next s
    else if !allQueues.any (fun r => r != q && isRunnable s p r) then .next (s.setPart p { s.part p with sliceFrom := s.now })
    else match (s.queue q).work with
      | some w => .next (s.preempt p q ss w)
      | none => .next s

end Machine
end Sys2Proof
end

