-- ==== Sys2Proof/Machine/Queues.lean ====
section
/-! DEFINITION. Queues, doorbells and packets as the command front end handles them, and the LAUNCH instruction
(R153, R335-R345, R349, R350, R370). -/

namespace Sys2Proof
namespace Machine

/-! ### Ring and index block (R337, R370) -/

/-- The target of an access to a ring slot or an index block: HBM or host memory; anything else faults. -/
def ringTarget (s : State) (x : Queue) (va : W) (acc : Acc) : Option Target :=
  match translate s x.ctxId va acc with
  | .ok (.hbm pa pte) => some (.hbm pa pte)
  | .ok (.host pa pte) => some (.host pa pte)
  | _ => none

def ringRead (s : State) (x : Queue) (va : W) (n : Nat) : Option (List Byte) :=
  match ringTarget s x va .read with
  | some (.hbm pa pte) => if s.poisoned .hbm pa n then none else some (readTarget s 128 (.hbm pa pte) n)
  | some t => some (readTarget s 128 t n)
  | none => none

def ringWrite (s : State) (x : Queue) (va : W) (bs : List Byte) : Option State :=
  (ringTarget s x va .write).map (fun t => s.writeTarget t bs)

/-- VA of the slot of an absolute index. -/
def slotVA (x : Queue) (i : W) : W := x.rbase + 64 * (i &&& BitVec.ofNat 64 (2 ^ x.logm.toNat - 1))

/-! ### The queue-control register (R336) -/

/-- The queue a control word names, when its OP is `op` and every other bit is zero. -/
def ctlQueue (w : W) (op : Nat) : Option (BitVec 10) :=
  if (w.extractLsb' 62 2).toNat = op ∧ w.extractLsb' 10 52 = 0 then some (w.extractLsb' 0 10) else none

/-- The checks of BIND (R335, R336). -/
def bindOk (s : State) (x : Queue) : Bool :=
  x.rbase.toNat % 4096 == 0 && x.idxva.toNat % 64 == 0 && x.saveva.toNat % 65536 == 0 && x.ctx.extractLsb' 12 4 == 0
    && decide (4 ≤ x.logm.toNat) && decide (x.logm.toNat ≤ 20) && decide (x.part.toNat ≤ 7)
    && !(s.part x.part.toNat).dies.isEmpty && decide (1 ≤ x.tickets.toNat) && decide (x.tickets.toNat ≤ 4096)
    && x.cls.extractLsb' 1 7 == 0

/-- READ and PUB set from RESERVE and READ written back: the queue, or none when the read faults. -/
def State.takeReserve (s : State) (q : BitVec 10) : Option State :=
  let x := s.queue q
  match ringRead s x x.idxva 8 with
  | none => none
  | some bs =>
    let r : W := BitVec.ofNat 64 (leNat bs)
    let s1 := s.setQueue q { x with read := r, pub := r }
    some ((ringWrite s1 x (x.idxva + 8) (leBytes 8 r.toNat)).getD s1)

/-- BIND (R336, R370). -/
def execQueueBind (w : W) (s : State) : Host.Outcome State Fault Refusal :=
  match ctlQueue w 1 with
  | none => .next s
  | some q =>
    let x := s.queue q
    if x.state ≠ .unbound ∨ !bindOk s x then .next s else
    match s.takeReserve q with
    | none => .next (s.setEvt q 8)
    | some s1 => .next ((s1.setQueue q { s1.queue q with state := .active, keep := none }).joinPass q)

/-- A queue's superstep, and its saved or parked state, are discarded (R336): streams are aborted as by MVA, an element at its
atomic engine being committed first; cells stop and banks return. -/
def State.discard (s : State) (q : BitVec 10) : State :=
  let x := s.queue q
  let p := x.part.toNat
  let part := s.part p
  let mine := (match part.run with | some (r, _) => r == q | none => false) || part.resident == some q
  let cores := if mine then partCores part.dies else []
  let s1 := if cores.isEmpty then s else s.drainAtomics
  let s2 := cores.foldl (fun s c =>
    (s.landOwn c).setCoreAt c ((List.range 4).foldl (fun k n => k.abortStream n) ((s.landOwn c).coreAt c)).leave) s1
  let s3 := if mine then s2.setPart p { (s2.part p).stopRun s2.now with resident := none } else s2
  s3.setQueue q { s3.queue q with state := .resetting, work := none, keep := none, checked := false, idxFault := false }

/-- RESET, which leaves the queue ACTIVE, and UNBIND, which leaves it UNBOUND (R336, R370). -/
def State.resetQueue (s : State) (q : BitVec 10) (unbind : Bool) : State :=
  let x := s.queue q
  let s1 := s.discard q
  let s2 := match x.pkt with
    | some p => s1.statusWrite x.ctxId p.statva 5
    | none => s1
  let s3 := s2.setQueue q { s2.queue q with pkt := none }
  match s3.takeReserve q with
  | some s4 => s4.setQueue q { s4.queue q with state := if unbind then .unbound else .active }
  | none => (s3.setQueue q { s3.queue q with state := if unbind then .unbound else .faulted }).setEvt q 8

def execQueueReset (w : W) (s : State) : Host.Outcome State Fault Refusal :=
  match ctlQueue w 3 with
  | none => .next s
  | some q => if (s.queue q).state = .unbound then .next s else .next (s.resetQueue q false)

def execQueueUnbind (w : W) (s : State) : Host.Outcome State Fault Refusal :=
  match ctlQueue w 2 with
  | none => .next s
  | some q => if (s.queue q).state = .unbound then .next s else .next (s.resetQueue q true)

/-! ### Doorbells and packets (R339-R342) -/

/-- DOORBELL (R339): taken only while the queue is ACTIVE. -/
def execDoorbell (q : BitVec 10) (w : W) (s : State) : Host.Outcome State Fault Refusal :=
  let x := s.queue q
  if x.state ≠ .active ∨ w ≤ x.pub then .next s
  else if (w - x.read).toNat > 2 ^ x.logm.toNat then .next ((s.setQueue q { x with state := .overrun }).setEvt q 1)
  else .next (s.setQueue q { x with pub := w })

/-- The packet in 64 bytes (R340). -/
def packetOf (bs : List Byte) : Packet := {
  typ := BitVec.ofNat 8 (field bs 4 1), flags := BitVec.ofNat 8 (field bs 5 1), zero := BitVec.ofNat 16 (field bs 6 2),
  statva := field64 bs 8, sigva := field64 bs 0x10, sigv := field64 bs 0x18, f20 := field64 bs 0x20, f28 := field64 bs 0x28,
  f30 := field64 bs 0x30, f38 := field64 bs 0x38 }

/-- A packet that is not malformed (R340, R342). -/
def packetOk (p : Packet) : Bool :=
  p.zero == 0 && p.flags.extractLsb' 2 6 == 0 && p.statva.toNat % 8 == 0 && p.sigva.toNat % 8 == 0
    && (match p.typ.toNat with
        | 1 => p.f20.toNat % 256 == 0 && p.f30 == 0 && p.f38 == 0
        | 2 => p.f20.toNat % 256 == 0 && p.f28.toNat % 256 == 0 && decide (1 ≤ p.f30.toNat) && decide (p.f30.toNat ≤ 65535)
            && p.f38 == 0
        | 3 => p.f20.toNat % 8 == 0 && p.f30 == 0 && p.f38 == 0
        | 4 | 5 => p.f20 == 0 && p.f28 == 0 && p.f30 == 0 && p.f38 == 0
        | _ => false)

/-- A ring access faulted: FAULTED with EVT[3] (R370). -/
def State.ringFault (s : State) (q : BitVec 10) : State :=
  (s.setQueue q { s.queue q with state := .faulted }).setEvt q 8

/-- PACKET_HEADER_POLL (R339, R342, R370): packet READ is accepted when its header shows SEQ = READ mod 2^32; a malformed one
completes at once. While a live update quiesces fetch, none is accepted (R363). -/
def execPacketHeaderPoll (q : BitVec 10) (s : State) : Host.Outcome State Fault Refusal :=
  let x := s.queue q
  if x.state ≠ .active ∨ x.pkt.isSome ∨ !(x.read < x.pub) ∨ s.mgmt.upd ∨ s.mgmt.fetchHeld then .next s else
  match ringRead s x (slotVA x x.read) 8 with
  | none => .next (s.ringFault q)
  | some h =>
    if field h 0 4 ≠ x.read.toNat % 2 ^ 32 then .next s else
    match ringRead s x (slotVA x x.read + 8) 56 with
    | none => .next (s.ringFault q)
    | some body =>
      let p := packetOf (h ++ body)
      let r := x.read + 1
      let keep := match x.keep with
        | some lim => if x.read < lim then some lim else none
        | none => none
      let s1 := s.setQueue q { x with pkt := some p, read := r, checked := false, keep := keep }
      let s2 := match ringWrite s1 x (x.idxva + 8) (leBytes 8 r.toNat) with
        | some s2 => s2
        | none => s1.setQueue q { s1.queue q with idxFault := true }
      if packetOk p then .next s2 else .next ((s2.setEvt q 4).completePacket q 1)

/-- The current packet of a queue that may execute it, when it has a TYPE. -/
def curPacket (s : State) (q : BitVec 10) (typ : Nat) : Option Packet :=
  let x := s.queue q
  match x.pkt with
  | some p => if (x.state = .active ∨ x.state = .overrun) ∧ p.typ.toNat = typ ∧ x.work.isNone then some p else none
  | none => none

/-- A LAUNCH or OPCHAIN has passed its checks: the queue is runnable, and becomes so unless it keeps its PASS (R346). -/
def State.accept (s : State) (q : BitVec 10) (w : Work) : State :=
  let x := s.queue q
  let s1 := s.setQueue q { x with work := some w }
  if x.keep.isSome || x.state != .active then s1 else s1.joinPass q

/-- LAUNCH_PACKET (R28, R342, R349 step 2). -/
def execLaunchPacket (q : BitVec 10) (s : State) : Host.Outcome State Fault Refusal :=
  match curPacket s q 1 with
  | none => .next s
  | some p =>
    let x := s.queue q
    match readKernel s x.ctxId p.f20 (s.part x.part.toNat).dies.length with
    | .error e => .next (s.completePacket q e)
    | .ok k => .next (s.accept q { kern := k })

/-- OPCHAIN (R344): the kernel object once, and the record of operator 0. -/
def execOpchain (q : BitVec 10) (s : State) : Host.Outcome State Fault Refusal :=
  match curPacket s q 2 with
  | none => .next s
  | some p =>
    let x := s.queue q
    match readKernel s x.ctxId p.f20 (s.part x.part.toNat).dies.length with
    | .error e => .next (s.completePacket q e)
    | .ok k =>
      match readOpRec s x.ctxId p.f28 0 with
      | .error e => .next (s.completePacket q e)
      | .ok rec => .next (s.accept q { kern := k, nops := p.f30.toNat, oprec := rec })

/-- One read of WSIG (R341): the packet completes when WSIG ≥ WVAL; the first test that fails ends the keeping of PASS. -/
def waitTest (s : State) (q : BitVec 10) (p : Packet) : State :=
  match feRead s (s.queue q).ctxId p.f20 8 with
  | .error e => s.completePacket q e
  | .ok bs =>
    if p.f28.toNat ≤ leNat bs then s.completePacket q 0
    else s.setQueue q { s.queue q with checked := true, keep := none }

/-- WAITSIG (R341): the first test. -/
def execWaitsig (q : BitVec 10) (s : State) : Host.Outcome State Fault Refusal :=
  match curPacket s q 3 with
  | none => .next s
  | some p => if (s.queue q).checked then .next s else .next (waitTest s q p)

/-- WAITSIG_POLL (R341): a later test. -/
def execWaitsigPoll (q : BitVec 10) (s : State) : Host.Outcome State Fault Refusal :=
  match curPacket s q 3 with
  | none => .next s
  | some p => if (s.queue q).checked then .next (waitTest s q p) else .next s

/-- SIGNAL and NOP (R341) complete at once. -/
def execSignal (q : BitVec 10) (s : State) : Host.Outcome State Fault Refusal :=
  match curPacket s q 4 with
  | none => .next s
  | some _ => .next (s.completePacket q 0)
def execNopPacket (q : BitVec 10) (s : State) : Host.Outcome State Fault Refusal :=
  match curPacket s q 5 with
  | none => .next s
  | some _ => .next (s.completePacket q 0)

/-! ### LAUNCH (R153, R350, R370) -/

/-- The device-side launch of a 64-byte packet: the status and the state after it (R153, R350). A queue of another context answers 2
also where it is OVERRUN, HALTED or FAULTED (log 99). -/
def State.launch (s : State) (ctx : BitVec 12) (b : W) (bs : List Byte) : Nat × State :=
  if b.toNat > 1023 then (4, s) else
  let q : BitVec 10 := b.setWidth 10
  let x := s.queue q
  match x.state with
  | .unbound | .resetting => (2, s)
  | .overrun | .halted | .faulted => if x.ctxId = ctx then (3, s) else (2, s)
  | .active =>
    if x.ctxId ≠ ctx then (2, s) else
    match ringTarget s x x.idxva .rmw with
    | none => (5, s)
    | some t =>
      if (ringRead s x x.idxva 8).isNone then (5, s) else
      let s0 := s.flushTarget t 8
      let i : W := BitVec.ofNat 64 (leNat (latestTarget s0 t 8))
      match ringTarget s x (slotVA x i) .write with
      | none => (5, s)
      | some u =>
        if (i - x.read).toNat ≥ 2 ^ x.logm.toNat then (1, s)
        else
          let s1 := (s0.writeTarget t (leBytes 8 (i + 1).toNat)).writeTarget u (leBytes 4 (i.toNat % 2 ^ 32) ++ bs.drop 4)
          (0, s1.setQueue q { s1.queue q with pub := if x.pub < i + 1 then i + 1 else x.pub })

/-- LAUNCH (R153): the packet read from the well on C's path, and the status in d. A packet with an uncorrectable error is
enqueued as read, and the storage data error follows (log 79). -/
def execLaunch (d a b : Reg) (s : State) : Host.Outcome State Fault Refusal :=
  let off := ((s.src a).setWidth 23 &&& ~~~(63 : Off)).toNat
  let r := s.launch ((s.core.cell.map (·.ctx)).getD 0) (s.src b) (s.core.wellBytes (pathOf .c) off 64)
  onCore r.2 (fun k =>
    let k1 := k.put s.eng s.issue d (BitVec.ofNat 64 r.1)
    if s.poisoned (.well s.turn.core) off 64 then k1.dataError s.eng s.issue 0 off else k1)

end Machine
end Sys2Proof
end

