-- ==== Sys2Proof/Machine/Bar.lean ====
section
/-! DEFINITION. BAR0 (R353-R356, R360, R364): what its registers and tables read as, what writes do, shootdowns (R322, R354),
the fault queue (R325, R356), and host accesses to HBM (R355). -/

namespace Sys2Proof
namespace Machine

/-! ### Reading -/

/-- The identity and status page (R355). -/
def identityBytes (s : State) : List Byte :=
  let m := s.mgmt
  let boot : Nat := match m.boot with | .rom => 0 | .verifying => 1 | .starting => 2 | .ready => 3 | .failed => 4
  leBytes 4 0x53565834 ++ leBytes 1 boot ++ leBytes 1 (bnat m.fwslot) ++ leBytes 2 m.cfg.pkgNum ++ leBytes 8 m.fwsvn.toNat
    ++ m.cecnt.toList.flatMap (fun c => leBytes 4 c.toNat) ++ leBytes 8 m.failcode.toNat
    ++ leBytes 4 Config.vendorPen.toNat ++ leBytes 1 Config.extReg.toNat ++ [0] ++ leBytes 2 Config.extAlg.toNat
    ++ leBytes 8 m.sigused

/-- STATE codes of a queue (R335). -/
def qstateCode : QState → Nat
  | .unbound => 0 | .active => 1 | .overrun => 2 | .halted => 3 | .resetting => 4 | .faulted => 5

/-- A queue-table entry as written (R335), its zero fields included. -/
def queueRaw (x : Queue) : List Byte :=
  leBytes 8 x.rbase.toNat ++ leBytes 8 x.idxva.toNat ++ leBytes 8 x.saveva.toNat ++ leBytes 2 x.ctx.toNat ++ [x.logm, x.part]
    ++ leBytes 2 x.tickets.toNat ++ [x.cls, x.vec] ++ leBytes 1 (qstateCode x.state) ++ leBytes 1 x.evt.toNat ++ leBytes 6 0
    ++ leBytes 8 x.pass.toNat ++ leBytes 8 x.pub.toNat ++ leBytes 8 x.read.toNat

/-- A queue-table entry as it reads: a zero field reads as zero (R4, R335). -/
def queueBytes (x : Queue) : List Byte := queueRaw { x with ctx := x.ctx &&& 0x0FFF, cls := x.cls &&& 1 }

/-- A region-table entry as written (R323), its zero fields included: they make it malformed. -/
def regionRaw (r : Region) : List Byte :=
  leBytes 2 r.ctx.toNat ++ [r.vcnt, r.mode, r.cur] ++ leBytes 3 r.zero5.toNat
    ++ r.voff.toList.flatMap (fun v => leBytes 4 v.toNat) ++ r.zero28.toList.flatMap (fun v => leBytes 8 v.toNat)

/-- A region-table entry as it reads (R4, R323). -/
def regionBytes (r : Region) : List Byte :=
  regionRaw { r with ctx := r.ctx &&& 0x0FFF, zero5 := 0, zero28 := Vector.replicate 3 0 }

def fwstateWord (m : Mgmt) : W := BitVec.ofNat 64 (4 * bnat m.rollback + 2 * bnat m.hbFailed + bnat m.upd)
def schedWord (p : Part) : W := BitVec.ofNat 64 (p.ucap * 2 ^ 32 + p.tslice)
def sdcmdWord (m : Mgmt) : W :=
  BitVec.ofNat 64 (bnat m.sdBusy * 2 ^ 63 + bnat m.sdDone * 2 ^ 62 + bnat m.sdall * 2 ^ 12 + m.sdctx.toNat)
def mbstatWord (m : Mgmt) : W :=
  BitVec.ofNat 64 (bnat m.mbBusy * 2 ^ 63 + bnat m.mbDone * 2 ^ 62 + m.mbStatus.toNat * 2 ^ 32 + m.mbRlen.toNat)

/-- A register of 8 bytes at an offset below 0x6000; reserved ones read as zero, and so do QUEUECTL, STRMCTL and the doorbells, for which
the manual gives no reading (log 112). -/
def regWord (s : State) (off : Nat) : W :=
  let m := s.mgmt
  if off = 0x1010 then m.sdbase.setWidth 64
  else if off = 0x1018 then m.sdlen
  else if off = 0x1020 then sdcmdWord m
  else if off = 0x1040 then m.fqbase
  else if off = 0x1048 then BitVec.ofNat 64 m.fqlog
  else if off = 0x1050 then m.fqprod
  else if off = 0x1058 then m.fqcons
  else if off = 0x1080 then m.hbeat
  else if off = 0x1088 then fwstateWord m
  else if 0x2000 ≤ off ∧ off < 0x2040 then schedWord (s.part ((off - 0x2000) / 8))
  else 0

/-- One byte of BAR0. -/
def barByte (s : State) (a : Nat) : Byte :=
  let w (x : W) : Byte := (leBytes 8 x.toNat).getD (a % 8) 0
  if a < 0x1000 then (identityBytes s).getD a 0
  else if a < 0x6000 then w (regWord s (a / 8 * 8))
  else if a < 0x8000 then s.mgmt.msix.get (a - 0x6000)
  else if 0x10000 ≤ a ∧ a < 0x20000 then (queueBytes (vget s.queues ((a - 0x10000) / 64) {})).getD (a % 64) 0
  else if 0x20000 ≤ a ∧ a < 0x28000 then w (vget s.ctxTable ((a - 0x20000) / 8) 0 &&& 0x1FFFFFFFFF)
  else if 0x28000 ≤ a ∧ a < 0x2C000 then (regionBytes (vget s.regions ((a - 0x28000) / 64) {})).getD (a % 64) 0
  else if 0x30008 ≤ a ∧ a < 0x30010 then w (mbstatWord s.mgmt)
  else if 0x31000 ≤ a ∧ a < 0x38000 then s.mgmt.mbReq.get (a - 0x31000)
  else if 0x38000 ≤ a ∧ a < 0x40000 then s.mgmt.mbResp.get (a - 0x38000)
  else 0

/-- The tables of R353, which take 4- or 8-byte accesses where the rest of BAR0 takes 8 bytes, all naturally aligned: the MSI-X, queue,
context and region tables and the mailbox's buffers (log 103). -/
def barTable (off : Nat) : Bool :=
  (decide (0x6000 ≤ off) && decide (off < 0x8000)) || (decide (0x10000 ≤ off) && decide (off < 0x2C000))
    || (decide (0x31000 ≤ off) && decide (off < 0x40000))

/-- Before bring-up only the identity page and the MSI-X structures respond (R358). -/
def barOpen (s : State) (off : Nat) : Bool :=
  s.mgmt.boot == .ready || decide (off < 0x1000) || (decide (0x6000 ≤ off) && decide (off < 0x8000))

/-- An access of `n` bytes that does not complete with Unsupported Request (R353, R358). -/
def barOk (s : State) (off n : Nat) : Bool :=
  (n == 8 || (n == 4 && barTable off)) && off % n == 0 && barOpen s off

/-- A host read of BAR0: the bytes, or all ones on an Unsupported Request. -/
def barRead (s : State) (off : BitVec 20) (n : Nat) : List Byte :=
  if barOk s off.toNat n then (List.range n).map (fun i => barByte s (off.toNat + i)) else List.replicate n 0xFF

/-! ### Writing -/

/-- Bytes replaced within a byte string. -/
def patch (old : List Byte) (at_ : Nat) (new : List Byte) : List Byte := old.take at_ ++ new ++ old.drop (at_ + new.length)

/-- A write to a queue-table entry (R335): fields 0x00–0x1B and VEC only while UNBOUND; TICKETS and CLASS in any state. -/
def queueWrite (x : Queue) (at_ : Nat) (bs : List Byte) : Queue :=
  let nb := patch (queueRaw x) at_ bs
  let free := x.state == .unbound
  let t := field nb 0x1C 2
  let c : Byte := nb.getD 0x1E 0
  let w1c : Byte := if at_ ≤ 0x21 ∧ 0x21 < at_ + bs.length then bs.getD (0x21 - at_) 0 else 0
  let x1 := if free then { x with
    rbase := field64 nb 0, idxva := field64 nb 8, saveva := field64 nb 0x10, ctx := BitVec.ofNat 16 (field nb 0x18 2),
    logm := nb.getD 0x1A 0, part := nb.getD 0x1B 0, vec := nb.getD 0x1F 0 } else x
  { x1 with
    tickets := if free ∨ (1 ≤ t ∧ t ≤ 4096) then BitVec.ofNat 16 t else x.tickets,
    cls := if free then c else if at_ ≤ 0x1E ∧ 0x1E < at_ + bs.length then c &&& 1 else x.cls,
    evt := x.evt &&& ~~~(w1c.setWidth 4) }

/-- A region-table entry from its bytes. -/
def regionOf (b : List Byte) : Region := {
  ctx := BitVec.ofNat 16 (field b 0 2), vcnt := b.getD 2 0, mode := b.getD 3 0, cur := b.getD 4 0,
  zero5 := BitVec.ofNat 24 (field b 5 3), voff := Vector.ofFn (fun i => BitVec.ofNat 32 (field b (8 + 4 * i.val) 4)),
  zero28 := Vector.ofFn (fun i => field64 b (0x28 + 8 * i.val)) }

/-- A scheduling register written (R347): UCAP at most 256, TSLICE clamped. -/
def schedWrite (p : Part) (v : W) : Part :=
  { p with
    ucap := min 256 (v.extractLsb' 32 9).toNat, tslice := max 100 (min 100000 (v.extractLsb' 0 17).toNat) }

/-- SHOOTDOWN (R354): a write of SDCMD. A write with GO while BUSY is ignored; DONE is W1C. A write without GO stores no CTX and no
ALLCTX (log 104), and a request keeps the range it began with (log 106). -/
def execShootdown (w : W) (s : State) : Host.Outcome State Fault Refusal :=
  let m := s.mgmt
  if w.getLsbD 63 then
    if m.sdBusy then .next s
    else .next { s with mgmt := { m with
      sdBusy := true, sdDone := false, sdctx := w.extractLsb' 0 12, sdall := w.getLsbD 12,
      sdReqBase := m.sdbase, sdReqLen := m.sdlen } }
  else .next { s with mgmt := { m with sdDone := m.sdDone && !w.getLsbD 62 } }

/-- A cached leaf is covered by the request. -/
def sdCovers (m : Mgmt) (e : TlbEntry) : Bool :=
  let lo := m.sdReqBase.toNat * 2 ^ 16
  let hi := lo + m.sdReqLen.toNat * 2 ^ 16
  (m.sdall || e.ctx == m.sdctx)
    && (m.sdReqLen == 0 || (decide (e.page * pageSize e.level < hi) && decide (lo < (e.page + 1) * pageSize e.level)))

/-- SHOOTDOWN_ACK (R322, R354): accesses already translated are performed at their destination, the covered copies go, and
DONE is set. -/
def execShootdownAck (s : State) : Host.Outcome State Fault Refusal :=
  if !s.mgmt.sdBusy then .next s else
  let s1 := s.drainAtomics
  let s2 := (List.range 128).foldl (fun s c =>
    s.performDest c ((List.range 4).flatMap (fun n => s.idsOf c n))) s1
  .next { s2 with
    tlb1 := s2.tlb1.filter (fun e => !sdCovers s.mgmt e.2), tlb2 := s2.tlb2.filter (fun e => !sdCovers s.mgmt e.2),
    mgmt := { s2.mgmt with sdBusy := false, sdDone := true } }

/-- The fault queue can take a record (R356). -/
def fqRoom (m : Mgmt) : Bool := decide (6 ≤ m.fqlog) && (m.fqprod - m.fqcons) != BitVec.ofNat 64 (2 ^ m.fqlog)

/-- FAULT_RECORD_POST (R325, R356): the hub's oldest record goes to the ring, and one that waits moves up. -/
def execFaultRecordPost (s : State) : Host.Outcome State Fault Refusal :=
  let m := s.mgmt
  match m.fqHeld with
  | [] => .next s
  | r :: rest =>
    if !fqRoom m then .next s else
    let a := (m.fqbase.extractLsb' 0 52).toNat + 64 * (m.fqprod.toNat % 2 ^ m.fqlog)
    let cells := cellsAt (2 ^ 52) a r
    let s1 := if m.fqbase.getLsbD 63 then { s with host := s.host.store cells }
      else if a + 64 ≤ hbmSize then { s with hbm := s.hbm.store cells } else s
    .next (State.raise { s1 with mgmt := { s1.mgmt with
      fqprod := m.fqprod + 1, fqHeld := rest ++ m.fqWaiting.take 1, fqWaiting := m.fqWaiting.drop 1 } } 0)

/-- The CLASS byte of the request in the buffer, and its check (R360). -/
def mailboxBad (m : Mgmt) (len : Nat) : Bool :=
  let h := m.mbReq.bytes 0 8
  decide (len < 8) || decide (len > 28672) || !allZero (h.drop 1) || decide ((h.getD 0 0).toNat < 1) || decide ((h.getD 0 0).toNat > 3)

/-- MAILBOX_REQUEST (R360): a write of MBCMD; with GO while BUSY it is ignored. A malformed request, or a secured message of no
open session, is answered by STATUS alone, which the response writes. -/
def execMailboxRequest (w : W) (s : State) : Host.Outcome State Fault Refusal :=
  let m := s.mgmt
  if m.boot ≠ .ready ∨ !w.getLsbD 63 ∨ m.mbBusy then .next s else
  let len := (w.extractLsb' 0 16).toNat
  let cls := m.mbReq.get 0
  let sess : BitVec 32 := BitVec.ofNat 32 (leNat (m.mbReq.bytes 8 4))
  let st : BitVec 16 := if mailboxBad m len then 1
    else if cls = 2 ∧ (List.lookup sess (vget m.conns 0 {}).sessions).isNone then 2 else 0
  .next { s with mgmt := { m with
    mbBusy := true, mbDone := false, mbLen := len, mbClass := cls, mbPend := st, mbReply := .none } }

/-- REGISTER_WRITE (R353): a host write to BAR0. What completes with Unsupported Request, and a write to a read-only or
reserved place, has no effect. -/
def execRegisterWrite (off : BitVec 20) (size : Nat) (v : W) (s : State) : Host.Outcome State Fault Refusal :=
  let a := off.toNat
  let m := s.mgmt
  let bs := (leBytes 8 v.toNat).take size
  if !barOk s a size then .next s
  else if a < 0x1000 then .next s
  else if a = 0x1000 then
    (match (v.extractLsb' 62 2).toNat with
     | 1 => execQueueBind v s
     | 2 => execQueueUnbind v s
     | 3 => execQueueReset v s
     | _ => .next s)
  else if a = 0x1008 then
    (match (v.extractLsb' 62 2).toNat with
     | 1 => execResume v s
     | 2 => execAbort v s
     | _ => .next s)
  else if a = 0x1010 then .next { s with mgmt := { m with sdbase := v.setWidth 40 } }
  else if a = 0x1018 then .next { s with mgmt := { m with sdlen := v } }
  else if a = 0x1020 then execShootdown v s
  else if a = 0x1040 then
    .next (if m.fqprod = m.fqcons then { s with mgmt := { m with fqbase := v &&& 0x800FFFFFFFFFF000 } } else s)
  else if a = 0x1048 then
    .next (if m.fqprod = m.fqcons ∧ 6 ≤ v.toNat ∧ v.toNat ≤ 16 then { s with mgmt := { m with fqlog := v.toNat } } else s)
  else if a = 0x1058 then .next { s with mgmt := { m with fqcons := v } }
  else if a = 0x1080 then .next { s with mgmt := { m with hbeat := v } }
  else if a = 0x1088 then
    .next { s with mgmt := { m with rollback := m.rollback && !v.getLsbD 2, hbFailed := m.hbFailed && !v.getLsbD 1 } }
  else if 0x2000 ≤ a ∧ a < 0x2040 then .next (s.setPart ((a - 0x2000) / 8) (schedWrite (s.part ((a - 0x2000) / 8)) v))
  else if 0x4000 ≤ a ∧ a < 0x6000 then execDoorbell (BitVec.ofNat 10 ((a - 0x4000) / 8)) v s
  else if 0x6000 ≤ a ∧ a < 0x7000 then .next { s with mgmt := { m with msix := m.msix.putAll (cellsAt 4096 (a - 0x6000) bs) } }
  else if 0x10000 ≤ a ∧ a < 0x20000 then
    let q : BitVec 10 := BitVec.ofNat 10 ((a - 0x10000) / 64)
    .next (s.setQueue q (queueWrite (s.queue q) (a % 64) bs))
  else if 0x20000 ≤ a ∧ a < 0x28000 then
    let c := (a - 0x20000) / 8
    .next { s with ctxTable := vset s.ctxTable c (field64 (patch (leBytes 8 (vget s.ctxTable c 0).toNat) (a % 8) bs) 0) }
  else if 0x28000 ≤ a ∧ a < 0x2C000 then
    let r := (a - 0x28000) / 64
    .next { s with regions := vset s.regions r (regionOf (patch (regionRaw (vget s.regions r {})) (a % 64) bs)) }
  else if a = 0x30000 then execMailboxRequest v s
  else if a = 0x30008 then .next { s with mgmt := { m with mbDone := m.mbDone && !v.getLsbD 62 } }
  else if 0x31000 ≤ a ∧ a < 0x38000 then
    .next (if m.mbBusy then s else { s with mgmt := { m with mbReq := m.mbReq.putAll (cellsAt 0x7000 (a - 0x31000) bs) } })
  else .next s

/-! ### Host memory accesses (R22, R355) -/

/-- HOST_MEMORY_ACCESS: BAR2 maps all of HBM, the HDM decoder its first HDMSIZE bytes; encryption is bypassed. -/
def execHostMemoryAccess (win : HostWin) (addr : W) (len : Nat) (wr : Option (List Byte)) (s : State) :
    Host.Outcome State Fault Refusal :=
  let limit := match win with | .bar2 => hbmSize | .hdm => min hbmSize s.mgmt.cfg.hdmSize
  let a := addr.toNat
  match wr with
  | none =>
    .next { s with reply := if s.mgmt.boot = .ready ∧ a + len ≤ limit then s.hbm.bytes 129 a len else List.replicate len 0xFF }
  | some bs =>
    .next (if s.mgmt.boot = .ready ∧ a + bs.length ≤ limit then { s with hbm := s.hbm.store (cellsAt (2 ^ 52) a bs) } else s)

end Machine
end Sys2Proof
end

