-- ==== Sys2Proof/Machine/Lms.lean ====
section
/-! DEFINITION. LMS signatures (RFC 8554, which R358 and R359 name): the candidate for the root of the tree that a signature
gives, and the check of an image's signature. -/

namespace Sys2Proof
namespace Machine

/-- Digit `i` of width `w` of a string, the most significant digit of a byte first. -/
def lmsCoef (w : Nat) (bs : List Byte) (i : Nat) : Nat :=
  (bs.getD (i * w / 8) 0).toNat / 2 ^ (8 - w * (i % (8 / w) + 1)) % 2 ^ w

/-- Digit width, number of chains and left shift of the checksum of an LM-OTS typecode: LMOTS_SHA256_N32_W1 to W8. -/
def lmotsParams : Nat → Option (Nat × Nat × Nat)
  | 1 => some (1, 265, 7)
  | 2 => some (2, 133, 6)
  | 3 => some (4, 67, 4)
  | 4 => some (8, 34, 0)
  | _ => none

/-- Height of the tree of an LMS typecode: LMS_SHA256_M32_H10 to H25 (R358). -/
def lmsHeight : Nat → Option Nat
  | 6 => some 10
  | 7 => some 15
  | 8 => some 20
  | 9 => some 25
  | _ => none

/-- Bytes of a signature: q, the LM-OTS signature, the LMS typecode and the path. -/
def lmsSigLen (p h : Nat) : Nat := 4 + (4 + 32 + 32 * p) + 4 + 32 * h

/-- The checksum of a digest's digits. -/
def lmotsCksm (w ls : Nat) (q : List Byte) : List Byte :=
  beBytes 2 (((List.range (256 / w)).map (fun i => 2 ^ w - 1 - lmsCoef w q i)).sum * 2 ^ ls)

/-- The rest of a hash chain: `n` applications from step `j`. -/
def lmotsChain (pre : List Byte) : Nat → Nat → List Byte → List Byte
  | 0, _, x => x
  | n + 1, j, x => lmotsChain pre n (j + 1) (sha256 (pre ++ beBytes 1 j ++ x))

/-- The candidate for the LM-OTS public key of leaf `q`. -/
def lmotsCandidate (w p ls : Nat) (id : List Byte) (q : Nat) (c y msg : List Byte) : List Byte :=
  let pre := id ++ beBytes 4 q
  let d := sha256 (pre ++ beBytes 2 0x8181 ++ c ++ msg)
  let dc := d ++ lmotsCksm w ls d
  sha256 (pre ++ beBytes 2 0x8080 ++ (List.range p).flatMap (fun i =>
    lmotsChain (pre ++ beBytes 2 i) (2 ^ w - 1 - lmsCoef w dc i) (lmsCoef w dc i) (slice y (32 * i) 32)))

/-- From a node of the tree to its root, by the nodes of the path. -/
def lmsClimb (id : List Byte) : Nat → List (List Byte) → List Byte → List Byte
  | _, [], x => x
  | n, s :: r, x =>
    lmsClimb id (n / 2) r (sha256 (id ++ beBytes 4 (n / 2) ++ beBytes 2 0x8383 ++ (if n % 2 = 1 then s ++ x else x ++ s)))

/-- The candidate for the root that a signature of a message gives, for a tree of height `h` with identifier `id`. -/
def lmsCandidate (w p ls h : Nat) (id sig msg : List Byte) : List Byte :=
  let q := beNat (slice sig 0 4)
  let kc := lmotsCandidate w p ls id q (slice sig 8 32) (slice sig 40 (32 * p)) msg
  let n := 2 ^ h + q
  lmsClimb id n ((List.range h).map (fun i => slice sig (44 + 32 * p + 32 * i) 32))
    (sha256 (id ++ beBytes 4 n ++ beBytes 2 0x8282 ++ kc))

/-- THE CHECK OF A SIGNATURE: typecodes that agree, the lengths they fix, a leaf of the tree, and the public key's root. -/
def lmsVerify (pub msg sig : List Byte) : Bool :=
  match lmsHeight (beNat (slice pub 0 4)), lmotsParams (beNat (slice pub 4 4)) with
  | some h, some (w, p, ls) =>
    pub.length == 56 && sig.length == lmsSigLen p h && slice sig 4 4 == slice pub 4 4
      && slice sig (40 + 32 * p) 4 == slice pub 0 4 && decide (beNat (slice sig 0 4) < 2 ^ h)
      && lmsCandidate w p ls h (slice pub 8 16) sig msg == slice pub 24 32
  | _, _ => false

end Machine
end Sys2Proof
end

