-- ==== Sys2Proof/Machine/Image.lean ====
section
/-! DEFINITION. What the bytes of a firmware image hold (R358, R361, R362): its security version, its configuration record, and
the file in which the parts of an image are staged. The manual names what is there and gives no places: they are the model's
(log 86, DESIGN CHOICE). -/

namespace Sys2Proof
namespace Machine

/-- The security version: the first eight bytes of the image (log 86). -/
def imageSvn (img : BootImage) : W := field64 img.bytes 0

/-- What the signature of an image covers: the lengths of the image and of its record, and both (log 86). -/
def imageSigned (img : BootImage) : List Byte :=
  leBytes 4 img.bytes.length ++ leBytes 4 img.recBytes.length ++ img.bytes ++ img.recBytes

/-- The file of an image as FWSTAGE writes it (log 86). -/
def imageFile (img : BootImage) : List Byte := imageSigned img ++ img.pub ++ img.sig

/-- The image that a staged file holds. -/
def parseFile (f : List Byte) : BootImage :=
  let n := field f 0 4
  let r := field f 4 4
  { bytes := slice f 8 n, recBytes := slice f (8 + n) r, pub := slice f (8 + n + r) 56, sig := f.drop (8 + n + r + 56) }

/-! ### The configuration record (R362; log 86) -/

/-- Bytes of the record before its routing table, of a routing entry, and of one of its routes. -/
def recHead : Nat := 0x68
def recRoute : Nat := 136
def recHop : Nat := 32

/-- A route from `o` on, with at most `n` alternates: kind 1 peer links, kind 2 Ethernet, 0 none. -/
def routeOf (bs : List Byte) : Nat → Nat → Route
  | 0, _ => .none
  | n + 1, o =>
    if field bs o 1 = 1 then .links (field bs (o + 8) 16) (routeOf bs n (o + recHop))
    else if field bs o 1 = 2 then .ether (field bs (o + 1) 1 == 1) (field bs (o + 8) 16) (field bs (o + 4) 4)
    else .none

/-- The kinds and ports of a routing entry's four routes are in range. -/
def routeOk (bs : List Byte) (o : Nat) : Bool :=
  (List.range 4).all (fun j => decide (field bs (o + recHop * j) 1 ≤ 2) && decide (field bs (o + recHop * j + 1) 1 ≤ 1))

/-- The record's bytes are as many as its routing table needs, and its routes are in range. -/
def recordOk (bs : List Byte) : Bool :=
  let n := field bs 4 2
  bs.length == recHead + recRoute * n && (List.range n).all (fun j => routeOk bs (recHead + recRoute * j + 8))

/-- The fields of the record: PKGNUM, the number of partitions and of routing entries, HDMSIZE, the staging and handover areas, a
byte of dies for each partition, MAC and IP of the two ports, and per package its number, the context for its accesses and
its route. -/
def recordOf (bs : List Byte) : ConfigRecord :=
  let entry (j : Nat) : Nat := recHead + recRoute * j
  { pkgNum := field bs 0 2
    parts := (List.range (field bs 2 1)).map (fun p => (List.range 8).filter (fun d => (field bs (0x30 + p) 1).testBit d))
    hdmSize := field bs 0x08 8
    staging := (field bs 0x10 8, field bs 0x18 8)
    handover := (field bs 0x20 8, field bs 0x28 8)
    ports := [(field bs 0x38 6, field bs 0x40 16), (field bs 0x50 6, field bs 0x58 16)]
    routes := (List.range (field bs 4 2)).map (fun j =>
      (field bs (entry j) 2, routeOf bs 4 (entry j + 8), field bs (entry j + 2) 2)) }

end Machine
end Sys2Proof
end

