-- ==== Sys2Proof/Machine/Mgmt.lean ====
section
/-! DEFINITION. Bring-up, SPDM, key slots, firmware update, the mailbox, peers, power and errors (R324, R357-R366). -/

namespace Sys2Proof
namespace Machine

def State.modMgmt (s : State) (f : Mgmt → Mgmt) : State := { s with mgmt := f s.mgmt }

/-! ### Bring-up (R358, R362) -/

/-- A partition layout within the ranges of R362. -/
def layoutOk (ds : List (List Nat)) : Bool :=
  decide (1 ≤ ds.length) && decide (ds.length ≤ 8)
    && ds.all (fun p => [1, 2, 4, 8].contains p.length && p.all (fun d => decide (d < 8))) && decide ds.flatten.Nodup

/-- The ranges of the configuration record (R362). -/
def cfgOk (c : ConfigRecord) : Bool :=
  let area (a : Nat × Nat) : Bool := a.2 % 65536 == 0 && decide (a.1 + a.2 ≤ hbmSize)
  decide (c.pkgNum ≤ 32767) && layoutOk c.parts && c.hdmSize % 2 ^ 28 == 0 && decide (c.hdmSize ≤ hbmSize)
    && c.routes.all (fun r => decide (r.1 ≤ 32767) && decide (r.2.2 < 4096))
    && area c.staging && decide (c.staging.2 ≤ 2 ^ 24) && area c.handover

/-- The dies of partition `i`, in ascending die number (R32). -/
def partDies (ds : List (List Nat)) (i : Nat) : List Nat := (List.range 8).filter (fun d => (ds.getD i []).contains d)

/-- What the boot ROM requires of an image (R358, R362): the key of the fused digest, its signature over the image and the
record, an SVN not below the fused one, and the record's ranges. -/
def imageOk (fuse : List Byte) (img : BootImage) : Bool :=
  sha256 img.pub == fuse && lmsVerify img.pub (imageSigned img) img.sig && decide (Config.fusedSvn ≤ imageSvn img)
    && recordOk img.recBytes && cfgOk (recordOf img.recBytes)

/-- The measurements of an image and of its configuration record (R358). -/
def imageMeas (img : BootImage) : List (List Byte) := [sha256 img.bytes, sha256 img.recBytes]

/-- DEVICE_RESET (R358): everything is as at reset, and the boot ROM runs on the image. What outlives a reset is the host's
memory, the fuses, the count of signatures and the model's own fields. -/
def execDeviceReset (img : BootImage) (s : State) : Host.Outcome State Fault Refusal :=
  let r : State := State.reset
  let s0 : State := { r with
    host := s.host, reply := s.reply, sent := s.sent, irqs := s.irqs, turn := s.turn, tick := s.tick, now := s.now,
    nextId := s.nextId, issue := s.issue, free := s.free, fairAt := s.fairAt, fairIn := s.fairIn }
  let m : Mgmt := { r.mgmt with fuseKey := s.mgmt.fuseKey, sigused := s.mgmt.sigused, slotSvn0 := imageSvn img, slotSvn1 := s.mgmt.slotSvn1 }
  if !imageOk s.mgmt.fuseKey img then
    .next { s0 with mgmt := { m with boot := .failed, failcode := Config.failCode s.tick } }
  else .next { s0 with
    mgmt := { m with
      boot := .starting, fwsvn := imageSvn img, cfg := recordOf img.recBytes, log := imageMeas img, runMeas := imageMeas img },
    parts := Vector.ofFn (fun i => { dies := partDies (recordOf img.recBytes).parts i.val }) }

/-! ### Heartbeat and live update (R363, R364) -/

/-- ns from the start of a new image to the roll-back, and of the steady-state gap. -/
def updLimit : Nat := 50000000
def beatLimit : Nat := 100000000

/-- The running slot and its SVN (R355). -/
def Mgmt.run (m : Mgmt) (slot : Bool) : Mgmt := { m with fwslot := slot, fwsvn := if slot then m.slotSvn1 else m.slotSvn0 }

/-- The roll-back: the old slot restarts, which the measurement log shows after the new image's measurement (commentary on live
updates; log 92), ROLLBACK is set, and fetch resumes with the old image's heartbeat (log 108). No vector is raised for it (log 111). -/
def Mgmt.rollBack (m : Mgmt) (now : Nat) : Mgmt :=
  { m.run !m.fwslot with
    upd := false, updImage := none, rollback := true, fetchHeld := true, fwRunning := false, beatAt := now,
    log := m.log ++ m.oldMeas, runMeas := m.oldMeas }

/-- A steady-state heartbeat missed: FAILED, vector 2, and the running slot restarts cold, from when its 100 ms count (R364;
log 110). -/
def State.missBeat (s : State) : State :=
  (s.modMgmt (fun m => { m with hbFailed := true, fwRunning := false, beatAt := s.now })).raise 2

/-- HBEAT (R358, R363, R364): the firmware writes COUNT. A value different from the last is a heartbeat: the first one completes
bring-up or a live update; one at or past its deadline counts as missed, and its COUNT is stored all the same (log 107). -/
def execHbeat (v : W) (s : State) : Host.Outcome State Fault Refusal :=
  let m := s.mgmt
  let s1 := s.modMgmt (fun m => { m with hbeat := v })
  if v = m.hbeat then .next s else
  match m.boot with
  | .starting => .next (s1.modMgmt (fun m => { m with boot := .ready, fwRunning := true, beatAt := s.now }))
  | .ready =>
    (match m.updImage with
     | some _ =>
       if s.now ≥ m.updAt + updLimit then .next (s1.modMgmt (fun m => m.rollBack s.now))
       else .next (s1.modMgmt (fun m => { m with
         upd := false, updImage := none, fetchHeld := false, fwRunning := true, beatAt := s.now }))
     | none =>
       if s.now ≥ m.beatAt + beatLimit then .next s1.missBeat
       else .next (s1.modMgmt (fun m => { m with fetchHeld := false, fwRunning := true, beatAt := s.now })))
  | _ => .next s

/-- UPDATE_HBEAT_TIMEOUT (R363): no heartbeat of the new image within 50 ms of its start. -/
def execUpdateHbeatTimeout (s : State) : Host.Outcome State Fault Refusal :=
  if s.mgmt.updImage.isSome ∧ s.now ≥ s.mgmt.updAt + updLimit then .next (s.modMgmt (fun m => m.rollBack s.now)) else .next s

/-- HEARTBEAT_MISSED (R364): the gap between heartbeats has passed 100 ms in steady state. -/
def execHeartbeatMissed (s : State) : Host.Outcome State Fault Refusal :=
  if s.mgmt.boot = .ready ∧ s.mgmt.updImage.isNone ∧ s.now ≥ s.mgmt.beatAt + beatLimit then .next s.missBeat else .next s

/-- Nothing runs, is saved or is held on the cores of any partition. -/
def State.idleParts (s : State) : Bool :=
  s.parts.toList.all (fun p => p.run.isNone && p.resident.isNone) && s.queues.toList.all (fun x => x.work.isNone)

/-- The firmware core has been started, and nothing has stopped it (R358, R365). -/
def Mgmt.fwUp (m : Mgmt) : Bool := (m.boot == .starting || m.boot == .ready) && !m.stopped

/-- FIRMWARE_POLICY_WRITE (R335, R347, R363): the running firmware writes TICKETS, CLASS or a scheduling register, or changes the
partitions, within the ranges of R362 and while nothing runs in them (log 89). -/
def execFirmwarePolicyWrite (w : PolicyWrite) (s : State) : Host.Outcome State Fault Refusal :=
  if !s.mgmt.fwUp then .next s else
  match w with
  | .tickets q v => .next (s.setQueue q (queueWrite (s.queue q) 0x1C (leBytes 2 v.toNat)))
  | .cls q v => .next (s.setQueue q (queueWrite (s.queue q) 0x1E [v]))
  | .sched p v => .next (s.setPart p.toNat (schedWrite (s.part p.toNat) v))
  | .layout ds =>
    if s.idleParts && layoutOk ds then .next { s with parts := s.parts.mapIdx (fun i p => { p with dies := partDies ds i }) }
    else .next s

/-! ### SPDM (R358-R361) -/

/-- A mailbox request of a class is in service and unanswered. -/
def mbServes (m : Mgmt) (cls : Byte) : Bool :=
  m.boot == .ready && m.mbBusy && m.mbPend == 0 && m.mbReply == .none && m.mbClass == cls

/-- The session ID of a secured message in the request buffer (R360). -/
def mbSession (m : Mgmt) : BitVec 32 := BitVec.ofNat 32 (leNat (m.mbReq.bytes 8 4))

/-- A message, plain or of a session, can be served on a transport: a mailbox request is that message, or it came on DOE or
MCTP. -/
def served (s : State) (tr : Transport) (session : Option (BitVec 32)) : Bool :=
  match tr, session with
  | .mailbox, none => mbServes s.mgmt 1
  | .mailbox, some x => mbServes s.mgmt 2 && mbSession s.mgmt == x
  | _, _ => true

/-- A message that may come plain or in a session. -/
def servedAny (s : State) (tr : Transport) : Bool := served s tr none || served s tr (some (mbSession s.mgmt))

/-- The answer goes to the transport of its request. -/
def answer (s : State) (tr : Transport) (r : Reply) : Host.Outcome State Fault Refusal :=
  match tr with
  | .mailbox => .next (s.modMgmt (fun m => { m with mbReply := r }))
  | _ => .next (s.modMgmt (fun m => { m with doeReply := r }))

/-- The connection of a transport (R359; log 88). -/
def connIx : Transport → Nat
  | .mailbox => 0 | .doe => 1 | .mctp => 2
def Mgmt.conn (m : Mgmt) (tr : Transport) : Conn := vget m.conns (connIx tr) {}
def Mgmt.setConn (m : Mgmt) (tr : Transport) (c : Conn) : Mgmt := { m with conns := vset m.conns (connIx tr) c }

/-- What a message served is answered, unless the connection has ended (R359). -/
def whenServed (s : State) (tr : Transport) (ok : Bool) (r : Host.Outcome State Fault Refusal) : Host.Outcome State Fault Refusal :=
  if !ok then .next s else if (s.mgmt.conn tr).ended then answer s tr .error else r

/-- The bytes of a signature by the identity key (R359, RFC 8554): the leaf, LMOTS_SHA256_N32_W4 with its hashes, LMS_SHA256_M32_H20
with its path. The leaf is the next unused one (log 93); the hashes are free. -/
def identitySig (s : State) : List Byte :=
  let x := fitLen (32 + 32 * 67 + 32 * 20) (Config.lmsSignature s.tick)
  beBytes 4 s.mgmt.sigused ++ beBytes 4 3 ++ x.take (32 + 32 * 67) ++ beBytes 4 8 ++ x.drop (32 + 32 * 67)

/-- A signed answer (R359): the identity key signs at most 2^20 messages. -/
def signedAnswer (s : State) (tr : Transport) (what : String) (f : Mgmt → Mgmt) : Host.Outcome State Fault Refusal :=
  if !(s.mgmt.conn tr).negotiated || decide (2 ^ 20 ≤ s.mgmt.sigused) then answer s tr .error
  else answer (s.modMgmt (fun m => f { m with sigused := m.sigused + 1 })) tr (.signed what s.mgmt.log (identitySig s))

/-- GET_MEASUREMENTS (R358, R359). -/
def execGetMeasurements (tr : Transport) (signed : Bool) (s : State) : Host.Outcome State Fault Refusal :=
  whenServed s tr (servedAny s tr)
    (if signed then signedAnswer s tr "MEASUREMENTS" id
    else if !(s.mgmt.conn tr).negotiated then answer s tr .error
    else answer s tr (.plain "MEASUREMENTS" s.mgmt.log))

/-- NEGOTIATE_ALGORITHMS (R359): without the LMS entry the requester gets an ERROR and its connection goes no further, its
sessions included; one with the entry belongs to a new connection then (log 88). -/
def execNegotiateAlgorithms (tr : Transport) (offersLms : Bool) (s : State) : Host.Outcome State Fault Refusal :=
  if !served s tr none then .next s
  else if offersLms then
    answer (s.modMgmt (fun m => m.setConn tr { m.conn tr with negotiated := true, ended := false })) tr
      (.algorithms { extReg := Config.extReg, extAlg := Config.extAlg })
  else answer (s.modMgmt (fun m => m.setConn tr { ended := true })) tr .error

/-- KEY_EXCHANGE (R359, R361): opens a secured session. -/
def execKeyExchange (tr : Transport) (session : BitVec 32) (s : State) : Host.Outcome State Fault Refusal :=
  whenServed s tr (served s tr none) (signedAnswer s tr "KEY_EXCHANGE_RSP" (fun m => m.setConn tr { m.conn tr with
    sessions := (session, Config.exportSecret s.tick) :: (m.conn tr).sessions.filter (fun x => x.1 != session) }))

/-- CHALLENGE (R359). -/
def execChallenge (tr : Transport) (s : State) : Host.Outcome State Fault Refusal :=
  whenServed s tr (servedAny s tr) (signedAnswer s tr "CHALLENGE_AUTH" id)

/-! ### Vendor-defined messages (R361) -/

/-- A vendor-defined response: StandardID IANA, a VendorID of 4 bytes that holds VENDORPEN, CMD echoed and RESULT. -/
def vendorReply (cmd result : Nat) (extra : List Byte := []) : Reply :=
  .vendor .iana 4 Config.vendorPen (leBytes 2 cmd ++ leBytes 2 result ++ extra)

/-- The commands of R361. -/
def vendorCmds : List (BitVec 16) := [0x0001, 0x0002, 0x0010, 0x0011, 0x0012]

/-- An SPDM message with no row of its own: a vendor-defined message of an unknown CMD has RESULT 1, and the answer to another
message is DMTF's (R358, R361). -/
def State.otherMessage (s : State) (tr : Transport) (cmd : Option (BitVec 16)) : State :=
  let r : Reply := if (s.mgmt.conn tr).ended then .error else match cmd with
    | some c => vendorReply c.toNat 1
    | none => .other (Config.otherReply s.tick)
  if !servedAny s tr || (match cmd with | some c => vendorCmds.contains c | none => false) then s
  else match tr with
  | .mailbox => s.modMgmt (fun m => { m with mbReply := r })
  | _ => s.modMgmt (fun m => { m with doeReply := r })

/-- The export master secret of the open session of its transport's connection that a message arrived in. -/
def sessionKey (s : State) (tr : Transport) (session : Option (BitVec 32)) : Option (List Byte) :=
  session.bind (fun x => List.lookup x (s.mgmt.conn tr).sessions)

/-- A field of a request payload, by its offset in the payload; `pay` is the payload after CMD, which the operands hold in pieces
(R361). -/
def payField (pay : List Byte) (off len : Nat) : Nat := field pay (off - 2) len

/-- A payload whose bytes after CMD are `n`, with Zero at 0x02. -/
def payOk (pay : List Byte) (n : Nat) : Bool := pay.length == n && payField pay 0x02 2 == 0

/-- KEYLOAD: RESULT of the checks in turn, and the key pair when it is 0. -/
def keyloadResult (s : State) (tr : Transport) (session : Option (BitVec 32)) (pay : List Byte) : Nat × List Byte :=
  let slot := payField pay 0x04 2
  if !payOk pay 78 ∨ payField pay 0x06 2 ≠ 0 then (1, []) else
  match sessionKey s tr session with
  | none => (2, [])
  | some ems =>
    if slot < 1 ∨ slot > 1023 ∨ (vget s.mgmt.keys slot none).isSome then (3, []) else
    match keyUnwrap (hkdfExpand32 ems wrapInfo) (pay.drop 6) with
    | none => (4, [])
    | some k => (0, k)

/-- KEYLOAD (R324, R361). -/
def execKeyload (tr : Transport) (session : Option (BitVec 32)) (zero slot rest : List Byte) (s : State) :
    Host.Outcome State Fault Refusal :=
  let pay := zero ++ slot ++ rest
  let r := keyloadResult s tr session pay
  let s1 := if r.1 = 0 then s.modMgmt (fun m => { m with
      keys := vset m.keys (payField pay 0x04 2) (some (r.2.take 32, (r.2.drop 32).take 32)) }) else s
  whenServed s tr (served s tr session) (answer s1 tr (vendorReply 1 r.1))

def keyclearResult (s : State) (tr : Transport) (session : Option (BitVec 32)) (pay : List Byte) : Nat :=
  if !payOk pay 6 ∨ payField pay 0x06 2 ≠ 0 then 1
  else if (sessionKey s tr session).isNone then 2
  else if payField pay 0x04 2 < 1 ∨ payField pay 0x04 2 > 1023 then 3 else 0

/-- KEYCLEAR (R324, R361): accesses that found the slot loaded are performed, and then it is emptied. -/
def execKeyclear (tr : Transport) (session : Option (BitVec 32)) (zero rest : List Byte) (s : State) :
    Host.Outcome State Fault Refusal :=
  let pay := zero ++ rest
  let r := keyclearResult s tr session pay
  let s1 := if r = 0 then s.drainAtomics.modMgmt (fun m => { m with keys := vset m.keys (payField pay 0x04 2) none }) else s
  whenServed s tr (served s tr session) (answer s1 tr (vendorReply 2 r))

def fwstageResult (s : State) (tr : Transport) (session : Option (BitVec 32)) (pay : List Byte) : Nat :=
  let length := payField pay 0x08 4
  if !payOk pay (10 + length) ∨ length < 1 ∨ length > 16384 then 1
  else if (sessionKey s tr session).isNone then 2
  else if s.mgmt.boot ≠ .ready then 7
  else if payField pay 0x04 4 + length > s.mgmt.cfg.staging.2 then 6 else 0

/-- FWSTAGE (R361). -/
def execFwstage (tr : Transport) (session : Option (BitVec 32)) (zero offset rest : List Byte) (s : State) :
    Host.Outcome State Fault Refusal :=
  let pay := zero ++ offset ++ rest
  let r := fwstageResult s tr session pay
  let s1 := if r = 0 then
      { s with hbm := s.hbm.store (cellsAt (2 ^ 52) (s.mgmt.cfg.staging.1 + payField pay 0x04 4) (pay.drop 10)) } else s
  whenServed s tr (served s tr session) (answer s1 tr (vendorReply 0x10 r))

def stagedBytes (s : State) (length : Nat) : List Byte := s.hbm.latestBytes s.mgmt.cfg.staging.1 length

def fwactivateResult (s : State) (tr : Transport) (session : Option (BitVec 32)) (pay : List Byte) : Nat :=
  let slot := payField pay 0x04 1
  let length := payField pay 0x08 4
  if !payOk pay 42 ∨ payField pay 0x05 3 ≠ 0 then 1
  else if (sessionKey s tr session).isNone then 2
  else if s.mgmt.boot ≠ .ready then 7
  else if slot > 1 then 3
  else if s.mgmt.upd ∨ slot = bnat s.mgmt.fwslot then 5
  else if length > s.mgmt.cfg.staging.2 then 6
  else if sha256 (stagedBytes s length) ≠ pay.drop 10 then 6 else 0

/-- The handover structure the old image writes before it stops (R364); VERSION and body are the firmware's. -/
def handoverBytes (s : State) : List Byte :=
  let body := (Config.handoverBody s.tick).take (s.mgmt.cfg.handover.2 - 48)
  leBytes 4 0x48444F46 ++ leBytes 2 (Config.handoverVersion s.tick).toNat ++ leBytes 2 0 ++ leBytes 8 body.length
    ++ sha256 body ++ body

/-- A live update (R363) to the image in the staged bytes: verified and measured; the old image hands over and stops, and the new
one, now in its slot, starts and is the running one (R355). A failed verification leaves the old image running. A handover area that
cannot hold the structure's header gets none (log 113). -/
def State.startUpdate (s : State) (slot length : Nat) : State :=
  let img := parseFile (stagedBytes s length)
  if !imageOk s.mgmt.fuseKey img then s else
  let s1 := s.modMgmt (fun m => if slot = 0 then { m with slotSvn0 := imageSvn img } else { m with slotSvn1 := imageSvn img })
  let s2 := if s.mgmt.cfg.handover.2 < 48 then s1
    else { s1 with hbm := s1.hbm.store (cellsAt (2 ^ 52) s.mgmt.cfg.handover.1 (handoverBytes s)) }
  s2.modMgmt (fun m => { m.run (slot != 0) with
    log := m.log ++ imageMeas img, oldMeas := m.runMeas, runMeas := imageMeas img, upd := true, updImage := some img,
    fwRunning := false, updAt := s.now })

/-- FWACTIVATE (R361, R363). -/
def execFwactivate (tr : Transport) (session : Option (BitVec 32)) (zero slot pad length digest : List Byte) (s : State) :
    Host.Outcome State Fault Refusal :=
  let pay := zero ++ slot ++ pad ++ length ++ digest
  let r := fwactivateResult s tr session pay
  whenServed s tr (served s tr session)
    (answer (if r = 0 then s.startUpdate (payField pay 0x04 1) (payField pay 0x08 4) else s) tr (vendorReply 0x11 r))

/-- FWQUERY (R361). -/
def execFwquery (msg : Transport × List Byte) (s : State) : Host.Outcome State Fault Refusal :=
  let tr := msg.1
  whenServed s tr (servedAny s tr)
    (if !payOk msg.2 2 then answer s tr (vendorReply 0x12 1)
    else if s.mgmt.boot ≠ .ready then answer s tr (vendorReply 0x12 7)
    else answer s tr (vendorReply 0x12 0 (leBytes 1 (bnat s.mgmt.fwslot) ++ leBytes 3 0 ++ leBytes 8 s.mgmt.slotSvn0.toNat
      ++ leBytes 8 s.mgmt.slotSvn1.toNat ++ leBytes 8 (fwstateWord s.mgmt).toNat)))

/-! ### The mailbox (R360, R361) -/

/-- The policy request in the buffer is the one handled. -/
def policyMatches (m : Mgmt) (req queue tickets : BitVec 16) (cls zero : Byte) : Bool :=
  m.mbReq.bytes 8 8 == leBytes 2 req.toNat ++ leBytes 2 queue.toNat ++ leBytes 2 tickets.toNat ++ [cls, zero]

def policyBad (m : Mgmt) (req queue tickets : BitVec 16) (cls zero : Byte) : Bool :=
  m.mbLen != 16 || req != 1 || decide (queue.toNat > 1023) || decide (tickets.toNat < 1) || decide (tickets.toNat > 4096)
    || cls.extractLsb' 1 7 != 0 || zero != 0

/-- POLICY_REQUEST (R361): a CLASS 3 request, handed to the firmware once an image runs; what it accepts it applies by its own
writes (R363). -/
def execPolicyRequest (req queue tickets : BitVec 16) (cls zero : Byte) (s : State) : Host.Outcome State Fault Refusal :=
  let m := s.mgmt
  if m.boot ≠ .ready ∨ !m.mbBusy ∨ m.mbPend ≠ 0 ∨ m.mbReply ≠ .none ∨ m.mbClass ≠ 3 ∨ !m.fwRunning
      ∨ !policyMatches m req queue tickets cls zero then .next s
  else if policyBad m req queue tickets cls zero then .next (s.modMgmt (fun m => { m with mbReply := .policy 1 }))
  else if Config.policyAccepts s.tick then
    .next (s.modMgmt (fun m => { m with mbReply := .policy 0, policy := some (queue.setWidth 10, tickets, cls) }))
  else .next (s.modMgmt (fun m => { m with mbReply := .policy 2 }))

/-- The message bytes of an answer. -/
def replyBytes : Reply → List Byte
  | .none => []
  | .error => Config.spdmWrap [0x7F]
  | .algorithms a => Config.spdmWrap (leBytes 1 a.extReg.toNat ++ leBytes 2 a.extAlg.toNat)
  | .signed _ log sig => Config.spdmWrap (log.flatten ++ sig)
  | .plain _ log => Config.spdmWrap log.flatten
  | .vendor .iana n id bs => Config.spdmWrap (leBytes n id.toNat ++ bs)
  | .other bs => bs
  | .policy r => leBytes 2 r.toNat

/-- The message bytes of a response by its class (R360): a secured message begins with the session ID of its request. -/
def classBytes (m : Mgmt) (tick : Nat) : List Byte :=
  if m.mbClass = 2 then leBytes 4 (mbSession m).toNat ++ Config.sealRecord tick (replyBytes m.mbReply) else replyBytes m.mbReply

/-- MAILBOX_RESPONSE (R360): the response with its header, RLEN, STATUS and DONE, and vector 1. A STATUS other than 0 comes with RLEN 0
and puts nothing in the buffer (log 105). -/
def execMailboxResponse (s : State) : Host.Outcome State Fault Refusal :=
  let m := s.mgmt
  if !m.mbBusy ∨ (m.mbPend = 0 ∧ m.mbReply = .none) then .next s else
  let bs := m.mbClass :: List.replicate 7 0 ++ classBytes m s.tick
  let m1 := { m with mbBusy := false, mbDone := true, mbReply := .none, mbStatus := m.mbPend }
  let m2 := if m.mbPend ≠ 0 then { m1 with mbRlen := 0 }
    else if bs.length > 32768 then { m1 with mbStatus := 3, mbRlen := 0 }
    else { m1 with mbResp := m.mbResp.putAll (cellsAt 32768 0 bs), mbRlen := BitVec.ofNat 16 bs.length }
  .next (State.raise { s with mgmt := m2 } 1)

/-! ### Peers (R357) -/

/-- The context of a sender's accesses. -/
def senderCtx (s : State) (pkg : Nat) : Option (BitVec 12) :=
  (s.mgmt.cfg.routes.find? (fun r => r.1 == pkg)).map (fun r => BitVec.ofNat 12 r.2.2)

/-- The access kind of a peer's operation (R319). -/
def peerAcc : PeerOp → Acc
  | .read _ => .read
  | .write _ | .sempr _ => .write
  | .atom .. => .atom
  | .red .. => .rmw

/-- An operation that RoCE carries (R357). -/
def rocePeer : PeerOp → Bool
  | .read _ | .write _ => true
  | .atom a w64 _ _ => w64 && (a == 0 || a == 6)
  | _ => false

def isPost : PeerOp → Bool
  | .sempr _ => true
  | _ => false

/-- A peer's operation at its target: the state, and the bytes returned. A SEMPR needs a well (R190). -/
def peerPerform (s : State) (lvl : Nat) (t : Target) (va : W) (op : PeerOp) : Except (Nat × Nat) (State × List Byte) :=
  match t, op with
  | .peer pkg pa _ _, op =>
    match peerError s pkg va lvl (fun eth => (eth && !rocePeer op) || (isPost op && decide (pa < windowBase))) with
    | some e => .error e
    | none => .ok ({ s with sent := s.sent ++ [(pkg, va, op)], free := s.free + 1 }, match op with
        | .read n => fitLen n (Config.peerRead s.tick s.free va)
        | .atom .. => fitLen 8 (Config.peerRead s.tick s.free va)
        | _ => [])
  | t, .read n => if targetEcc s t n then .error (cData, 0xFF) else .ok (s, readTarget s 130 t n)
  | t, .write bs => .ok (s.writeTarget t bs, [])
  | t, .atom a w64 opnd cmpv =>
    let n := if w64 then 8 else 4
    if targetEcc s t n then .error (cData, 0xFF) else
    let s1 := s.flushTarget t n
    let old := leNat (latestTarget s1 t n)
    .ok (s1.writeTarget t (leBytes n (atomNew a n old opnd.toNat cmpv.toNat)), leBytes 8 old)
  | t, .red o typ val =>
    let n := redSize (typ.setWidth 8)
    if targetEcc s t n then .error (cData, 0xFF) else
    let s1 := s.flushTarget t n
    .ok (s1.writeTarget t (leBytes n (redAcc (typ.setWidth 8) o (leNat (latestTarget s1 t n)) val.toNat)), [])
  | .window c off pte, .sempr amt =>
    if targetEcc s (.window c off pte) 8 then .error (cData, 0xFF)
    else .ok ((s.flushTarget (.window c off pte) 8).post c (BitVec.ofNat 23 off) amt.toNat, [])
  | _, .sempr _ => .error (cPermission, lvl)

/-- PEER_ACCESS (R357): an incoming access, translated in the context its sender's routing entry names. -/
def execPeerAccess (pkg : BitVec 15) (va : W) (op : PeerOp) (s : State) : Host.Outcome State Fault Refusal :=
  if s.mgmt.boot ≠ .ready then .next s else
  match senderCtx s pkg.toNat with
  | none => .next { s with peerFault := some (cNotValid, 3), reply := [] }
  | some ctx =>
    match translate s ctx va (peerAcc op) with
    | .error e => .next { s with peerFault := some e, reply := [] }
    | .ok t =>
      match peerPerform s (((walk s ctx va).toOption.map (·.1)).getD 0xFF) t va op with
      | .error e => .next { s with peerFault := some e, reply := [] }
      | .ok (s1, bs) => .next { s1 with peerFault := none, reply := bs }

/-! ### Errors and power (R365, R366) -/

/-- LINK_DOWN (R366). -/
def execLinkDown (link : Fin 36) (s : State) : Host.Outcome State Fault Refusal :=
  if s.mgmt.linksDown.contains link.val then .next s
  else .next ((s.modMgmt (fun m => { m with linksDown := m.linksDown ++ [link.val] })).raise 2)

/-- CORRECTED_ERROR (R366): counters 0 to 5 saturate. -/
def execCorrectedError (ctr : Fin 6) (s : State) : Host.Outcome State Fault Refusal :=
  let c := vget s.mgmt.cecnt ctr.val 0
  .next (s.modMgmt (fun m => { m with cecnt := vset m.cecnt ctr.val (if c = BitVec.allOnes 32 then c else c + 1) }))

/-- SUPPLY_DROOP and THERMAL_THROTTLE (R365) change rates and timing only. -/
def execSupplyDroop (_block : Nat) (s : State) : Host.Outcome State Fault Refusal := .next s
def execThermalThrottle (_block : Nat) (s : State) : Host.Outcome State Fault Refusal := .next s

/-- THERMAL_SHUTDOWN (R365): the package stops and posts FAILCODE 0x0001. -/
def execThermalShutdown (s : State) : Host.Outcome State Fault Refusal :=
  .next (s.modMgmt (fun m => { m with stopped := true, boot := .failed, failcode := 1 }))

end Machine
end Sys2Proof
end

