-- ==== Sys2Proof/Machine/Riscv.lean ====
section
/-! DEFINITION. The firmware core of the hub, RV32IMC (R6). The manual names the instruction set and gives none of it, so what is
written here is the RISC-V unprivileged architecture's (log 83). -/

namespace Sys2Proof
namespace Machine

/-! ### Fields and immediates -/

def rvRd (w : W32) : Nat := (w.extractLsb' 7 5).toNat
def rvRs1 (w : W32) : Nat := (w.extractLsb' 15 5).toNat
def rvRs2 (w : W32) : Nat := (w.extractLsb' 20 5).toNat
def rvF3 (w : W32) : Nat := (w.extractLsb' 12 3).toNat
def rvF7 (w : W32) : Nat := (w.extractLsb' 25 7).toNat
def immI (w : W32) : W32 := (w.extractLsb' 20 12).signExtend 32
def immS (w : W32) : W32 := (w.extractLsb' 25 7 ++ w.extractLsb' 7 5).signExtend 32
def immB (w : W32) : W32 :=
  (w.extractLsb' 31 1 ++ w.extractLsb' 7 1 ++ w.extractLsb' 25 6 ++ w.extractLsb' 8 4 ++ 0#1).signExtend 32
def immU (w : W32) : W32 := w.extractLsb' 12 20 ++ 0#12
def immJ (w : W32) : W32 :=
  (w.extractLsb' 31 1 ++ w.extractLsb' 12 8 ++ w.extractLsb' 20 1 ++ w.extractLsb' 21 10 ++ 0#1).signExtend 32

/-! ### The 16-bit instructions, each the 32-bit one it stands for -/

def rvI (imm : BitVec 12) (rs1 : BitVec 5) (f3 : BitVec 3) (rd : BitVec 5) (op : BitVec 7) : W32 := imm ++ rs1 ++ f3 ++ rd ++ op
def rvR (f7 : BitVec 7) (rs2 rs1 : BitVec 5) (f3 : BitVec 3) (rd : BitVec 5) (op : BitVec 7) : W32 := f7 ++ rs2 ++ rs1 ++ f3 ++ rd ++ op
def rvS (imm : BitVec 12) (rs2 rs1 : BitVec 5) (f3 : BitVec 3) : W32 :=
  imm.extractLsb' 5 7 ++ rs2 ++ rs1 ++ f3 ++ imm.extractLsb' 0 5 ++ 0x23#7
def rvB (imm : BitVec 13) (rs1 : BitVec 5) (f3 : BitVec 3) : W32 :=
  imm.extractLsb' 12 1 ++ imm.extractLsb' 5 6 ++ 0#5 ++ rs1 ++ f3 ++ imm.extractLsb' 1 4 ++ imm.extractLsb' 11 1 ++ 0x63#7
def rvJ (imm : BitVec 21) (rd : BitVec 5) : W32 :=
  imm.extractLsb' 20 1 ++ imm.extractLsb' 1 10 ++ imm.extractLsb' 11 1 ++ imm.extractLsb' 12 8 ++ rd ++ 0x6F#7

/-- The jump offset of C.J and C.JAL, and the branch offset of C.BEQZ and C.BNEZ. -/
def cjOff (h : BitVec 16) : BitVec 21 :=
  (h.extractLsb' 12 1 ++ h.extractLsb' 8 1 ++ h.extractLsb' 9 2 ++ h.extractLsb' 6 1 ++ h.extractLsb' 7 1 ++ h.extractLsb' 2 1
    ++ h.extractLsb' 11 1 ++ h.extractLsb' 3 3 ++ 0#1 : BitVec 12).signExtend 21
def cbOff (h : BitVec 16) : BitVec 13 :=
  (h.extractLsb' 12 1 ++ h.extractLsb' 5 2 ++ h.extractLsb' 2 1 ++ h.extractLsb' 10 2 ++ h.extractLsb' 3 2 ++ 0#1 : BitVec 9).signExtend 13

/-- Quadrant 0: C.ADDI4SPN, C.LW, C.SW. -/
def expand0 (h : BitVec 16) : Option W32 :=
  let rd : BitVec 5 := 1#2 ++ h.extractLsb' 2 3
  let rs : BitVec 5 := 1#2 ++ h.extractLsb' 7 3
  let off : BitVec 12 := 0#5 ++ h.extractLsb' 5 1 ++ h.extractLsb' 10 3 ++ h.extractLsb' 6 1 ++ 0#2
  match (h.extractLsb' 13 3).toNat with
  | 0 =>
    let imm : BitVec 12 := 0#2 ++ h.extractLsb' 7 4 ++ h.extractLsb' 11 2 ++ h.extractLsb' 5 1 ++ h.extractLsb' 6 1 ++ 0#2
    if imm = 0 then none else some (rvI imm 2 0 rd 0x13)
  | 2 => some (rvI off rs 2 rd 0x03)
  | 6 => some (rvS off rd rs 2)
  | _ => none

/-- Quadrant 1: C.ADDI, C.JAL, C.LI, C.ADDI16SP, C.LUI, the shifts and the arithmetic on x8 to x15, C.J, C.BEQZ, C.BNEZ. -/
def expand1 (h : BitVec 16) : Option W32 :=
  let imm6 : BitVec 6 := h.extractLsb' 12 1 ++ h.extractLsb' 2 5
  let rd : BitVec 5 := h.extractLsb' 7 5
  let r : BitVec 5 := 1#2 ++ h.extractLsb' 7 3
  let q : BitVec 5 := 1#2 ++ h.extractLsb' 2 3
  match (h.extractLsb' 13 3).toNat with
  | 0 => some (rvI (imm6.signExtend 12) rd 0 rd 0x13)
  | 1 => some (rvJ (cjOff h) 1)
  | 2 => some (rvI (imm6.signExtend 12) 0 0 rd 0x13)
  | 3 =>
    if imm6 = 0 then none
    else if rd = 2 then
      some (rvI ((h.extractLsb' 12 1 ++ h.extractLsb' 3 2 ++ h.extractLsb' 5 1 ++ h.extractLsb' 2 1 ++ h.extractLsb' 6 1 ++ 0#4
        : BitVec 10).signExtend 12) 2 0 2 0x13)
    else some (imm6.signExtend 20 ++ rd ++ 0x37#7)
  | 4 =>
    (match (h.extractLsb' 10 2).toNat with
     | 0 => if h.getLsbD 12 then none else some (rvI (0#7 ++ h.extractLsb' 2 5) r 5 r 0x13)
     | 1 => if h.getLsbD 12 then none else some (rvI (0x20#7 ++ h.extractLsb' 2 5) r 5 r 0x13)
     | 2 => some (rvI (imm6.signExtend 12) r 7 r 0x13)
     | _ =>
       if h.getLsbD 12 then none else
       match (h.extractLsb' 5 2).toNat with
       | 0 => some (rvR 0x20 q r 0 r 0x33)
       | 1 => some (rvR 0 q r 4 r 0x33)
       | 2 => some (rvR 0 q r 6 r 0x33)
       | _ => some (rvR 0 q r 7 r 0x33))
  | 5 => some (rvJ (cjOff h) 0)
  | 6 => some (rvB (cbOff h) r 0)
  | _ => some (rvB (cbOff h) r 1)

/-- Quadrant 2: C.SLLI, C.LWSP, C.JR, C.MV, C.EBREAK, C.JALR, C.ADD, C.SWSP. -/
def expand2 (h : BitVec 16) : Option W32 :=
  let rd : BitVec 5 := h.extractLsb' 7 5
  let rs : BitVec 5 := h.extractLsb' 2 5
  match (h.extractLsb' 13 3).toNat with
  | 0 => if h.getLsbD 12 then none else some (rvI (0#7 ++ rs) rd 1 rd 0x13)
  | 2 =>
    if rd = 0 then none
    else some (rvI (0#4 ++ h.extractLsb' 2 2 ++ h.extractLsb' 12 1 ++ h.extractLsb' 4 3 ++ 0#2) 2 2 rd 0x03)
  | 4 =>
    if rs ≠ 0 then some (rvR 0 rs (if h.getLsbD 12 then rd else 0) 0 rd 0x33)
    else if rd = 0 then none
    else some (rvI 0 rd 0 (if h.getLsbD 12 then 1 else 0) 0x67)
  | 6 => some (rvS (0#4 ++ h.extractLsb' 7 2 ++ h.extractLsb' 9 4 ++ 0#2) rs 2 2)
  | _ => none

def expandC (h : BitVec 16) : Option W32 :=
  match (h.extractLsb' 0 2).toNat with
  | 0 => expand0 h
  | 1 => expand1 h
  | 2 => expand2 h
  | _ => none

/-! ### Arithmetic -/

/-- The operations of RV32I on two words, by funct3; `alt` selects SUB and SRA. -/
def rvAlu (f3 : Nat) (alt : Bool) (a b : W32) : W32 :=
  let sh := b.toNat % 32
  match f3 with
  | 0 => if alt then a - b else a + b
  | 1 => a <<< sh
  | 2 => if a.slt b then 1 else 0
  | 3 => if a.ult b then 1 else 0
  | 4 => a ^^^ b
  | 5 => if alt then a.sshiftRight sh else a >>> sh
  | 6 => a ||| b
  | _ => a &&& b

/-- The M extension, by funct3: the high halves, and the results of a division by zero and of the signed overflow. -/
def rvMul (f3 : Nat) (a b : W32) : W32 :=
  let hi (x : Int) : W32 := BitVec.ofInt 32 (x / 2 ^ 32)
  match f3 with
  | 0 => a * b
  | 1 => hi (a.toInt * b.toInt)
  | 2 => hi (a.toInt * b.toNat)
  | 3 => hi (a.toNat * b.toNat)
  | 4 => if b = 0 then BitVec.allOnes 32 else BitVec.ofInt 32 (a.toInt.tdiv b.toInt)
  | 5 => if b = 0 then BitVec.allOnes 32 else a / b
  | 6 => if b = 0 then a else BitVec.ofInt 32 (a.toInt.tmod b.toInt)
  | _ => if b = 0 then a else a % b

/-- A branch is taken, by funct3; none for the two that are reserved. -/
def rvTaken (f3 : Nat) (a b : W32) : Option Bool :=
  match f3 with
  | 0 => some (a == b)
  | 1 => some (a != b)
  | 4 => some (a.slt b)
  | 5 => some (!a.slt b)
  | 6 => some (a.ult b)
  | 7 => some (!a.ult b)
  | _ => none

/-! ### The core -/

/-- Register 0 reads zero. -/
def rvReg (f : FwCore) (n : Nat) : W32 := if n = 0 then 0 else vget f.x n 0
def rvSet (f : FwCore) (n : Nat) (v : W32) : FwCore := if n = 0 then f else { f with x := vset f.x n v }

/-- `n` bytes of the tightly coupled memory, which lies from address 0 on; none past its 256 KiB. -/
def rvLoad (f : FwCore) (a : W32) (n : Nat) : Option Nat :=
  if a.toNat + n ≤ 2 ^ 18 then some (leNat ((List.range n).map (fun i => Memory.get f.tcm (a.toNat + i)))) else none
def rvStore (f : FwCore) (a : W32) (n : Nat) (v : W32) : FwCore :=
  if a.toNat + n ≤ 2 ^ 18 then
    { f with tcm := Memory.putAll f.tcm ((List.range n).map (fun i => (a.toNat + i, (v >>> (8 * i)).setWidth 8))) }
  else f

/-- A loaded value extended as LB, LH, LW, LBU or LHU does. -/
def rvExtend (f3 : Nat) (v : W32) : W32 :=
  match f3 with
  | 0 => (v.setWidth 8).signExtend 32
  | 1 => (v.setWidth 16).signExtend 32
  | 4 => (v.setWidth 8).setWidth 32
  | 5 => (v.setWidth 16).setWidth 32
  | _ => v

/-- One 32-bit instruction, whose own length is `len` bytes. `bus` is what a load from outside the memory returns. None where the core
takes an exception. -/
def rvRun (f : FwCore) (bus w : W32) (len : W32) : Option FwCore :=
  let a := rvReg f (rvRs1 w)
  let b := rvReg f (rvRs2 w)
  let f3 := rvF3 w
  let f7 := rvF7 w
  let next : FwCore := { f with pc := f.pc + len }
  match (w.extractLsb' 0 7).toNat with
  | 0x37 => some (rvSet next (rvRd w) (immU w))
  | 0x17 => some (rvSet next (rvRd w) (f.pc + immU w))
  | 0x6F => some { rvSet next (rvRd w) (f.pc + len) with pc := f.pc + immJ w }
  | 0x67 => if f3 = 0 then some { rvSet next (rvRd w) (f.pc + len) with pc := (a + immI w) &&& 0xFFFFFFFE } else none
  | 0x63 => (rvTaken f3 a b).map (fun t => if t then { f with pc := f.pc + immB w } else next)
  | 0x03 =>
    if f3 = 3 ∨ f3 > 5 then none
    else
      let v := (rvLoad f (a + immI w) (2 ^ (f3 % 4))).map (BitVec.ofNat 32)
      some (rvSet next (rvRd w) (rvExtend f3 (v.getD bus)))
  | 0x23 => if f3 > 2 then none else some (rvStore next (a + immS w) (2 ^ f3) b)
  | 0x13 =>
    if f3 = 1 ∧ f7 ≠ 0 ∨ f3 = 5 ∧ f7 ≠ 0 ∧ f7 ≠ 0x20 then none
    else some (rvSet next (rvRd w) (rvAlu f3 (f3 == 5 && f7 == 0x20) a (immI w)))
  | 0x33 =>
    if f7 = 1 then some (rvSet next (rvRd w) (rvMul f3 a b))
    else if f7 = 0 ∨ f7 = 0x20 ∧ (f3 = 0 ∨ f3 = 5) then some (rvSet next (rvRd w) (rvAlu f3 (f7 == 0x20) a b))
    else none
  | 0x0F => if f3 = 0 then some next else none
  | _ => none

/-- The instruction at the PC: 16 bits unless the two low bits are ones. None where it lies outside the memory, is no instruction of
RV32IMC, or is ECALL or EBREAK: the manual gives the core no exception handling. -/
def rvStep (f : FwCore) (bus : W32) : Option FwCore :=
  match rvLoad f f.pc 2 with
  | none => none
  | some h =>
    if h % 4 = 3 then (rvLoad f f.pc 4).bind (fun w => rvRun f bus (BitVec.ofNat 32 w) 4)
    else (expandC (BitVec.ofNat 16 h)).bind (fun w => rvRun f bus w 2)

/-- The firmware core as it can be: register 0 reads zero, and its memory is 256 KiB, its bytes held in the canonical form (R6). -/
def fitFw (f : FwCore) : FwCore :=
  { f with x := vset f.x 0 0, tcm := Memory.putAll [] (f.tcm.filter (fun c => decide (c.1 < 2 ^ 18))) }

/-- A turn of the firmware core (R6, R363; log 83): its next instruction, unless something from outside sets the core. What its stores
to the device do comes as rows of the opcode table. -/
def fwTurn (tick : Nat) (f : FwCore) : FwCore :=
  match Config.firmware tick with
  | some g => fitFw g
  | none => (rvStep f (Config.fwBus tick)).getD (fitFw (Config.fwTrap tick))

end Machine
end Sys2Proof
end

