-- ==== Sys2Proof/Machine/Text.lean ====
section
/-! DEFINITION. Lines of text in the instruction store: headers, tags, line-format errors, and the prefixes and instruction
that an engine meets next (R37-R39, R100-R102, R109-R111). -/

namespace Sys2Proof
namespace Machine

/-! ### Headers and lanes (R37, R39, R100) -/

/-- Lane `j` of a line of the instruction store. -/
def Core.lane (k : Core) (l j : Nat) : W32 := BitVec.ofNat 32 (leNat (k.istore.bytes (32 * l + 4 * j) 4))

/-- The tag of lane `j` in a header. -/
def tagAt (h : W32) (j : Nat) : Nat := h.toNat / 2 ^ (4 * (j - 1)) % 16
/-- Header bit LB. -/
def isLb (h : W32) : Bool := h.getLsbD 28

def lanes7 : List Nat := [1, 2, 3, 4, 5, 6, 7]

/-- The tag that a lane belongs to: a run of continuation lanes belongs to the engine of the lane before the run (R39). -/
def ownerAt (h : W32) : Nat → Nat
  | 0 => 15
  | j + 1 => if tagAt h (j + 1) = 14 then ownerAt h j else tagAt h (j + 1)

/-- Is lane `j` one of the engine's? -/
def owns (h : W32) (e : Engine) (j : Nat) : Bool := ownerAt h j == engIdx e

/-- A line-format error of every engine (R39). -/
def formatBad (h : W32) : Bool :=
  h.extractLsb' 29 3 != 0
    || lanes7.any (fun j => decide (4 ≤ tagAt h j) && decide (tagAt h j ≤ 13))
    || tagAt h 1 == 14
    || [2, 3, 4, 5, 6, 7].any (fun j => tagAt h j == 14 && tagAt h (j - 1) == 15)
    || (isLb h && lanes7.any (fun j => tagAt h j == 1 || tagAt h j == 2 || tagAt h j == 3))

/-- C lanes of a line that hold LOOPB, and a C lane after one (R102, R110). A word of LOOPB's major is one whatever its other bits, and a
continuation lane is no C lane (log 115). -/
def loopbLanes (k : Core) (l : Nat) (h : W32) : List Nat :=
  lanes7.filter (fun j => tagAt h j == 0 && fMajor (k.lane l j) == 0x02)
def loopbBad (k : Core) (l : Nat) (h : W32) : Bool :=
  match loopbLanes k l h with
  | [j] => lanes7.any (fun i => decide (j < i) && tagAt h i == 0)
  | _ => true

/-- A line-format error for engine `e`, in a broadcast body or not (R39, R53, R102). -/
def lineBad (k : Core) (e : Engine) (l : Nat) (h : W32) (inBody : Bool) : Bool :=
  formatBad h || (e == .c && isLb h && loopbBad k l h) || (inBody && lanes7.any (fun j => tagAt h j == 0))

/-! ### The next instruction of an engine in its line (R101, R109-R111) -/

/-- The prefixes met so far. -/
structure Pfxs where
  grd : Option Guard := none
  tok : Option (List Engine × List Engine) := none
  msk : Option (Reg × Bool × Bool) := none
  /-- The last prefix's lane and word. -/
  last : Option (Nat × W32) := none
  deriving DecidableEq, Repr, Inhabited

/-- What an engine meets next in its line. -/
inductive Group where
  /-- No further lane of the engine. -/
  | none
  /-- An illegal instruction; RETT continues after it. -/
  | illegal (i : Issue)
  /-- A precise decode trap of another cause: its code. -/
  | bad (code : BitVec 8) (i : Issue)
  | instr (x : Instr) (i : Issue) (p : Pfxs)
  deriving DecidableEq, Repr, Inhabited

/-- A prefix added; none when one of its kind is there already (R109). -/
def Pfxs.add (p : Pfxs) (lane : Nat) (w : W32) : Pfx → Option Pfxs
  | .grd g => if p.grd.isSome then .none else some { p with grd := some g, last := some (lane, w) }
  | .tok a b => if p.tok.isSome then .none else some { p with tok := some (a, b), last := some (lane, w) }
  | .msk r i z => if p.msk.isSome then .none else some { p with msk := some (r, i, z), last := some (lane, w) }

/-- BR, CALL, RET and BRF: the transfers of R49. -/
def isTransfer : Instr → Bool
  | .br .. | .brUncond .. | .call .. | .callUncond .. | .ret .. | .retUncond _ | .brf | .brfCall | .brfRet => true
  | _ => false
/-- Instructions that R53 makes illegal in a broadcast body. -/
def bodyIllegal : Instr → Bool
  | .brf | .brfCall | .brfRet | .loopb .. | .rfjoin | .endEngine => true
  | _ => false
def noGuard : Instr → Bool
  | .loopb .. | .refine .. | .rett => true
  | _ => false
def isEnd : Instr → Bool
  | .endEngine => true
  | _ => false
def isRett : Instr → Bool
  | .rett => true
  | _ => false
def isLoopb : Instr → Bool
  | .loopb .. => true
  | _ => false

/-- Prefix misuse (R109). -/
def pfxBad (x : Instr) (p : Pfxs) : Bool :=
  (isEnd x && p.last.isSome) || (p.grd.isSome && noGuard x) || (p.msk.isSome && !maskable x)

/-- The checks of a decoded instruction, in the order of R110. -/
def groupOf (k : Core) (x : EngineCtx) (h : W32) (i : Instr) (iss : Issue) (p : Pfxs) : Group :=
  if (isLoopb i && !isLb h) || (isRett i && k.handler.isNone) || (x.loop.isSome && bodyIllegal i) then .illegal iss
  else if pfxBad i p then .bad 0x05 iss
  else if x.inDelay && (isTransfer i || isEnd i) then .bad 0x04 iss
  else .instr i { iss with mask := p.msk, pops := (p.tok.map (·.1)).getD [], pushes := (p.tok.map (·.2)).getD [] } p

/-- The group that begins at the first own lane from `j` on; `n` bounds the lanes left. A 64-bit instruction whose next lane is
no continuation traps at its own lane, with TINFO[63:32] zero (R101; log 76). -/
def nextGroup (k : Core) (e : Engine) (h : W32) : Nat → Nat → Pfxs → Group
  | 0, _, p =>
    match p.last with
    | some (lane, w) => .bad 0x05 { line := (k.ctx e).line, lane := lane, nextLane := lane + 1, word := w }
    | .none => .none
  | n + 1, j, p =>
    let l := (k.ctx e).line
    let w := k.lane l.toNat j
    if !owns h e j then nextGroup k e h n (j + 1) p
    else
      let long := isLong e w
      let c := if long && decide (j < 7) && tagAt h (j + 1) == 14 then k.lane l.toNat (j + 1) else 0
      let iss : Issue := { line := l, lane := j, nextLane := if long then j + 2 else j + 1, word := w, cont := c }
      if tagAt h j = 14 then .illegal { iss with nextLane := j + 1, cont := 0 }
      else if long && (j = 7 || tagAt h (j + 1) != 14) then .illegal { iss with nextLane := j + 1 }
      else if isPfx w then
        match decodePfx e w with
        | .none => .illegal iss
        | some x => match p.add j w x with
          | .none => .bad 0x05 iss
          | some q => nextGroup k e h n (j + 1) q
      else match decodeInstr e w c with
        | .none => .illegal iss
        | some i => groupOf k (k.ctx e) h i iss p

/-- The next group of an engine at its lane. -/
def Core.group (k : Core) (e : Engine) : Group :=
  let x := k.ctx e
  nextGroup k e (k.lane x.line.toNat 0) (8 - x.lane) x.lane {}

end Machine
end Sys2Proof
end

