-- ==== Sys2Proof/Machine/Refine.lean ====
section
/-! DEFINITION. The refinement controller (R288-R295): REFINE, RFJOIN, RFRET, routine calls, the norm test and the exit. -/

namespace Sys2Proof
namespace Machine

/-! ### The block (R288, R289) -/

/-- A well offset of the block: a multiple of 8 with [31:23] zero. -/
def blockOffOk (x : Nat) : Bool := decide (x < wellSize) && x % 8 == 0
/-- The ACT byte of class `j` (0 CONV, 1 DIVG, 2 STAG, 3 IMAX): action and branch register. -/
def actOf (a : W32) (j : Nat) : Nat × Nat := (a.toNat / 2 ^ (8 * j) % 4, a.toNat / 2 ^ (8 * j + 2) % 8)

/-- The input fields lie in R288. -/
def blockOk (textlen : Nat) (b : List Byte) : Bool :=
  let rungs := field b 0x14 1
  let act : W32 := BitVec.ofNat 32 (field b 0x38 4)
  decide (1 ≤ field b 0 4) && decide (field b 0 4 ≤ 262144)
    && blockOffOk (field b 8 4) && blockOffOk (field b 0xC 4) && blockOffOk (field b 0x10 4)
    && rungs / 16 == 0 && rungs % 4 != 3 && rungs / 4 != 3 && decide (rungs % 4 ≤ rungs / 4)
    && field b 0x15 3 == 0 && field b 0x36 2 == 0 && field b 0x3C 4 == 0
    && decide (field b 0x30 2 < textlen) && decide (field b 0x32 2 < textlen) && decide (field b 0x34 2 < textlen)
    && [0, 1, 2, 3].all (fun j => act.toNat / 2 ^ (8 * j + 5) % 8 == 0 && ((actOf act j).1 != 2 || j == 1 || j == 2))

/-- The controller as REFINE starts it from a block. -/
def refineOf (off : Nat) (b : List Byte) (i : Issue) : Refine := {
  pc := .callFactor, off := BitVec.ofNat 23 off, n := field b 0 4, itmax := BitVec.ofNat 32 (field b 4 4),
  xoff := BitVec.ofNat 23 (field b 8 4), boff := BitVec.ofNat 23 (field b 0xC 4), roff := BitVec.ofNat 23 (field b 0x10 4),
  rung1 := field b 0x14 1 / 4, anorm := field64 b 0x18, tau := field64 b 0x20, rho := field64 b 0x28,
  factor := BitVec.ofNat 12 (field b 0x30 2), solve := BitVec.ofNat 12 (field b 0x32 2),
  resid := BitVec.ofNat 12 (field b 0x34 2), act := BitVec.ofNat 32 (field b 0x38 4),
  rung := field b 0x14 1 % 4, issue := i }

/-- A C lane of the line stands after the instruction (R289). -/
def laterC (k : Core) (i : Issue) : Bool :=
  [1, 2, 3, 4, 5, 6, 7].any (fun j => decide (i.lane < j) && owns (k.lane i.line.toNat 0) .c j)

/-- REFINE (R289): the checks, and the controller started; C stays at its lane until the controller releases it. -/
def execRefine (a : Reg) (im : BitVec 14) (s : State) : Host.Outcome State Fault Refusal :=
  onCore s (fun k =>
    let off := (k.getS .c a + imm14 im).toNat % wellSize
    let b := k.wellBytes (pathOf .m) off 128
    if k.handler.isSome then k.trapAt .c s.issue 0x11 0
    else if off % 128 ≠ 0 || !blockOk k.textLen b || decide (k.ec.stack.length ≥ 8) || k.ref.pc != .idle
        || laterC k s.issue then k.trapAt .c s.issue 0x0F (s.issue.word.setWidth 64)
    else
      let k1 := { k with ref := refineOf off b s.issue }
      let k2 := k1.modCtx .c (fun x => { x with wait := none, rfret := false })
      if s.poisoned (.well s.turn.core) off 64 then k2.dataError .c s.issue 0 off else k2)

/-! ### The norm unit (R292) -/

/-- |v| of FP64 elements read on path M: the largest, or a NaN. A signalling NaN read here sets no flag (log 78). -/
def absMax (a b : Nat) : Nat :=
  let x := decode .f64 a
  let y := decode .f64 (b % 2 ^ 63)
  if x.isNan then a else if y.isNan then 0x7FF8000000000000 else if fpCmp x y < 0 then b % 2 ^ 63 else a
def normInf (k : Core) (off n : Nat) : Nat :=
  (List.range n).foldl (fun m i => absMax m (leNat (k.wellBytes (pathOf .m) (off + 8 * i) 8))) 0

/-- A storage error in a vector the norm unit reads, taken by M (R328). That TINFO gives the start of the vector is log 98, and that
TLINE names C with REFINE's lane is log 19. -/
def normErr (s : State) (k : Core) (off n : Nat) : Core :=
  if s.poisoned (.well s.turn.core) off (8 * n) then
    { k with lateM := some (BitVec.ofNat 64 off, tlineOf k.ec .c k.ref.issue.lane) }
  else k

/-! ### Routine calls (R290) -/

/-- The routine due, its entry line. -/
def Refine.due (r : Refine) : Routine × Line :=
  match r.pc with
  | .callSolve => (.solve, r.solve)
  | .callResid => (.resid, r.resid)
  | _ => (.factor, r.factor)

/-- Every engine's RFRET flag cleared. -/
def Core.clearRet (k : Core) : Core :=
  allEngines.foldl (fun k e => k.modCtx e (fun x => { x with rfret := false })) k

/-- The norm of b, computed once, before the first call (R292). -/
def Core.normB (k : Core) (s : State) : Core :=
  let r := k.ref
  if r.normed then k
  else { normErr s k r.boff.toNat r.n with ref := { r with bn := BitVec.ofNat 64 (normInf k r.boff.toNat r.n), normed := true } }

/-- REFINE_CALL (R290): one routine outcome to A, V and M together, and C at the routine's line at once. The norm of b comes before the
first call, also where that call stalls (R292). A transfer that C has pending is dropped (log 95). -/
def execRefineCall (s : State) : Host.Outcome State Fault Refusal :=
  onCore s (fun k =>
    if k.ref.pc ≠ .callFactor ∧ k.ref.pc ≠ .callResid ∧ k.ref.pc ≠ .callSolve then k
    else if !(k.normB s).outRoom followers then (k.normB s).stallOn .c (.outFull followers)
    else
      let r := (k.normB s).ref
      let d := r.due
      let k1 := ((k.normB s).outPush followers (.routine d.2)).clearRet
      let k2 := { k1 with ref := { r with routine := d.1, pc := .inRoutine } }
      k2.modCtx .c (fun x => { x with
        line := d.2, lane := 0, wait := none, pend := none, inDelay := false, seqNext := none,
        stack := .ctrl x.line x.lane :: x.stack }))

/-- RFJOIN (R290, R293): a routine outcome calls the routine, a release outcome moves on and completes. Its tokens are popped and
pushed at each outcome it takes (log 94), and a transfer that the engine has pending is dropped (log 95). -/
def execRfjoin (s : State) : Host.Outcome State Fault Refusal :=
  onCore s (fun k =>
    let x := k.ctx s.eng
    match x.outq with
    | [] => k.stallOn s.eng .outEmpty
    | .routine t :: rest =>
      if x.stack.length ≥ 8 then k.trapAt s.eng s.issue 0x07 0
      else (k.modCtx s.eng (fun x => { x with
          outq := rest, stack := .ctrl x.line x.lane :: x.stack, line := t, lane := 0, wait := none,
          pend := none, inDelay := false })).duePush s.eng s.issue.place s.issue.pushes
    | .release t :: rest =>
      let k1 := k.modCtx s.eng (fun x => ({ x with outq := rest, pend := none, inDelay := false }).owe s.issue.place s.issue.pushes)
      (k1.toLine s.eng (k1.ctx s.eng) t.toNat).flushPushes s.eng
    | o :: _ => k.trapAt s.eng s.issue 0x06 (outcInfo o))

/-- What the controller does once all four engines have executed RFRET (R290, R292). -/
def Refine.returned (r : Refine) : Refine :=
  match r.routine with
  | .factor => { r with routine := .none, pc := if r.esc then .callSolve else .callResid }
  | .solve => { r with routine := .none, pc := .callResid, k := r.k + 1, esc := false }
  | .resid => { r with routine := .none, pc := .test }
  | .none => r

def Core.checkReturned (k : Core) : Core :=
  if k.ref.pc = .inRoutine ∧ allEngines.all (fun e => (k.ctx e).rfret) then { k with ref := k.ref.returned } else k

/-- RFRET (R291): the engine's accesses have been performed, V's after its drain, and become visible to the norm unit on path M; the engine
resumes at its REFINE or RFJOIN lane. A transfer that it has pending is dropped (log 95). -/
def execRfret (s : State) : Host.Outcome State Fault Refusal :=
  onCore s (fun k =>
    if k.handler.isSome then k.trapAt s.eng s.issue 0x11 0
    else match (k.ctx s.eng).stack with
      | .ctrl l lane :: st =>
        let f := 2 ^ pathOf s.eng
        let m := 2 ^ pathOf .m
        let k1 := { k with well := k.well.fence f m, urs := k.urs.fence f m }
        ((k1.modCtx s.eng (fun x => { x with
          line := l, lane := lane, stack := st, rfret := true, wait := none, pend := none, inDelay := false,
          seqNext := none })).duePush s.eng s.issue.place s.issue.pushes).checkReturned
      | _ => k.trapAt s.eng s.issue 0x0F (s.issue.word.setWidth 64))

/-! ### The norm test and the exit (R292, R293) -/

/-- x ≤ y and x > y of FP64 values; false with a NaN. -/
def leD (x y : Fp) : Bool := !x.isNan && !y.isNan && decide (fpCmp x y ≤ 0)
def gtD (x y : Fp) : Bool := !x.isNan && !y.isNan && decide (0 < fpCmp x y)

/-- The class of an η: 0 none, 1 CONV, 2 DIVG, 3 STAG, 4 IMAX (R292). `hist` has the newest first. -/
def classify (r : Refine) (eta : W) : Nat :=
  let d (x : W) : Fp := decode .f64 x.toNat
  let rho (x : W) : Fp := (fpMul (d r.rho) (d x)).1
  if leD (d eta) (d r.tau) then 1
  else if (d eta).isNan || (match r.hist with | h :: _ => gtD (d eta) (d h) | [] => false) then 2
  else if (match r.hist with | h :: g :: _ => gtD (d eta) (rho h) && gtD (d h) (rho g) | _ => false) then 3
  else if r.k = r.itmax then 4 else 0

/-- η and the flags of its two roundings. -/
def etaOf (r : Refine) (rn xn : Nat) : W × Flags :=
  let den := fin1 .f64 (fpFma (decode .f64 r.anorm.toNat) (decode .f64 xn) (decode .f64 r.bn.toNat) .rne) .rne 0
  let dv := decode .f64 den.1
  let e : Nat × Flags :=
    if dv.isZero then (if (decode .f64 rn).isZero then 0 else 0x7FF0000000000000, 0)
    else fin1 .f64 (fpDiv (decode .f64 rn) dv) .rne 0
  (BitVec.ofNat 64 e.1, den.2 ||| e.2)

/-- The result fields of the block (R288, R293). -/
def resultBytes (r : Refine) (exit : Nat) (eta : W) : List Byte :=
  leBytes 4 r.k.toNat ++ leBytes 1 exit ++ leBytes 1 r.rung ++ leBytes 1 r.nesc ++ leBytes 1 0 ++ leBytes 8 eta.toNat
    ++ leBytes 8 r.bn.toNat

/-- The release of the engines at an exit already written (R293). -/
def Core.release (k : Core) : Core :=
  if !k.outRoom followers then k.stallOn .c (.outFull followers)
  else
    let r := k.ref
    let a := actOf r.act (r.exit - 1)
    let next : LineIx := r.issue.line.setWidth 13 + 1
    let t : LineIx := if a.1 = 1 then (vget k.regs.b a.2 0).setWidth 13 else next
    let k1 := { k.outPush followers (.release t) with ref := { r with pc := .idle } }
    if a.1 = 3 then
      k1.takeTrap .c 0x10 (BitVec.ofNat 64 r.exit) r.issue.lane
        ((k1.ec.past r.issue).owe r.issue.place r.issue.pushes)
    else
      let x := ({ k1.ec with pend := none, inDelay := false }).owe r.issue.place r.issue.pushes
      (k1.toLine .c x t.toNat).flushPushes .c

/-- REFINE_NORM_TEST (R292, R293): the norms, η and its class; then the next call, an escalation or the exit. -/
def execRefineNormTest (s : State) : Host.Outcome State Fault Refusal :=
  onCore s (fun k =>
    let r := k.ref
    match r.pc with
    | .release => k.release
    | .test =>
      let rn := normInf k r.roff.toNat r.n
      let xn := normInf k r.xoff.toNat r.n
      let e := etaOf r rn xn
      let k0 := (normErr s (normErr s k r.roff.toNat r.n) r.xoff.toNat r.n).setMflg e.2
      let cls := classify r e.1
      if cls = 0 then { k0 with ref := { r with eta := e.1, hist := e.1 :: r.hist, pc := .callSolve } }
      else if (actOf r.act (cls - 1)).1 = 2 ∧ r.rung < r.rung1 then
        { k0 with ref := { r with
            eta := e.1, rung := r.rung + 1, nesc := r.nesc + 1, hist := [], esc := true, pc := .callFactor } }
      else
        let k1 := k0.wellWrite (pathOf .m) s.nextId (r.off.toNat + 0x40) (resultBytes r cls e.1)
        { k1 with ref := { r with eta := e.1, exit := cls, pc := .release } }.release
    | _ => k)

end Machine
end Sys2Proof
end

