-- ==== Sys2Proof/Machine/Matrix.lean ====
section
/-! DEFINITION. The matrix engine (R247-R272): the configuration bank and its check, operand addressing, the step, the nest,
accumulators and cistern handles. -/

namespace Sys2Proof
namespace Machine

/-! ### The configuration bank (R254, R255) -/

abbrev Bank := Vector W 64

def Bank.at_ (b : Bank) (i : Nat) : W := vget b i 0
/-- A field of an entry. -/
def Bank.fld (b : Bank) (i lo len : Nat) : Nat := ((b.at_ i).toNat / 2 ^ lo) % 2 ^ len
def Bank.bit (b : Bank) (i n : Nat) : Bool := (b.at_ i).getLsbD n
/-- A signed 32-bit entry. -/
def Bank.s32 (b : Bank) (i : Nat) : Int := signed 32 (b.at_ i).toNat

def Bank.btype (b : Bank) : BitVec 4 := BitVec.ofNat 4 (b.fld 0 12 4)
def Bank.atype (b : Bank) : BitVec 4 := BitVec.ofNat 4 (b.fld 0 8 4)
def Bank.scb (b : Bank) : Bool := b.bit 0 7
def Bank.sca (b : Bank) : Bool := b.bit 0 6
def Bank.btile (b : Bank) : Bool := b.bit 0 5
def Bank.atile (b : Bank) : Bool := b.bit 0 4
def Bank.bsrc (b : Bank) : Bool := b.bit 0 3
def Bank.aunf (b : Bank) : Bool := b.bit 0 2
def Bank.atgt (b : Bank) : Bool := b.bit 0 1
def Bank.accum (b : Bank) : Bool := b.bit 0 0
def Bank.klen (b : Bank) : Nat := b.fld 1 16 9
def Bank.nlen (b : Bank) : Nat := b.fld 1 8 7
def Bank.mlen (b : Bank) : Nat := b.fld 1 0 7
def Bank.count (b : Bank) (l : Nat) : Nat := max 1 (b.fld (0x10 + l) 0 32)
def Bank.role (b : Bank) (l : Nat) : Nat := b.fld (0x10 + l) 32 2
def Bank.ta (b : Bank) (l : Nat) : Int := signed 4 (b.fld (0x10 + l) 36 4)
def Bank.tb (b : Bank) (l : Nat) : Int := signed 4 (b.fld (0x10 + l) 40 4)

/-- Elements of K per step, and the group size (R247). -/
def stepDepth (t : BitVec 4) : Nat := 1536 / typeWidth t
def groupSize (t : BitVec 4) : Nat := 128 / typeWidth t

def levels6 : List Nat := [0, 1, 2, 3, 4, 5]

/-- Type pairs of the array, with the scales they allow (R248). -/
def pairOk (b : Bank) : Bool :=
  let x := b.atype.toNat
  let y := b.btype.toNat
  let scaled := b.sca || b.scb
  ([12, 13, 14].contains x && [12, 13, 14].contains y) || (x == 15 && y == 15)
    || (!scaled && (([8, 9].contains x && [8, 9].contains y) || (x == 0 && y == 0) || (x == 7 && y == 7)))

/-- The i32 accumulator of an integer pair (R93, R248). -/
def Bank.isInt (b : Bank) : Bool := typeInt b.atype

/-- Unfold fields (R252, R254). -/
structure Unfold where
  nimg : Nat
  h : Nat
  w : Nat
  c : Nat
  kh : Nat
  kw : Nat
  sh : Nat
  sw : Nat
  ph : Nat
  pw : Nat
  dh : Nat
  dw : Nat
  base : Nat
  pix0 : Nat
  k0 : Nat

def Bank.unfold (b : Bank) : Unfold := {
  nimg := b.fld 0x30 0 16, h := b.fld 0x30 16 16, w := b.fld 0x30 32 16, c := b.fld 0x31 0 24,
  kh := b.fld 0x32 0 8, kw := b.fld 0x32 8 8, sh := b.fld 0x32 16 8, sw := b.fld 0x32 24 8,
  ph := b.fld 0x32 32 8, pw := b.fld 0x32 40 8, dh := b.fld 0x32 48 8, dw := b.fld 0x32 56 8,
  base := b.fld 0x33 0 23, pix0 := b.fld 0x34 0 32, k0 := b.fld 0x34 32 32 }

/-- Output size of the unfold mapping (R252). -/
def Unfold.oh (u : Unfold) : Int := ((u.h : Int) + 2 * u.ph - u.dh * ((u.kh : Int) - 1) - 1) / (u.sh : Int) + 1
def Unfold.ow (u : Unfold) : Int := ((u.w : Int) + 2 * u.pw - u.dw * ((u.kw : Int) - 1) - 1) / (u.sw : Int) + 1
def Unfold.ok (u : Unfold) : Bool :=
  [u.nimg, u.h, u.w, u.c, u.kh, u.kw, u.sh, u.sw, u.dh, u.dw].all (fun x => x != 0) && decide (1 ≤ u.oh) && decide (1 ≤ u.ow)

/-- The bank check (R257). -/
def bankOk (b : Bank) : Bool :=
  b.fld 0 16 48 == 0 && b.fld 1 25 39 == 0 && b.fld 1 15 1 == 0 && b.fld 1 7 1 == 0 && b.fld 9 16 48 == 0
    && levels6.all (fun l => b.fld (0x10 + l) 44 20 == 0 && b.fld (0x10 + l) 34 2 == 0)
    && b.fld 0x30 48 16 == 0 && b.fld 0x31 24 40 == 0
    && pairOk b && decide (b.mlen ≤ 64) && decide (b.nlen ≤ 64) && decide (b.klen ≤ stepDepth b.atype)
    && decide (levels6.foldl (fun p l => p * b.count l) 1 ≤ 2 ^ 48)
    && (!b.btile || b.bsrc) && (!b.aunf || (!b.sca && b.unfold.ok))

/-! ### Positions (R258) -/

/-- Does every level of a role stand at an end of its range? -/
def roleAt (b : Bank) (pos : Vector (BitVec 48) 6) (r : Nat) (last : Bool) : Bool :=
  levels6.all (fun l => b.role l != r || (vget pos l 0).toNat == (if last then b.count l - 1 else 0))

/-- The step after a position, level 5 fastest, and whether it wrapped to position 0. -/
def advancePos (b : Bank) : List Nat → Vector (BitVec 48) 6 → Vector (BitVec 48) 6 × Bool
  | [], p => (p, true)
  | l :: r, p =>
    if (vget p l 0).toNat + 1 < b.count l then (vset p l (vget p l 0 + 1), false)
    else advancePos b r (vset p l 0)

/-- Σ_l i_l · stride_l over levels that satisfy `p`. -/
def sumStride (_b : Bank) (pos : Vector (BitVec 48) 6) (at_ : Nat → Int) (p : Nat → Bool) : Int :=
  levels6.foldl (fun acc l => if p l then acc + ((vget pos l 0).toNat : Int) * at_ l else acc) 0

def sigA (b : Bank) (pos : Vector (BitVec 48) 6) : Int := sumStride b pos (fun l => b.s32 (0x18 + l)) (fun _ => true)
def sigB (b : Bank) (pos : Vector (BitVec 48) 6) : Int := sumStride b pos (fun l => b.s32 (0x20 + l)) (fun _ => true)
def sigC (b : Bank) (pos : Vector (BitVec 48) 6) : Int := sumStride b pos (fun l => b.s32 (0x28 + l)) (fun _ => true)

/-- The target of a byte offset (R255). -/
def targetAt (b : Bank) (sum : Int) : MTarget :=
  let c := ((((b.fld 6 0 20 : Nat) : Int) + sum) % (2 ^ 20 : Int)).toNat / 16384
  if b.atgt then .handle ⟨c % 64, Nat.mod_lt _ (by decide)⟩ else .areg ⟨c % 8, Nat.mod_lt _ (by decide)⟩

/-- The effective limits: 0 in MLEN and NLEN means 64, in KLEN the depth (R255, R258). -/
def limitM (b : Bank) (last : Bool) : Nat := if last && b.mlen != 0 then b.mlen else 64
def limitN (b : Bank) (last : Bool) : Nat := if last && b.nlen != 0 then b.nlen else 64
def limitK (b : Bank) (last : Bool) : Nat := if last && b.klen != 0 then b.klen else stepDepth b.atype

/-! ### Operand addressing (R249-R252) -/

/-- Tile entries of a step (R251). -/
def tileA (b : Bank) (pos : Vector (BitVec 48) 6) : Nat :=
  ((((b.fld 9 0 8 : Nat) : Int) + sumStride b pos b.ta (fun _ => true)) % 256).toNat
def tileB (b : Bank) (pos : Vector (BitVec 48) 6) : Nat :=
  ((((b.fld 9 8 8 : Nat) : Int) + sumStride b pos b.tb (fun _ => true)) % 256).toNat
/-- Every tile a step names. -/
def stepTiles (b : Bank) (pos : Vector (BitVec 48) 6) : List Nat :=
  (if b.atile then [tileA b pos] else []) ++ (if b.btile then [tileB b pos] else [])

/-- A byte of the well on path M, or of a tile, where it reads zero past LEN. -/
def Core.mByte (k : Core) (tile : Option Nat) (a : Nat) : Byte :=
  match tile with
  | none => k.well.get (pathOf .m) a
  | some e =>
    let x := k.tile e
    if a < x.len then k.well.get (pathOf .m) ((x.base.toNat + a) % wellSize) else 0

/-- An element of width `w` at a bit offset, by a reader of bytes. -/
def mElem (rd : Nat → Byte) (size w : Nat) (start : Int) (bit : Nat) : Nat :=
  let a := ((start + (bit / 8 : Nat)) % (size : Int)).toNat
  if w = 4 then (rd a).toNat / 2 ^ (bit % 8) % 16
  else leNat ((List.range (w / 8)).map (fun i => rd ((a + i) % size)))

/-- Row start of A before the tile rule, for a sum of strides (R249). -/
def rowA (b : Bank) (sum : Int) (m : Nat) : Int := (b.fld 2 0 23 : Nat) + sum + m * b.s32 3
def rowB (b : Bank) (sum : Int) (n : Nat) : Int :=
  if b.bsrc then (b.fld 4 0 23 : Nat) + sum + n * b.s32 5 else (b.fld 4 0 23 : Nat) + sum + (192 * n : Nat)

/-- Element (n, k) of B. -/
def elemB (k : Core) (b : Bank) (sum : Int) (tile : Option Nat) (n kk : Nat) : Nat :=
  let w := typeWidth b.btype
  if b.bsrc then mElem (k.mByte tile) wellSize w (rowB b sum n) (kk * w)
  else mElem (fun a => k.urs.get (pathOf .m) a) ursSize w (rowB b sum n) (kk * w)

/-- Index of a tensor element through the unfold unit, or none for a zero (R252). -/
def unfoldIndex (u : Unfold) (pix kk : Int) : Option Nat :=
  let oh := u.oh
  let ow := u.ow
  if pix < 0 ∨ pix ≥ u.nimg * oh * ow ∨ kk < 0 ∨ kk ≥ (u.kh * u.kw * u.c : Nat) then none
  else
    let nn := pix / (oh * ow)
    let oy := pix / ow % oh
    let ox := pix % ow
    let kh := kk / (u.kw * u.c : Nat)
    let kw := kk / (u.c : Int) % (u.kw : Int)
    let c := kk % (u.c : Int)
    let iy := oy * u.sh - u.ph + kh * u.dh
    let ix := ox * u.sw - u.pw + kw * u.dw
    if 0 ≤ iy ∧ iy < u.h ∧ 0 ≤ ix ∧ ix < u.w then some (((nn * u.h + iy) * u.w + ix) * u.c + c).toNat else none

/-- Element (m, k) of A of a step. -/
def elemA (k : Core) (b : Bank) (pos : Vector (BitVec 48) 6) (m kk : Nat) : Nat :=
  let w := typeWidth b.atype
  let tile := if b.atile then some (tileA b pos) else none
  if b.aunf then
    let u := b.unfold
    let pix := (u.pix0 : Int) + sumStride b pos (fun l => b.s32 (0x18 + l)) (fun l => b.role l != 3) + m
    let q := (u.k0 : Int) + sumStride b pos (fun l => b.s32 (0x18 + l)) (fun l => b.role l == 3) + kk
    match unfoldIndex u pix q with
    | none => 0
    | some e => mElem (k.mByte tile) wellSize w u.base (e * w)
  else mElem (k.mByte tile) wellSize w (rowA b (sigA b pos) m) (kk * w)

/-- The scale of element (m, k): 127 on an unscaled side (R250). -/
def scaleAt (k : Core) (on : Bool) (base : Nat) (sum pitch : Int) (w row kk : Nat) : Nat :=
  if on then
    let e := (sum + row * pitch) * 8 / (w : Int) + kk
    (k.well.get (pathOf .m) (((base : Int) + e / 32) % (wellSize : Int)).toNat).toNat
  else 127
def scaleA (k : Core) (b : Bank) (sum : Int) (m kk : Nat) : Nat :=
  scaleAt k b.sca (b.fld 7 0 23) sum (b.s32 3) (typeWidth b.atype) m kk
def scaleB (k : Core) (b : Bank) (sum : Int) (n kk : Nat) : Nat :=
  scaleAt k b.scb (b.fld 8 0 23) sum (if b.bsrc then b.s32 5 else 192) (typeWidth b.btype) n kk

/-! ### The array (R259) -/

/-- Active(m, n) of the mask read at issue (R260). -/
def activeMN (actM actN : BitVec 64) (m n : Nat) : Bool := actM.getLsbD m && actN.getLsbD n

/-- One output element over one step: groups in ascending K. -/
def stepElem (b : Bank) (gs klim : Nat) (ra rb : List (Nat × Nat)) (acc : W32) : W32 × Flags :=
  let groups := (List.range 12).map (fun g => (g * gs, min ((g + 1) * gs) klim))
  let r := groups.foldl (fun (st : Nat × Flags) g =>
    if g.2 ≤ g.1 then st else
    let ps := ((ra.zip rb).drop g.1).take (g.2 - g.1)
    let v := if b.isInt then
        groupSumI32 st.1 (ps.foldl (fun t p => t + intOf b.atype p.1.1 * intOf b.btype p.2.1) 0)
      else groupSum st.1 (ps.map (fun p => arrayProd (typeFmt b.atype) (typeFmt b.btype) p.1.1 p.2.1 p.1.2 p.2.2))
    (v.1, st.2 ||| v.2)) (acc.toNat, 0)
  (BitVec.ofNat 32 r.1, r.2)

/-- The sums of a target before a step that starts from them, row-major. -/
def Core.readTarget (k : Core) (t : MTarget) : List W32 :=
  match t with
  | .areg n =>
    if k.mx.valid.getLsbD n.val then
      (List.range 4096).map (fun e => BitVec.ofNat 32 (leNat (k.ursBytes (pathOf .m) (k.viewa + 16384 * n.val + 4 * e) 4)))
    else List.replicate 4096 0
  | .handle h =>
    match k.bankOf k.cellId h with
    | some bk => (List.range 4096).map (fun e => BitVec.ofNat 32 (k.bankElem (pathOf .m) bk e))
    | none => List.replicate 4096 0

/-- A storage data error of M noted for its next issue boundary (R328). -/
def Core.noteBad (k : Core) (i : Issue) (b : Option (Nat × Nat)) : Core :=
  match b with
  | some (st, off) => k.dataError .m i st off
  | none => k

/-- The outcome of an access that may have to wait or trap (R60, R61). -/
inductive MRes where
  | done (k : Core)
  | stall (w : Wait)
  | exhausted (h : Fin 64)

/-- Bytes of an a-register's elements, and the elements a writeback writes. -/
def backCells (base : Nat) (h : Held) : List (Nat × Byte) :=
  ((List.range 4096).filter (fun e =>
      decide (e / 64 < h.mlim) && decide (e % 64 < h.nlim) && activeMN h.actM h.actN (e / 64) (e % 64))).flatMap
    (fun e => (leBytes 4 (h.acc.getD e 0).toNat).zipIdx.map (fun p => (base + 4 * e + p.2, p.1)))

/-- Status bits of an a-register. -/
def MState.setStatus (x : MState) (n : Fin 8) (valid dirty : Bool) : MState :=
  let m : BitVec 8 := 1#8 <<< n.val
  { x with
    valid := if valid then x.valid ||| m else x.valid &&& ~~~m,
    dirty := if dirty then x.dirty ||| m else x.dirty &&& ~~~m }

/-- A handle made ready for a write: its bank, unowned; an unbound handle is bound first (R58, R60, R61). -/
def Core.bankForWrite (k : Core) (tick : Nat) (h : Fin 64) : Except MRes (Core × Fin 64) :=
  match k.bankOf k.cellId h with
  | some b => if k.bankOwned b then .error (.stall (.bands true b.val)) else .ok (k, b)
  | none =>
    if k.handleOwned k.cellId h then .error (.stall (.bands false h.val)) else
    match k.bind tick k.cellId h with
    | some r => .ok r
    | none =>
      if k.cist.own.any (fun o => match o.of with | .bank _ => true | .handle .. => false) then .error (.stall .freeList)
      else .error (.exhausted h)

/-- WRITEBACK (R259): the held target's sums are written to it, and it leaves the array. -/
def Core.writeBack (k : Core) (tick id : Nat) : MRes :=
  match k.mx.held with
  | none => .done k
  | some h =>
    match h.tgt with
    | .areg n =>
      let cs := (backCells (k.viewa + 16384 * n.val) h).map (fun c => (c.1 % ursSize, c.2))
      let k1 := { k with urs := k.urs.pathWrite (pathOf .m) id cs }
      .done { k1 with mx := { k1.mx.setStatus n true true with held := none } }
    | .handle hd =>
      if (backCells 0 h).isEmpty then .done { k with mx := { k.mx with held := none } } else
      match k.bankForWrite tick hd with
      | .error r => r
      | .ok (k1, b) =>
        .done { k1 with
          cist := { k1.cist with data := k1.cist.data.pathWrite (pathOf .m) id (backCells (bankSize * b.val) h) },
          mx := { k1.mx with held := none } }

/-- An MRes as the state of the core: a stall, or the trap cistern exhausted, whose instruction is tried again (R61, R271). -/
def Core.settleM (k : Core) (i : Issue) (r : MRes) (f : Core → Core) : Core :=
  match r with
  | .done k1 => f k1
  | .stall w => k.stallOn .m w
  | .exhausted h => k.trapAt .m i 0x0C (BitVec.ofNat 64 h.val)

/-- Mask halves of an MGO or MMA, read on path M when it issues (R260). -/
def Core.mMask (k : Core) (i : Issue) : BitVec 64 × BitVec 64 :=
  match i.mask with
  | none => (BitVec.allOnes 64, BitVec.allOnes 64)
  | some (m, inv, _) =>
    let x := leNat (k.ursBytes (pathOf .m) (k.vOff m.toNat) 16)
    let lo := BitVec.ofNat 64 x
    let hi := BitVec.ofNat 64 (x / 2 ^ 64)
    if inv then (~~~lo, ~~~hi) else (lo, hi)

/-- A storage data error in the mask of an MGO or MMA (R260, R328). -/
def maskBad (s : State) (k : Core) (i : Issue) : Option (Nat × Nat) :=
  match i.mask with
  | none => none
  | some (m, _, _) =>
    if s.poisoned (.urs s.turn.core) (k.vOff m.toNat) 16 then some (1, k.vOff m.toNat % ursSize) else none

/-- Identifiers of a step's first write-back. -/
def idBack : Nat := 4096

/-- The bank that a step would load from is owned by a stream (R60). -/
def Core.loadStall (k : Core) (t : MTarget) (zero : Bool) : Option Wait :=
  if zero then none else
  match t with
  | .areg _ => none
  | .handle h => match k.bankOf k.cellId h with
    | some b => if k.bankOwned b then some (.bands true b.val) else none
    | none => none

/-- Offsets of the bytes that hold an element (see `mElem`). -/
def elemBytes (size w : Nat) (start : Int) (bit : Nat) : List Nat :=
  let a := ((start + (bit / 8 : Nat)) % (size : Int)).toNat
  if w = 4 then [a] else (List.range (w / 8)).map (fun i => (a + i) % size)

/-- The well offset that a byte of an operand lies at; none past a tile's length, where nothing is read (R63). -/
def Core.mPlace (k : Core) (tile : Option Nat) (a : Nat) : Option Nat :=
  match tile with
  | none => some a
  | some e => if a < (k.tile e).len then some (((k.tile e).base.toNat + a) % wellSize) else none

/-- The first of some well or URS bytes that carries an uncorrectable error: store and offset. -/
def badWell (s : State) (as : List Nat) : Option (Nat × Nat) :=
  (as.find? (fun a => s.poisoned (.well s.turn.core) a 1)).map (fun a => (0, a))
def badUrs (s : State) (a n : Nat) : Option (Nat × Nat) :=
  if s.poisoned (.urs s.turn.core) a n then some (1, a % ursSize) else none

/-- Offset of the byte that holds the scale of an element (see `scaleAt`). -/
def scaleByte (base : Nat) (sum pitch : Int) (w row kk : Nat) : Nat :=
  (((base : Int) + ((sum + row * pitch) * 8 / (w : Int) + kk) / 32) % (wellSize : Int)).toNat

/-- Bytes of element (m, k) of A, and of element (n, k) of B, that lie in the well. -/
def bytesA (k : Core) (b : Bank) (pos : Vector (BitVec 48) 6) (m kk : Nat) : List Nat :=
  let w := typeWidth b.atype
  let tile := if b.atile then some (tileA b pos) else none
  (if b.aunf then
    let u := b.unfold
    match unfoldIndex u ((u.pix0 : Int) + sumStride b pos (fun l => b.s32 (0x18 + l)) (fun l => b.role l != 3) + m)
        ((u.k0 : Int) + sumStride b pos (fun l => b.s32 (0x18 + l)) (fun l => b.role l == 3) + kk) with
    | none => []
    | some e => elemBytes wellSize w u.base (e * w)
  else elemBytes wellSize w (rowA b (sigA b pos) m) (kk * w)).filterMap (k.mPlace tile)
def bytesB (k : Core) (b : Bank) (pos : Vector (BitVec 48) 6) (n kk : Nat) : List Nat :=
  if b.bsrc then
    (elemBytes wellSize (typeWidth b.btype) (rowB b (sigB b pos) n) (kk * typeWidth b.btype)).filterMap
      (k.mPlace (if b.btile then some (tileB b pos) else none))
  else []

/-- The store and the place of a target that a step loads its sums from and that holds an uncorrectable error: the place is where the
a-register or the bank starts (log 98). -/
def targetBad (s : State) (k : Core) (t : MTarget) : Option (Nat × Nat) :=
  match t with
  | .areg n => if k.mx.valid.getLsbD n.val then badUrs s (k.viewa + 16384 * n.val) 16384 else none
  | .handle h => match k.bankOf k.cellId h with
    | some bk => if s.poisoned (.cist s.turn.core) (bankSize * bk.val) bankSize then some (3, bankSize * bk.val) else none
    | none => none

/-- The first byte that an M step reads and that carries an uncorrectable error, of its operands within the limits, its scales
and the sums it loads: store and offset (R328). -/
def mBad (s : State) (k : Core) (b : Bank) (tgt : Option MTarget) : Option (Nat × Nat) :=
  if s.poison.isEmpty then none else
  let pos := k.mx.pos
  let ms := List.range (limitM b (roleAt b pos 1 true))
  let ns := List.range (limitN b (roleAt b pos 2 true))
  let ks := List.range (limitK b (roleAt b pos 3 true))
  let each (rows : List Nat) (f : Nat → Nat → List Nat) : Option (Nat × Nat) :=
    rows.findSome? (fun r => ks.findSome? (fun q => badWell s (f r q)))
  let scA := if b.sca then
      each ms (fun m q => [scaleByte (b.fld 7 0 23) (sigA b pos) (b.s32 3) (typeWidth b.atype) m q]) else none
  let scB := if b.scb then
      each ns (fun n q => [scaleByte (b.fld 8 0 23) (sigB b pos) (if b.bsrc then b.s32 5 else 192) (typeWidth b.btype) n q])
    else none
  let ursB := if b.bsrc then none else
    ns.findSome? (fun n => badUrs s ((rowB b (sigB b pos) n) % (ursSize : Int)).toNat ((ks.length * typeWidth b.btype + 7) / 8))
  ((((each ms (bytesA k b pos)).or (each ns (bytesB k b pos))).or (ursB.or (scA.or scB)))).or
    (tgt.bind (targetBad s k))

/-- The step's loads and arithmetic (R259), its limits recorded. -/
def Core.stepArith (k : Core) (b : Bank) (tgt : MTarget) (actM actN : BitVec 64) : Held × Flags :=
  let pos := k.mx.pos
  let first := roleAt b pos 3 false
  let last := roleAt b pos 3 true
  let acc := match k.mx.held with
    | some h => if h.tgt = tgt then h.acc else []
    | none => []
  let acc := if acc.isEmpty then (if first && !b.accum then List.replicate 4096 0 else k.readTarget tgt) else acc
  let mlim := limitM b (roleAt b pos 1 true)
  let nlim := limitN b (roleAt b pos 2 true)
  let klim := limitK b last
  let sa := sigA b pos
  let sb := sigB b pos
  let tb := if b.btile then some (tileB b pos) else none
  let rowsA := (List.range mlim).map (fun m => (List.range klim).map (fun q => (elemA k b pos m q, scaleA k b sa m q)))
  let rowsB := (List.range nlim).map (fun n => (List.range klim).map (fun q => (elemB k b sb tb n q, scaleB k b sb n q)))
  let out := (List.range 4096).map (fun e =>
    let m := e / 64
    let n := e % 64
    if m < mlim && n < nlim && activeMN actM actN m n then
      stepElem b (groupSize b.atype) klim (rowsA.getD m []) (rowsB.getD n []) (acc.getD e 0)
    else (acc.getD e 0, 0))
  ({ tgt := tgt, acc := out.map (·.1), mlim := mlim, nlim := nlim, actM := actM, actN := actN },
   out.foldl (fun f p => f ||| p.2) 0)

/-- A step is complete: the position moves on, and an MMA, or a nest at its last position, completes (R266, R267). -/
def Core.stepDone (k : Core) (mma : Bool) (actM actN : BitVec 64) (flags : Flags) (i : Issue) : Core :=
  let a := advancePos k.mx.active levels6.reverse k.mx.pos
  let k1 := { k with mx := { k.mx with pos := a.1, nstep := k.mx.nstep + 1 } }
  if mma || a.2 then (({ k1 with mx := { k1.mx with run := .idle } }).setMflg flags).finish .m i
  else ({ k1 with mx := { k1.mx with run := .nest mma .start actM actN flags i } }).modCtx .m (fun x => { x with wait := none })

/-- M_STEP (R259): one step of the nest or MMA that M runs, as far as it can go; a stall or a trap leaves it where it stands. A step that
has found its tiles READY has issued, and goes on with its opening write back (R271) without looking at them again (log 109). -/
def mStepCore (s : State) (k : Core) : Core :=
  match k.mx.run with
  | .nest mma at_ actM actN flags i =>
    let b : Bank := k.mx.active
    if at_ = .back then k.settleM i (k.writeBack s.tick s.nextId) (fun k1 => k1.stepDone mma actM actN flags i)
    else if at_ = .start && (stepTiles b k.mx.pos).any (fun e => (k.tile e).state != .ready) then k.stallOn .m (.tiles (stepTiles b k.mx.pos))
    else
      let tgt := targetAt b (sigC b k.mx.pos)
      let other := match k.mx.held with
        | some h => h.tgt != tgt
        | none => false
      let k := { k with mx := { k.mx with run := .nest mma .opened actM actN flags i } }
      k.settleM i (if other then k.writeBack s.tick s.nextId else .done k) (fun k1 =>
        let zero := roleAt b k1.mx.pos 3 false && !b.accum
        match (if k1.mx.held.isSome then none else k1.loadStall tgt zero) with
        | some w => k1.stallOn .m w
        | none =>
          let r := k1.stepArith b tgt actM actN
          let k2 := k1.noteBad i (mBad s k1 b (if zero || k1.mx.held.isSome then none else some tgt))
          let last := roleAt b k2.mx.pos 3 true
          let k3 := { k2 with mx := { k2.mx with held := some r.1, run := .nest mma (if last then .back else .opened) actM actN (flags ||| r.2) i } }
          if last then k3.settleM i (k3.writeBack s.tick (s.nextId + idBack)) (fun k4 => k4.stepDone mma actM actN (flags ||| r.2) i)
          else k3.stepDone mma actM actN (flags ||| r.2) i)
  | _ => k

def execMStep (s : State) : Host.Outcome State Fault Refusal := onCore s (mStepCore s)

/-! ### Instructions (R265-R270) -/

/-- MGO and MGO.KEEP (R266): check, write back what is held, exchange, and start the nest at position 0. The mask is read before
the write back, as MMA reads it (log 91). -/
def startNest (s : State) (swap : Bool) : Host.Outcome State Fault Refusal :=
  onCore s (fun k =>
    let m := k.mMask s.issue
    if !bankOk (if swap then k.mx.shadow else k.mx.active) then k.illegal .m s.issue
    else k.settleM s.issue (k.writeBack s.tick s.nextId) (fun k1 =>
      ({ k1 with mx := { k1.mx with
          active := if swap then k1.mx.shadow else k1.mx.active,
          shadow := if swap then k1.mx.active else k1.mx.shadow,
          pos := Vector.replicate 6 0, nstep := 0, run := .nest false .start m.1 m.2 0 s.issue } }.modCtx .m
        (fun x => { x with wait := none })).noteBad s.issue (maskBad s k s.issue)))

def execMgo (s : State) := startNest s true
def execMgoKeep (s : State) := startNest s false

/-- M is in a nest whose step still awaits its arithmetic. -/
def MRun.atStart : MRun → Bool
  | .nest _ at_ .. => at_ != .back
  | _ => false

/-- MMA and MMA.RST (R267): one step at the current position. Until its step can be made the instruction stalls, or traps, with
no effect (R61, R63, R157). -/
def oneStep (s : State) (rst : Bool) : Host.Outcome State Fault Refusal :=
  onCore s (fun k =>
    if !bankOk k.mx.active then k.illegal .m s.issue
    else
      let m := k.mMask s.issue
      let k1 := mStepCore s { k.modCtx .m (fun x => { x with wait := none }) with mx := { k.mx with
        pos := if rst then Vector.replicate 6 0 else k.mx.pos, nstep := if rst then 0 else k.mx.nstep,
        run := .nest true .start m.1 m.2 0 s.issue } }
      if k1.mx.run.atStart then
        match k1.em.wait with
        | some w => k.stallOn .m w
        | none => { k1 with mx := k.mx }
      else k1.noteBad s.issue (maskBad s k s.issue))

def execMma (s : State) := oneStep s false
def execMmaRst (s : State) := oneStep s true

/-- The bits of a configuration entry that its map does not name zero: a zero field reads as zero, though the entry is stored
as written (R4, R254, R255). -/
def cfgFields (i : Nat) : W :=
  if i = 0x00 ∨ i = 0x09 then 0xFFFF
  else if i = 0x01 then 0x1FF7F7F
  else if 0x10 ≤ i ∧ i < 0x16 then 0xFF3FFFFFFFF
  else if i = 0x30 then 0xFFFFFFFFFFFF
  else if i = 0x31 then 0xFFFFFF
  else BitVec.allOnes 64

/-- What a read of a bank's entry gives. -/
def Bank.read (b : Bank) (i : Nat) : W := b.at_ i &&& cfgFields i

/-- MCFG and its shadow form (R268). -/
def execMcfg (d : Reg) (i : BitVec 11) (s : State) : Host.Outcome State Fault Refusal :=
  onCore s (fun k => k.put .m s.issue d
    (if i.toNat = 0x46 then k.mx.nstep else if 0x40 ≤ i.toNat then (vget k.mx.pos (i.toNat - 0x40) 0).setWidth 64
     else Bank.read k.mx.active i.toNat))
def execMcfgSh (d : Reg) (i : BitVec 11) (s : State) : Host.Outcome State Fault Refusal :=
  onCore s (fun k => k.put .m s.issue d (if 0x40 ≤ i.toNat then 0 else Bank.read k.mx.shadow i.toNat))

def aregOf (n : Reg) : Fin 8 := ⟨n.toNat % 8, Nat.mod_lt _ (by decide)⟩
def handleOf (n : Reg) : Fin 64 := ⟨n.toNat % 64, Nat.mod_lt _ (by decide)⟩
def MState.holds (x : MState) (t : MTarget) : Bool := (x.held.map (·.tgt)) == some t
/-- The held target's sums are discarded (R262). -/
def MState.dropHeld (x : MState) (t : MTarget) : MState := if x.holds t then { x with held := none } else x

/-- An M-path write of a whole tile of 4,096 elements to an a-register. -/
def Core.writeAreg (k : Core) (id : Nat) (n : Fin 8) (es : List W32) : Core :=
  let cs := cellsAt ursSize (k.viewa + 16384 * n.val) (es.flatMap (fun e => leBytes 4 e.toNat))
  { k with urs := k.urs.pathWrite (pathOf .m) id cs }

/-- AZERO and AREL (R261, R262, R268). -/
def execAzero (n : Reg) (s : State) : Host.Outcome State Fault Refusal :=
  onCore s (fun k =>
    let k1 := k.writeAreg s.nextId (aregOf n) (List.replicate 4096 0)
    ({ k1 with mx := (k1.mx.dropHeld (.areg (aregOf n))).setStatus (aregOf n) true true }).finish .m s.issue)
def execArel (n : Reg) (s : State) : Host.Outcome State Fault Refusal :=
  onCore s (fun k =>
    ({ k with mx := (k.mx.dropHeld (.areg (aregOf n))).setStatus (aregOf n) false false }).finish .m s.issue)

/-- Status word of an a-register (R268). -/
def statusOf (x : MState) (n : Fin 8) : W :=
  BitVec.ofNat 64 (bnat (x.valid.getLsbD n.val) + 2 * bnat (x.dirty.getLsbD n.val) + 4 * bnat (x.holds (.areg n)))

/-- ASTAT and its forms: the status before the operation (R261, R268). -/
def execAstat (d n : Reg) (s : State) : Host.Outcome State Fault Refusal :=
  onCore s (fun k => k.put .m s.issue d (statusOf k.mx (aregOf n)))
def execAstatVal (d n : Reg) (s : State) : Host.Outcome State Fault Refusal :=
  onCore s (fun k => ({ k with mx := k.mx.setStatus (aregOf n) true false }).put .m s.issue d (statusOf k.mx (aregOf n)))
def execAstatCln (d n : Reg) (s : State) : Host.Outcome State Fault Refusal :=
  onCore s (fun k =>
    ({ k with mx := k.mx.setStatus (aregOf n) (k.mx.valid.getLsbD (aregOf n).val) false }).put .m s.issue d
      (statusOf k.mx (aregOf n)))

/-- One element of an ACPY (R269). -/
def acpyEl (add i32 : Bool) (dst src : W32) : W32 × Flags :=
  if !add then (src, 0)
  else
    let r := if i32 then groupSumI32 dst.toNat (signed 32 src.toNat) else addF .f32 dst.toNat src.toNat .rne 0
    (BitVec.ofNat 32 r.1, r.2)

/-- The elements of a handle as ACPY reads them: an unbound one gives +0.0 and sets UNB (R59, R269). -/
def Core.readHandle (k : Core) (h : Fin 64) : List W32 :=
  match k.bankOf k.cellId h with
  | some bk => (List.range 4096).map (fun e => BitVec.ofNat 32 (k.bankElem (pathOf .m) bk e))
  | none => List.replicate 4096 0
def Core.noteUnb (k : Core) (h : Fin 64) : Core := if (k.bankOf k.cellId h).isNone then k.setUnb else k
/-- The elements of an a-register, whatever its status. -/
def Core.readAreg (k : Core) (n : Fin 8) : List W32 :=
  (List.range 4096).map (fun e => BitVec.ofNat 32 (leNat (k.ursBytes (pathOf .m) (k.viewa + 16384 * n.val + 4 * e) 4)))

/-- A held target that the instruction names is written back first (R262). -/
def Core.backIf (k : Core) (tick id : Nat) (ts : List MTarget) : MRes :=
  if ts.any k.mx.holds then k.writeBack tick id else .done k

/-- Poisoned bytes of an a-register or a bank that ACPY reads (R328). -/
def acpyBad (s : State) (k : Core) (n : Fin 8) (h : Fin 64) (rdA rdC : Bool) : Option (Nat × Nat) :=
  let c := s.turn.core
  let a := k.viewa + 16384 * n.val
  if rdA && s.poisoned (.urs c) a 16384 then some (1, a % ursSize)
  else match k.bankOf k.cellId h with
    | some b => if rdC && s.poisoned (.cist c) (bankSize * b.val) bankSize then some (3, bankSize * b.val) else none
    | none => none

/-- ACPY into a handle (R269). -/
def acpyToHandle (s : State) (d r : Reg) (add i32 : Bool) : Host.Outcome State Fault Refusal :=
  let h := handleOf d
  let n := aregOf r
  onCore s (fun k => k.settleM s.issue (k.backIf s.tick s.nextId [.handle h, .areg n]) (fun k1 =>
    let src := k1.readAreg n
    let dst := k1.readHandle h
    let es := (dst.zip src).map (fun p => acpyEl add i32 p.1 p.2)
    match k1.bankForWrite s.tick h with
    | .error r => k1.settleM s.issue r id
    | .ok (k2, b) =>
      let k3 := if add then (if (k1.bankOf k1.cellId h).isNone then k2.setUnb else k2) else k2
      let k4 := k3.bankWrite (pathOf .m) (s.nextId + idBack) b 0 (es.flatMap (fun e => leBytes 4 e.1.toNat))
      let k5 := { k4 with mx := k4.mx.setStatus n (k4.mx.valid.getLsbD n.val) false }
      ((k5.setMflg (es.foldl (fun f e => f ||| e.2) 0)).finish .m s.issue).noteBad s.issue (acpyBad s k1 n h true add)))

/-- ACPY into an a-register (R269). -/
def acpyToAreg (s : State) (d r : Reg) (add i32 : Bool) : Host.Outcome State Fault Refusal :=
  let n := aregOf d
  let h := handleOf r
  onCore s (fun k => k.settleM s.issue (k.backIf s.tick s.nextId [.areg n, .handle h]) (fun k1 =>
    match (match k1.bankOf k1.cellId h with | some b => if k1.bankOwned b then some b else none | none => none) with
    | some b => k1.stallOn .m (.bands true b.val)
    | none =>
      let es := ((k1.readAreg n).zip (k1.readHandle h)).map (fun p => acpyEl add i32 p.1 p.2)
      let k2 := (k1.noteUnb h).writeAreg (s.nextId + idBack) n (es.map (·.1))
      let k3 := { k2 with mx := k2.mx.setStatus n true true }
      ((k3.setMflg (es.foldl (fun f e => f ||| e.2) 0)).finish .m s.issue).noteBad s.issue (acpyBad s k1 n h add true)))

def execAcpyChA (d r : Reg) (s : State) := acpyToHandle s d r false false
def execAcpyACh (d r : Reg) (s : State) := acpyToAreg s d r false false
def execAcpyAddChA (d r : Reg) (s : State) := acpyToHandle s d r true false
def execAcpyAddACh (d r : Reg) (s : State) := acpyToAreg s d r true false
def execAcpyI32ChA (d r : Reg) (s : State) := acpyToHandle s d r false true
def execAcpyI32ACh (d r : Reg) (s : State) := acpyToAreg s d r false true
def execAcpyAddI32ChA (d r : Reg) (s : State) := acpyToHandle s d r true true
def execAcpyAddI32ACh (d r : Reg) (s : State) := acpyToAreg s d r true true

/-- CREL (R58, R262, R270): an unbound handle traps cistern misuse before any effect. -/
def execCrel (n : Reg) (s : State) : Host.Outcome State Fault Refusal :=
  onCore s (fun k =>
    let h := handleOf n
    match k.bankOf k.cellId h with
    | none => k.trapAt .m s.issue 0x0B (BitVec.ofNat 64 h.val)
    | some _ => (({ k with mx := k.mx.dropHeld (.handle h) }).unbind k.cellId h).finish .m s.issue)

/-- The CSTAT word (R270). -/
def cstatWord (k : Core) (h : Fin 64) : W :=
  let b := k.bankOf k.cellId h
  let own := match b with
    | none => 0
    | some bk => (List.range 4).foldl (fun acc j =>
        acc + bnat (k.cist.own.any (fun o => o.of == .bank bk && decide (o.lo ≤ j) && decide (j ≤ o.hi))) * 2 ^ j) 0
  BitVec.ofNat 64 (k.cist.free.length * 2 ^ 40 + bnat k.cist.unb * 2 ^ 32 + own * 2 ^ 8
    + bnat (k.mx.holds (.handle h)) * 2 ^ 7 + bnat b.isSome * 2 ^ 6 + (b.map (·.val)).getD 0)

def execCstat (d n : Reg) (s : State) : Host.Outcome State Fault Refusal :=
  onCore s (fun k => k.put .m s.issue d (cstatWord k (handleOf n)))
def execCstatClr (d n : Reg) (s : State) : Host.Outcome State Fault Refusal :=
  onCore s (fun k => ({ k with cist := { k.cist with unb := false } }).put .m s.issue d (cstatWord k (handleOf n)))

end Machine
end Sys2Proof
end

