-- ==== Sys2Proof/Machine/Sampling.lean ====
section
/-! DEFINITION. The sampling unit (R273-R286): its registers, the alias table, draws and the sampled product. -/

namespace Sys2Proof
namespace Machine

/-! ### Registers (R273-R275) -/

/-- A sampling register by its index from 0x100. -/
def Core.sreg (k : Core) (i : Nat) : W := vget k.samp i 0
def Core.setSreg (k : Core) (i : Nat) (x : W) : Core := { k with samp := vset k.samp i x }

abbrev Sregs := Vector W 32
def Sregs.at_ (c : Sregs) (i : Nat) : W := vget c i 0
/-- The well offset in a register, `lo` low bits ignored. -/
def Sregs.off (c : Sregs) (i lo : Nat) : Nat := (c.at_ i).toNat % wellSize / 2 ^ lo * 2 ^ lo

/-- The bits of a sampling register, by its index from 0x100, that its map does not name zero (R4, R273, R274). -/
def sampFields (i : Nat) : W :=
  if i = 0x00 ∨ i = 0x11 then 3
  else if i = 0x01 then 0x7FFFF
  else if [0x02, 0x03, 0x04, 0x07, 0x09].contains i then 0x7FFFFF
  else if i = 0x08 then 0x1FFFFF
  else if i = 0x0A ∨ i = 0x0B ∨ i = 0x14 then 0xFFFFFFFF
  else if i = 0x15 then 7
  else BitVec.allOnes 64

/-- MSRD (R275): zero fields read as zero, though the register is stored as written (R4, R273). -/
def execMsrd (d : Reg) (i : BitVec 12) (s : State) : Host.Outcome State Fault Refusal :=
  onCore s (fun k => k.put .m s.issue d (k.sreg (i.toNat - 0x100) &&& sampFields (i.toNat - 0x100)))
def execMswr (r : Reg) (i : BitVec 12) (s : State) : Host.Outcome State Fault Refusal :=
  onCore s (fun k => (k.setSreg (i.toNat - 0x100) (k.getS .m r)).finish .m s.issue)

/-! ### The alias table (R277-R280) -/

/-- SK and the offset registers that MALIAS uses are in range, with their zero fields zero (R277). -/
def skOk (c : Sregs) : Bool := decide (1 ≤ (c.at_ 1).toNat) && decide ((c.at_ 1).toNat ≤ 262144)
def fitsOff (x : W) : Bool := x.extractLsb' 23 41 == 0
def aliasOk (c : Sregs) : Bool := skOk c && fitsOff (c.at_ 2) && fitsOff (c.at_ 3) && fitsOff (c.at_ 4)

/-- A 4-byte or 8-byte value of the well on path M. -/
def Core.m32 (k : Core) (a : Nat) : Nat := leNat (k.wellBytes (pathOf .m) a 4)
def Core.m64 (k : Core) (a : Nat) : Nat := leNat (k.wellBytes (pathOf .m) a 8)

/-- q_k: the rounded square root of the rounded norm product (R278). -/
def normRoot (a b : Nat) : Nat :=
  let p := (convFp .f32 (fpMul (decode .f32 a) (decode .f32 b)).1 .rne 0).1
  (convFp .f32 (fpSqrt (decode .f32 p)).1 .rne 0).1

/-- The draw weight of an index in units of 2^-24 of a share: the nearest integer to q·K·2^24/Z (R278). -/
def shareOf (kk z q : Nat) : Int :=
  let t := (convFp .f64 (fpDiv (fpScale (fpMul (decode .f32 q) (fpOfInt kk)).1 24) (decode .f64 z)).1 .rne 0).1
  match decode .f64 t with
  | .fin n m e => (roundInt n m e .rne).1
  | _ => 0

/-- The lowest index of a list's greatest value. -/
def argMax : List Int → Nat → Nat → Int → Nat
  | [], _, best, _ => best
  | x :: r, i, best, v => if v < x then argMax r (i + 1) i x else argMax r (i + 1) best v

/-- The pairing loop of R278: shares, the stacks of small and large indices (top first), thresholds and aliases. -/
def pairUp : Nat → List Int → List Nat → List Nat → List (Nat × Nat × Nat) → List (Nat × Nat × Nat)
  | 0, _, _, _, out => out
  | n + 1, p, l :: small, g :: large, out =>
    let pg := p.getD g 0 + p.getD l 0 - 2 ^ 24
    let p1 := p.set g pg
    let out1 := (l, (p.getD l 0).toNat, g) :: out
    if pg < 2 ^ 24 then pairUp n p1 (g :: small) large out1 else pairUp n p1 small (g :: large) out1
  | _, _, _, _, out => out

/-- A table word: WEIGHT, ALIAS, THR (R279). -/
def aliasWord (wgt ali thr : Nat) : Nat := wgt * 2 ^ 48 + ali * 2 ^ 24 + thr

/-- The weight Z/q as BF16, through FP64, with its overflow (R278). -/
def weightOf (z q : Nat) : Nat × Flags :=
  if (decode .f32 q).isZero then (0, 0) else
  let t := (convFp .f64 (fpDiv (decode .f64 z) (decode .f32 q)).1 .rne 0).1
  let w := convFp .bf16 (decode .f64 t) .rne 0
  (w.1, w.2 &&& Flags.of)

/-- The table of R278 for roots `q` and their sum `z`: its words and MFLG.OF. -/
def aliasTable (z : Nat) (q : List Nat) : List Nat × Flags :=
  let kk := q.length
  let p0 := q.map (shareOf kk z)
  let kx := argMax p0 0 0 (-1)
  let p := p0.set kx (p0.getD kx 0 + ((kk * 2 ^ 24 : Nat) - p0.foldl (· + ·) 0))
  let idx := List.range kk
  let small := (idx.filter (fun i => decide (p.getD i 0 < 2 ^ 24))).reverse
  let large := (idx.filter (fun i => !decide (p.getD i 0 < 2 ^ 24))).reverse
  let out := pairUp (2 * kk + 1) p small large []
  let ws := q.map (weightOf z)
  (idx.map (fun i => match out.find? (fun o => o.1 == i) with
    | some (_, thr, ali) => aliasWord (ws.getD i (0, 0)).1 ali thr
    | none => aliasWord (ws.getD i (0, 0)).1 i 0),
   ws.foldl (fun f w => f ||| w.2) 0)

/-- The first 4-byte element of two vectors that carries an uncorrectable error. -/
def normBad (s : State) (c : Sregs) : Option (Nat × Nat) :=
  if s.poison.isEmpty then none else
  (List.range (c.at_ 1).toNat).findSome? (fun i =>
    let a := (c.off 2 2 + 4 * i) % wellSize
    let b := (c.off 3 2 + 4 * i) % wellSize
    if s.poisoned (.well s.turn.core) a 4 then some (0, a)
    else if s.poisoned (.well s.turn.core) b 4 then some (0, b) else none)

/-- MALIAS begins (R277, R278): the norms are read, and what it writes is settled: the table's words, SZ, SSTAT and flags. -/
def Core.aliasStart (k : Core) (s : State) : MRun :=
    let c : Sregs := k.samp
    let q := (List.range (c.at_ 1).toNat).map (fun i => normRoot (k.m32 (c.off 2 2 + 4 * i)) (k.m32 (c.off 3 2 + 4 * i)))
    let inval := q.any (fun x => (decode .f32 x).isNan || (decode .f32 x).isInf)
    let z := q.foldl (fun z x => (convFp .f64 (fpAdd (decode .f64 z) (decode .f32 x) .rne).1 .rne 0).1) 0
    let sz : W := BitVec.ofNat 64 z
    if inval then .table (c.off 4 3) [] sz 2 Flags.iv (normBad s c) s.issue
    else if (decode .f64 z).isZero then .table (c.off 4 3) [] sz 1 0 (normBad s c) s.issue
    else .table (c.off 4 3) (aliasTable z q).1 sz 0 (aliasTable z q).2 (normBad s c) s.issue

/-- MALIAS goes on (R280): the words of one 64-byte chunk are written, or, once all are, SZ, SSTAT and the flags, and it
completes. -/
def Core.aliasStep (k : Core) (id : Nat) : Core :=
  match k.mx.run with
  | .table a (w :: ws) sz st fl bad i =>
    let n := 8 - a % 64 / 8
    let k1 := k.wellWrite (pathOf .m) id a (((w :: ws).take n).flatMap (leBytes 8))
    { k1 with mx := { k1.mx with run := .table (a + 8 * n) ((w :: ws).drop n) sz st fl bad i } }
  | .table _ [] sz st fl bad i =>
    ((((({ k with mx := { k.mx with run := .idle } }).setSreg 0x10 sz).setSreg 0x11 st).setMflg fl).finish .m i).noteBad i bad
  | _ => k

/-- MALIAS (R277-R280): its issue, or its next step. Another engine may take a trap, or the superstep be pre-empted, between
two of them. -/
def execMalias (s : State) : Host.Outcome State Fault Refusal :=
  onCore s (fun k =>
    match k.mx.run with
    | .idle =>
      if !aliasOk k.samp then k.illegal .m s.issue
      else { k with mx := { k.mx with run := k.aliasStart s } }.modCtx .m (fun x => { x with wait := none })
    | _ => k.aliasStep s.nextId)

/-! ### Draws (R281) -/

/-- Draws in a group: the group size of MSAMP (R282). -/
def drawGroup (t : BitVec 4) : Nat := 1536 / typeWidth t

/-- The 64-bit word of a draw, and the index it names first. -/
def Core.drawWord (k : Core) (c : Sregs) (sctr : W) : Nat :=
  if (c.at_ 0).getLsbD 0 then k.m64 (c.off 7 3 + 8 * (sctr.toNat % (c.at_ 8).toNat)) else (mix sctr (c.at_ 5)).toNat
def drawIndex (c : Sregs) (w : Nat) : Nat := w % 2 ^ 32 * (c.at_ 1).toNat / 2 ^ 32

/-- One draw: the word, the table entry and the pick; SCTR moves on and SREC records the pick. -/
def Core.draw (k : Core) (c : Sregs) (id scnt d : Nat) : Core × Nat × Nat :=
  let sctr := k.sreg 6
  let w := k.drawWord c sctr
  let j := drawIndex c w
  let e := k.m64 (c.off 4 3 + 8 * j)
  let pick := if w / 2 ^ 32 % 2 ^ 24 < e % 2 ^ 24 then j else e / 2 ^ 24 % 2 ^ 24
  let k1 := k.setSreg 6 (sctr + 1)
  let k2 := if (c.at_ 0).getLsbD 1 then k1.wellWrite (pathOf .m) (id + d) (c.off 9 2 + 4 * (scnt + d)) (leBytes 4 pick) else k1
  (k2, pick, k2.m64 (c.off 4 3 + 8 * pick) / 2 ^ 48)

/-- The draws of a group, in order. -/
def Core.draws (k : Core) (c : Sregs) (id scnt : Nat) : Nat → Nat → Core × List (Nat × Nat)
  | 0, _ => (k, [])
  | n + 1, d =>
    let r := k.draw c id scnt d
    let t := Core.draws r.1 c id scnt n (d + 1)
    (t.1, r.2 :: t.2)

/-! ### MSAMP (R282-R285) -/

/-- The conditions of R282. -/
def sampOk (c : Sregs) (b : Bank) : Bool :=
  bankOk b && !b.isInt && !b.aunf && !b.atile && !b.btile && skOk c && c.at_ 0xB != 0
    && (!(c.at_ 0).getLsbD 0 || (decide (1 ≤ (c.at_ 8).toNat) && decide ((c.at_ 8).toNat ≤ 1048576)))
    && (c.at_ 0).extractLsb' 2 62 == 0 && (c.at_ 0x11).extractLsb' 2 62 == 0
    && [2, 3, 4, 7, 9].all (fun i => fitsOff (c.at_ i)) && (c.at_ 8).extractLsb' 21 43 == 0
    && (c.at_ 0xA).extractLsb' 32 32 == 0 && (c.at_ 0xB).extractLsb' 32 32 == 0

/-- Element (m, k) of A and (n, k) of B with no level sums, and one weighted product (R283). -/
def sampA (k : Core) (b : Bank) (m q : Nat) : Nat :=
  mElem (k.mByte none) wellSize (typeWidth b.atype) (rowA b 0 m) (q * typeWidth b.atype)
def sampProd (b : Bank) (wt ea sa eb sb : Nat) : Fp × Flags :=
  let p := fpMul (decode .bf16 wt) (scaled sa (decode (typeFmt b.atype) ea))
  let r := fpMul p.1 (scaled sb (decode (typeFmt b.btype) eb))
  (r.1, p.2 ||| r.2)

/-- The sums after one group, with flags. -/
def sampSums (k : Core) (b : Bank) (ps : List (Nat × Nat)) (h : Held) : List W32 × Flags :=
  let as := (List.range h.mlim).map (fun m => ps.map (fun p => (sampA k b m p.1, scaleA k b 0 m p.1)))
  let bs := (List.range h.nlim).map (fun n => ps.map (fun p => (elemB k b 0 none n p.1, scaleB k b 0 n p.1)))
  let wts := ps.map (·.2)
  let out := (List.range 4096).map (fun e =>
    let m := e / 64
    let n := e % 64
    if m < h.mlim && n < h.nlim then
      let r := groupSum (h.acc.getD e 0).toNat ((wts.zip ((as.getD m []).zip (bs.getD n []))).map
        (fun x => sampProd b x.1 x.2.1.1 x.2.1.2 x.2.2.1 x.2.2.2))
      (BitVec.ofNat 32 r.1, r.2)
    else (h.acc.getD e 0, 0))
  (out.map (·.1), out.foldl (fun f p => f ||| p.2) 0)

/-- The FP32 pairwise tree of 64 values, and Norm2 (R284). -/
def treeSum (xs : List Nat) : Nat := (treeN (fun x y => (addF .f32 x y .rne 0).1) 6 xs).headD 0
def norm2 (h : Held) : Nat :=
  treeSum ((List.range 64).map (fun m => treeSum ((List.range 64).map (fun n =>
    if m < h.mlim && n < h.nlim then
      let x := (h.acc.getD (64 * m + n) 0).toNat
      (mulF .f32 x x .rne 0).1
    else 0))))

/-- Var (R284): (Z·Z·s·s − N) / (N·s), exact, rounded once. -/
def sampVar (z cnt n : Nat) : Nat :=
  let nf := decode .f32 n
  if nf.isNan || nf.isInf then 0x7FF8000000000000
  else if nf.isZero then 0x7FF0000000000000
  else
    let zs := (fpMul (decode .f64 z) (fpOfInt cnt)).1
    let num := (fpAdd (fpMul zs zs).1 (fpNeg nf) .rne).1
    (convFp .f64 (fpDiv num (fpMul nf (fpOfInt cnt)).1).1 .rne 0).1

/-- SVAR ≤ STAU·STAU, the exact values compared; false with a NaN (R283, R284). -/
def varStop (v tau : Nat) : Bool :=
  let x := decode .f64 v
  let t := (fpMul (decode .f64 tau) (decode .f64 tau)).1
  !x.isNan && !t.isNan && decide (fpCmp x t ≤ 0)

/-- The write back at the end of MSAMP; then SEXIT is written and the instruction completes (R285). -/
def Core.sampBack (k : Core) (tick id : Nat) (c : Sregs) (flags : Flags) (i : Issue) : Core :=
  { k with mx := { k.mx with run := .samp c true flags i } }.settleM i
    ({ k with mx := { k.mx with run := .samp c true flags i } }.writeBack tick id) (fun k1 =>
    (({ k1 with mx := { k1.mx with run := .idle } }.setSreg 0x15 (c.at_ 0x15)).setMflg flags).finish .m i)

/-- Exit(1) and Exit(2): the sums divided by the number of draws. -/
def sampMean (h : Held) (cnt : Nat) : List W32 × Flags :=
  let out := (List.range 4096).map (fun e =>
    if e / 64 < h.mlim && e % 64 < h.nlim then
      let r := fin1 .f32 (fpDiv (decode .f32 (h.acc.getD e 0).toNat) (fpOfInt cnt)) .rne 0
      (BitVec.ofNat 32 r.1, r.2)
    else (h.acc.getD e 0, 0))
  (out.map (·.1), out.foldl (fun f p => f ||| p.2) 0)

/-- MSAMP (R282, R283): checks, write back of a held target, then the groups, one to a step. -/
def execMsamp (s : State) : Host.Outcome State Fault Refusal :=
  onCore s (fun k =>
    let c : Sregs := k.samp
    let b : Bank := k.mx.active
    if !sampOk c b then k.illegal .m s.issue
    else k.settleM s.issue (k.writeBack s.tick s.nextId) (fun k1 =>
      let h : Held := {
        tgt := targetAt b 0, acc := List.replicate 4096 0, mlim := limitM b true, nlim := limitN b true,
        actM := BitVec.allOnes 64, actN := BitVec.allOnes 64 }
      let k2 := { (k1.setSreg 0x15 0).setSreg 0x12 0 with
          mx := { k1.mx with held := some h, run := .samp c false 0 s.issue } }.modCtx .m (fun x => { x with wait := none })
      if (c.at_ 0x11).getLsbD 1 then k2.sampBack s.tick (s.nextId + idBack) (vset c 0x15 4) 0 s.issue
      else if (c.at_ 0x11).getLsbD 0 then k2.sampBack s.tick (s.nextId + idBack) (vset c 0x15 3) 0 s.issue
      else k2))

/-- Bytes of the well or URS that a group reads and that carry an uncorrectable error (R328). -/
def sampBad (s : State) (k : Core) (c : Sregs) (b : Bank) (ps : List (Nat × Nat)) (h : Held) : Option (Nat × Nat) :=
  if s.poison.isEmpty then none else
  let w := typeWidth b.atype
  let wellBad (a : Int) (n : Nat) : Option (Nat × Nat) :=
    let a := (a % (wellSize : Int)).toNat
    if s.poisoned (.well s.turn.core) a n then some (0, a) else none
  let ursBad (a : Int) (n : Nat) : Option (Nat × Nat) :=
    let a := (a % (ursSize : Int)).toNat
    if s.poisoned (.urs s.turn.core) a n then some (1, a) else none
  let first := k.sreg 6 - BitVec.ofNat 64 ps.length
  let list := (List.range ps.length).findSome? (fun d =>
    let sctr := first + BitVec.ofNat 64 d
    (if (c.at_ 0).getLsbD 0 then wellBad (c.off 7 3 + 8 * (sctr.toNat % (c.at_ 8).toNat) : Nat) 8 else none).or
      (wellBad (c.off 4 3 + 8 * drawIndex c (k.drawWord c sctr) : Nat) 8))
  let scales (p : Nat) : Option (Nat × Nat) :=
    (if b.sca then badWell s ((List.range h.mlim).map (fun m => scaleByte (b.fld 7 0 23) 0 (b.s32 3) w m p)) else none).or
      (if b.scb then badWell s ((List.range h.nlim).map (fun n =>
        scaleByte (b.fld 8 0 23) 0 (if b.bsrc then b.s32 5 else 192) (typeWidth b.btype) n p)) else none)
  (list.or (ps.findSome? (fun p => scales p.1))).or (ps.findSome? (fun p =>
    ((wellBad (c.off 4 3 + 8 * p.1 : Nat) 8).or
      ((List.range h.mlim).findSome? (fun m => wellBad (rowA b 0 m + (p.1 * w / 8 : Nat)) (max 1 (w / 8))))).or
      ((List.range h.nlim).findSome? (fun n =>
        let a := rowB b 0 n + (p.1 * w / 8 : Nat)
        if b.bsrc then wellBad a (max 1 (w / 8)) else ursBad a (max 1 (w / 8))))))

/-- MSAMP_GROUP (R283, R286): one group of draws, its sums, N and SVAR, and the tests; or a write back still due. -/
def execMsampGroup (s : State) : Host.Outcome State Fault Refusal :=
  onCore s (fun k =>
    match k.mx.run with
    | .samp c0 wb flags i =>
      let c : Sregs := c0
      if wb then k.sampBack s.tick s.nextId c flags i else
      match k.mx.held with
      | none => k
      | some h =>
        let b : Bank := k.mx.active
        let g := drawGroup b.atype
        let scnt := (k.sreg 0x12).toNat
        let r := k.draws c (s.nextId + idBack) scnt g 0
        let t := sampSums r.1 b r.2 h
        let h1 : Held := { h with acc := t.1 }
        let n := norm2 h1
        let cnt := scnt + g
        let v := sampVar (c.at_ 0x10).toNat cnt n
        let fl := flags ||| t.2
        let k1 := ((r.1.setSreg 0x12 (BitVec.ofNat 64 cnt)).setSreg 0x14 (BitVec.ofNat 64 n)).setSreg 0x13 (BitVec.ofNat 64 v)
        let k2 := { k1 with mx := { k1.mx with held := some h1, run := .samp c false fl i } }.noteBad i
          (sampBad s r.1 c b r.2 h)
        let code : Nat :=
          if (c.at_ 0xA).toNat ≤ cnt && varStop v (c.at_ 0xC).toNat then 1
          else if (c.at_ 0xB).toNat ≤ cnt then 2 else 0
        if code = 0 then k2 else
        let mean := sampMean h1 cnt
        { k2 with mx := { k2.mx with held := some { h1 with acc := mean.1 } } }.sampBack s.tick s.nextId
          (vset c 0x15 (BitVec.ofNat 64 code)) (fl ||| mean.2) i
    | _ => k)

end Machine
end Sys2Proof
end

