-- ==== Sys2Proof/Machine/Vector.lean ====
section
/-! DEFINITION. The V-specific instructions (R217-R245): one meaning for each, over lanes. Sources are read as the issue
slot begins; the result lands later (R211). -/

namespace Sys2Proof
namespace Machine

/-! ### Lanes -/

/-- The mask of the instruction, and the DAZ mode. -/
def State.act (s : State) (i : Nat) : Bool := s.core.active s.issue i
def State.zing (s : State) : Bool := s.issue.zeroing
def State.daz (s : State) : Bool := s.core.csr.daz
def State.vr (s : State) (r : Reg) : VReg := s.core.vreg r

/-- Element `i` of a source with subnormals flushed under DAZ (R90, R217). -/
def State.el (s : State) (r : Reg) (t : BitVec 4) (i : Nat) : Nat := flush s.daz t (elemAt (s.vr r) (typeWidth t) i)

/-- Flags of the active lanes. -/
def laneFlags (cnt : Nat) (act : Nat → Bool) (f : Nat → Nat × Flags) : Flags :=
  (List.range cnt).foldl (fun acc i => if act i then acc ||| (f i).2 else acc) 0

/-- A result computed lane by lane, one destination element per lane. -/
def lanesResult (s : State) (srcs : List Reg) (cls : Nat) (d : Reg) (w cnt : Nat) (f : Nat → Nat × Flags)
    (g : Core → Core := id) : Host.Outcome State Fault Refusal :=
  vResult s srcs cls d [lanePart w cnt s.act s.zing (fun i => (f i).1)] (laneFlags cnt s.act f) g

/-- The rounding mode of a VX instruction: VMODE.RM under DYN (R103, R217). -/
def State.vmodeRm (s : State) (dyn : Bool) (rm : BitVec 3) : RMode := rmodeOf (if dyn then s.core.csr.rm else rm)

/-- The draw of lane `i` (R86). -/
def State.draw (s : State) (i : Nat) : Nat := drawU s.core.csr.vsrc s.core.csr.vsrk i

/-- A mode instruction adds its element count to VSRC at issue (R86, R217). -/
def Core.advance (k : Core) (n : Nat) : Core := { k with csr := { k.csr with vsrc := k.csr.vsrc + BitVec.ofNat 64 n } }

/-- The slot after this one is busy (R209). -/
def Core.busyNext (k : Core) (b : Bool) : Core := if b then { k with vp := { k.vp with busy := true } } else k

/-! ### Loads, stores and moves (R221-R224) -/

/-- A VW address: imm14 is unsigned and counts 64-byte units, and the address is 64-byte aligned (R103, R104, R221). -/
def vwAddr (s : State) (b : Reg) (i : BitVec 14) : Nat :=
  ((s.src b).toNat + i.toNat * 64) % wellSize / 64 * 64

/-- A well error of V, taken at its next issue boundary (R328). -/
def Core.vWellError (k : Core) (s : State) (a n : Nat) : Core :=
  if s.poisoned (.well s.turn.core) a n then k.dataError .v s.issue 0 a else k

/-- Bytes of the well on path V as lanes. -/
def loadLane (s : State) (a i : Nat) : Nat := (s.core.well.get (pathOf .v) ((a + i) % wellSize)).toNat

def execVld (d b : Reg) (i : BitVec 14) (s : State) : Host.Outcome State Fault Refusal :=
  let a := vwAddr s b i
  vResult s [] clsLoad d [lanePart 8 512 s.act s.zing (loadLane s a)] 0 (fun k => k.vWellError s a 512)

/-- The active bytes of a source written to the well by path V, and the instruction completes (R221, R223). -/
def storeBytes (s : State) (a : Reg) (ok : Nat → Bool) (addr : Nat) : Host.Outcome State Fault Refusal :=
  let v := s.vr a
  let cells := ((List.range 512).filter (fun i => s.act i && ok i)).map (fun i => ((addr + i) % wellSize, BitVec.ofNat 8 (elemAt v 8 i)))
  onCore s (fun k =>
    let k1 := { k with well := k.well.pathWrite (pathOf .v) s.nextId cells }.finish .v s.issue
    match vPoison s ([a] ++ (match s.issue.mask with | some (m, _, _) => [m] | none => [])) with
    | some o => { k1 with lateV := some (BitVec.ofNat 64 (2 ^ 62 + o), tlineOf (k.ctx .v) .v s.issue.lane) }
    | none => k1)

def execVst (a b : Reg) (i : BitVec 14) (s : State) : Host.Outcome State Fault Refusal :=
  storeBytes s a (fun _ => true) (vwAddr s b i)

/-- Byte offset in a tile, and a byte that lies within its length (R63, R222). -/
def tileOff (s : State) (r : Reg) : Nat := ((s.src r).toNat * 512) % wellSize
def tileIn (x : Tile) (o i : Nat) : Bool := decide (o + i < x.len)

def execVldt (d r : Reg) (t : BitVec 8) (s : State) : Host.Outcome State Fault Refusal :=
  let x := s.core.tile t.toNat
  let o := tileOff s r
  let a := x.base.toNat + o
  if x.state ≠ .ready then onCore s (fun k => k.stallOn .v (.tiles [t.toNat]))
  else vResult s [] clsLoad d [lanePart 8 512 s.act s.zing (fun i => if tileIn x o i then loadLane s a i else 0)] 0
    (fun k => k.vWellError s (a % wellSize) (min 512 (x.len - o)))

def execVstt (a r : Reg) (t : BitVec 8) (s : State) : Host.Outcome State Fault Refusal :=
  let x := s.core.tile t.toNat
  let o := tileOff s r
  if x.state ≠ .ready then onCore s (fun k => k.stallOn .v (.tiles [t.toNat]))
  else storeBytes s a (tileIn x o) ((x.base.toNat + o) % wellSize)

/-- Moves: the bit pattern unchanged (R224). -/
def State.raw (s : State) (r : Reg) (t : BitVec 4) (i : Nat) : Nat := elemAt (s.vr r) (typeWidth t) i

def execVmov (d a : Reg) (t : BitVec 4) (s : State) :=
  lanesResult s [a] clsAlu d (typeWidth t) (typeCount t) (fun i => (s.raw a t i, 0))
def execVsplat (d b : Reg) (t : BitVec 4) (s : State) :=
  lanesResult s [] clsAlu d (typeWidth t) (typeCount t) (fun _ => ((s.src b).toNat % 2 ^ typeWidth t, 0))
/-- VMOVS (R224): sign-extended for signed integer types, zero-extended for every other. -/
def execVmovs (d a i : Reg) (t : BitVec 4) (s : State) :=
  let x := s.raw a t ((s.src i).toNat % typeCount t)
  vScalar s [a] clsAlu d (if typeSigned t then extend64 t x else BitVec.ofNat 64 x) 0

/-! ### VARITH (R225) -/

/-- A wrapping integer result. -/
def wrapEl (t : BitVec 4) (x : Int) : Nat := wrap (typeWidth t) x

/-- A floating operation of one rounding on a lane. -/
def floatLane (t : BitVec 4) (r : Fp × Flags) (rm : RMode) (u : Nat) : Nat × Flags := fin1 (typeFmt t) r rm u

/-- A lane-by-lane operation of two registers: integer or floating by the type. -/
def arith2 (s : State) (cls : Nat) (d a b : Reg) (t : BitVec 4) (mode : Bool) (fi : Int → Int → Int)
    (ff : Fp → Fp → Fp × Flags) : Host.Outcome State Fault Refusal :=
  let rm := s.vmodeRm true 0
  lanesResult s [a, b] cls d (typeWidth t) (typeCount t)
    (fun i =>
      if typeInt t then (wrapEl t (fi (intOf t (s.raw a t i)) (intOf t (s.raw b t i))), 0)
      else floatLane t (ff (decode (typeFmt t) (s.el a t i)) (decode (typeFmt t) (s.el b t i))) rm (s.draw i))
    (fun k => if mode && !typeInt t then k.advance (typeCount t) else k)

/-- The mode with which a zero sum takes its sign. -/
def State.sumRm (s : State) (t : BitVec 4) : RMode := srFor (typeFmt t) (s.vmodeRm true 0)

def execVadd (d a b : Reg) (t : BitVec 4) (s : State) := arith2 s clsAlu d a b t true (· + ·) (fun x y => fpAdd x y (s.sumRm t))
def execVsub (d a b : Reg) (t : BitVec 4) (s : State) :=
  arith2 s clsAlu d a b t true (· - ·) (fun x y => fpAdd x (fpNeg y) (s.sumRm t))
/-- VMUL; a busy slot follows for f64 (R209). -/
def execVmul (d a b : Reg) (t : BitVec 4) (s : State) : Host.Outcome State Fault Refusal :=
  lanesResult s [a, b] clsMul d (typeWidth t) (typeCount t)
    (fun i =>
      if typeInt t then (wrapEl t (intOf t (s.raw a t i) * intOf t (s.raw b t i)), 0)
      else floatLane t (fpMul (decode (typeFmt t) (s.el a t i)) (decode (typeFmt t) (s.el b t i))) (s.vmodeRm true 0) (s.draw i))
    (fun k => (if typeInt t then k else k.advance (typeCount t)).busyNext (t == 11))

/-- MIN and MAX: integers by signedness, floats by R77. -/
def minMax (s : State) (mx : Bool) (d a b : Reg) (t : BitVec 4) : Host.Outcome State Fault Refusal :=
  lanesResult s [a, b] clsAlu d (typeWidth t) (typeCount t) (fun i =>
    if typeInt t then
      let x := intOf t (s.raw a t i)
      let y := intOf t (s.raw b t i)
      (wrapEl t (if mx then max x y else min x y), 0)
    else fpMinMax mx (typeFmt t) (s.el a t i) (s.el b t i))

def execVmin (d a b : Reg) (t : BitVec 4) (s : State) := minMax s false d a b t
def execVmax (d a b : Reg) (t : BitVec 4) (s : State) := minMax s true d a b t

/-- Sign bit of an element. -/
def signBit (t : BitVec 4) : Nat := 2 ^ (typeWidth t - 1)

/-- ABS and NEG change only the sign bit of a float, and wrap for an integer (R77, R225). -/
def execVabs (d a : Reg) (t : BitVec 4) (s : State) : Host.Outcome State Fault Refusal :=
  lanesResult s [a] clsAlu d (typeWidth t) (typeCount t) (fun i =>
    let x := s.raw a t i
    if typeInt t then (wrapEl t (if intOf t x < 0 then -(intOf t x) else intOf t x), 0)
    else (x % signBit t, 0))
def execVneg (d a : Reg) (t : BitVec 4) (s : State) : Host.Outcome State Fault Refusal :=
  lanesResult s [a] clsAlu d (typeWidth t) (typeCount t) (fun i =>
    let x := s.raw a t i
    if typeInt t then (wrapEl t (-(intOf t x)), 0) else ((x + signBit t) % 2 ^ typeWidth t, 0))

/-- Bitwise and shift operations on the encodings. -/
def bits2 (s : State) (d a b : Reg) (t : BitVec 4) (f : Nat → Nat → Nat) : Host.Outcome State Fault Refusal :=
  lanesResult s [a, b] clsAlu d (typeWidth t) (typeCount t) (fun i => (f (s.raw a t i) (s.raw b t i), 0))

def execVand (d a b : Reg) (t : BitVec 4) (s : State) := bits2 s d a b t (· &&& ·)
def execVor (d a b : Reg) (t : BitVec 4) (s : State) := bits2 s d a b t (· ||| ·)
def execVxor (d a b : Reg) (t : BitVec 4) (s : State) := bits2 s d a b t (· ^^^ ·)
def execVshl (d a b : Reg) (t : BitVec 4) (s : State) := bits2 s d a b t (fun x y => x * 2 ^ (y % typeWidth t))
def execVshr (d a b : Reg) (t : BitVec 4) (s : State) := bits2 s d a b t (fun x y => x / 2 ^ (y % typeWidth t))
/-- VSRA: the sign of the element shifts in, with the signedness of the type, so zeros for an unsigned type (R225, DEDUCED, log 9). -/
def execVsra (d a b : Reg) (t : BitVec 4) (s : State) :=
  bits2 s d a b t (fun x y => wrapEl t (intOf t x / 2 ^ (y % typeWidth t)))

/-- Saturating sums and differences (R84, R89, R225). -/
def sat2 (s : State) (d a b : Reg) (t : BitVec 4) (f : Int → Int → Int) : Host.Outcome State Fault Refusal :=
  let r := intRange (typeSigned t) (typeWidth t)
  lanesResult s [a, b] clsAlu d (typeWidth t) (typeCount t) (fun i =>
    let c := clamp r.1 r.2 (f (intOf t (s.raw a t i)) (intOf t (s.raw b t i)))
    (wrapEl t c.1, satFlags c.2))

def execVadds (d a b : Reg) (t : BitVec 4) (s : State) := sat2 s d a b t (· + ·)
def execVsubs (d a b : Reg) (t : BitVec 4) (s : State) := sat2 s d a b t (· - ·)

/-! ### VFMA and VFMS (R226) -/

/-- One lane of a fused multiply-add. -/
def fmaLane (s : State) (neg : Bool) (t t2 : BitVec 4) (rm : RMode) (x y c u : Nat) : Nat × Flags :=
  let cc := decode (typeFmt t2) (flush s.daz t2 c)
  floatLane t2 (fpFma (decode (typeFmt t) (flush s.daz t x)) (decode (typeFmt t) (flush s.daz t y))
    (if neg then fpNeg cc else cc) (srFor (typeFmt t2) rm)) rm u

/-- Registers of an interleaved group result (R205): element i in register i mod k, at position i / k. -/
def groupParts (w k cnt : Nat) (f : Nat → Nat) : List (VReg × VReg) :=
  (List.range k).map (fun j => wholePart (packEls w ((List.range (cnt / k)).map (fun p => f (p * k + j)))))

/-- VFMA and VFMS; the widening form is not maskable, and it and f64 take a busy slot (R209, R226). -/
def fmaResult (s : State) (neg : Bool) (d a b c : Reg) (t t2 : BitVec 4) (rm : RMode) : Host.Outcome State Fault Refusal :=
  let n := typeCount t
  let w := typeWidth t
  if t2 = t then
    lanesResult s [a, b, c] clsFma d w n
      (fun i => fmaLane s neg t t2 rm (s.raw a t i) (s.raw b t i) (s.raw c t i) (s.draw i))
      (fun k => (k.advance n).busyNext (t == 11))
  else
    let f (i : Nat) : Nat × Flags := fmaLane s neg t t2 rm (s.raw a t i) (s.raw b t i) (s.core.groupEl c 2 32 i) (s.draw i)
    vResult s [a, b, c, c + 1] clsFma d (groupParts 32 2 n (fun i => (f i).1)) (laneFlags n (fun _ => true) f)
      (fun k => (k.advance n).busyNext true)

def execVfma (d a b c : Reg) (t t2 : BitVec 4) (dyn : Bool) (rm : BitVec 3) (s : State) :=
  fmaResult s false d a b c t t2 (s.vmodeRm dyn rm)
def execVfms (d a b c : Reg) (t t2 : BitVec 4) (dyn : Bool) (rm : BitVec 3) (s : State) :=
  fmaResult s true d a b c t t2 (s.vmodeRm dyn rm)

/-! ### Compare and select (R227, R228) -/

/-- A condition of VCMP from the order of two values. -/
def condOf (c : Nat) (lt eq un : Bool) : Bool :=
  match c with
  | 0 => !un && eq | 1 => un || !eq | 2 => !un && lt | 3 => !un && (lt || eq) | 4 => !un && !lt && !eq | 5 => !un && !lt
  | 6 => un | _ => !un

def cmpLane (s : State) (a b : Reg) (t c : BitVec 4) (i : Nat) : Nat × Flags :=
  if typeInt t then
    let x := intOf t (s.raw a t i)
    let y := intOf t (s.raw b t i)
    (bnat (condOf c.toNat (decide (x < y)) (x == y) false), 0)
  else
    -- equality tests do not flush (R217)
    let x := decode (typeFmt t) (if c.toNat < 2 then s.raw a t i else s.el a t i)
    let y := decode (typeFmt t) (if c.toNat < 2 then s.raw b t i else s.el b t i)
    let un := x.isNan || y.isNan
    let o := fpCmp x y
    (bnat (condOf c.toNat (decide (o < 0)) (o == 0) un), if x.isSnan || y.isSnan then Flags.iv else 0)

/-- VCMP: bit i for lane i, and zeros above the last lane. -/
def execVcmp (d a b : Reg) (t c : BitVec 4) (s : State) : Host.Outcome State Fault Refusal :=
  let n := typeCount t
  let p := lanePart 1 n s.act s.zing (fun i => (cmpLane s a b t c i).1)
  let above : VReg := BitVec.allOnes 4096 <<< n
  vResult s [a, b] clsAlu d [(p.1, p.2 ||| above)] (laneFlags n s.act (cmpLane s a b t c))

/-- VSEL: Z is ignored (R228). -/
def execVsel (d a b : Reg) (t : BitVec 4) (s : State) : Host.Outcome State Fault Refusal :=
  vResult s [a, b] clsAlu d
    [wholePart (packEls (typeWidth t) ((List.range (typeCount t)).map (fun i => if s.act i then s.raw a t i else s.raw b t i)))] 0

/-! ### Conversions (R229, R230) -/

/-- One element converted between two types (R85, R88, R229). -/
def cvtEl (t t2 : BitVec 4) (x : Nat) (rm : RMode) (u : Nat) : Nat × Flags :=
  match typeInt t, typeInt t2 with
  | false, false => convFp (typeFmt t2) (decode (typeFmt t) x) rm u
  | false, true => floatToInt (typeSigned t2) (typeWidth t2) (decode (typeFmt t) x) rm
  | true, false => convFp (typeFmt t2) (fpOfInt (intOf t x)) rm u
  | true, true =>
    if typeWidth t < typeWidth t2 then (wrap (typeWidth t2) (intOf t x), 0)
    else
      let r := intRange (typeSigned t2) (typeWidth t2)
      let c := clamp r.1 r.2 (intOf t x)
      (wrap (typeWidth t2) c.1, satFlags c.2)

def execVcvt (d a : Reg) (t t2 : BitVec 4) (dyn : Bool) (rm : BitVec 3) (s : State) : Host.Outcome State Fault Refusal :=
  lanesResult s [a] clsCvt d (typeWidth t2) (typeCount t2)
    (fun i => cvtEl t t2 (s.el a t i) (s.vmodeRm dyn rm) (s.draw i)) (fun k => k.advance (typeCount t2))

/-- VWID: the elements of va into an interleaved group (R205, R230). -/
def execVwid (d a : Reg) (t t2 : BitVec 4) (dyn : Bool) (rm : BitVec 3) (s : State) : Host.Outcome State Fault Refusal :=
  let n := typeCount t
  let f (i : Nat) : Nat × Flags := cvtEl t t2 (s.el a t i) (s.vmodeRm dyn rm) (s.draw i)
  vResult s [a] clsCvt d (groupParts (typeWidth t2) (typeWidth t2 / typeWidth t) n (fun i => (f i).1))
    (laneFlags n (fun _ => true) f) (fun k => k.advance n)

/-- VNAR: an interleaved group into vd. -/
def execVnar (d a : Reg) (t t2 : BitVec 4) (dyn : Bool) (rm : BitVec 3) (s : State) : Host.Outcome State Fault Refusal :=
  let n := typeCount t2
  let g := typeWidth t / typeWidth t2
  let f (i : Nat) : Nat × Flags :=
    cvtEl t t2 (flush s.daz t (s.core.groupEl a g (typeWidth t) i)) (s.vmodeRm dyn rm) (s.draw i)
  vResult s ((List.range g).map (fun j => a + BitVec.ofNat 6 j)) clsCvt d
    [wholePart (packEls (typeWidth t2) ((List.range n).map (fun i => (f i).1)))] (laneFlags n (fun _ => true) f)
    (fun k => k.advance n)

/-! ### Block scales (R231-R233) -/

/-- Element format of a VAMAX. -/
def amaxFmt (f : BitVec 4) : Fmt := if f = 0 then .e4m3 else if f = 1 then .e5m2 else if f = 2 then .e2m1 else .kt8

def execVamax (d a : Reg) (t f : BitVec 4) (s : State) : Host.Outcome State Fault Refusal :=
  let n := typeCount t
  let v (i : Nat) : Fp := if s.act i then decode (typeFmt t) (s.el a t i) else .fin false 0 0
  let sc := (List.range (n / 32)).map (fun j => mxScale ((List.range 32).map (fun i => v (32 * j + i))) (amaxFmt f))
  vResult s [a] clsCvt d [wholePart (packEls 8 sc)] (if (List.range n).any (fun i => (v i).isSnan) then Flags.iv else 0)

/-- Scale of element `i` (R232, R233). -/
def State.scaleOf (s : State) (b : Reg) (i : Nat) : Nat := elemAt (s.vr b) 8 (i / 32)

/-- VQNT (R232): part p of the destination. -/
def execVqnt (d a b : Reg) (t t2 : BitVec 4) (dyn : Bool) (rm p : BitVec 3) (s : State) : Host.Outcome State Fault Refusal :=
  let n := typeCount t
  let o := p.toNat * n
  let f (i : Nat) : Nat × Flags :=
    let sc := s.scaleOf b i
    if sc = 0xFF then (0, 0)
    else convFp (typeFmt t2) (fpScale (decode (typeFmt t) (s.el a t i)) (127 - (sc : Int))) (s.vmodeRm dyn rm) (s.draw i)
  let part := lanePart (typeWidth t2) n s.act s.zing (fun i => (f i).1)
  vResult s [a, b] clsCvt d [(part.1 <<< (o * typeWidth t2), part.2 <<< (o * typeWidth t2))] (laneFlags n s.act f)
    (fun k => k.advance n)

/-- VSCL (R233). -/
def execVscl (d a b : Reg) (t t2 : BitVec 4) (dyn : Bool) (rm p : BitVec 3) (s : State) : Host.Outcome State Fault Refusal :=
  let n := typeCount t2
  lanesResult s [a, b] clsCvt d (typeWidth t2) n
    (fun i =>
      let sc := s.scaleOf b i
      if sc = 0xFF then ((typeFmt t2).nanCode, 0)
      else convFp (typeFmt t2) (fpScale (decode (typeFmt t) (s.raw a t (p.toNat * n + i))) ((sc : Int) - 127)) (s.vmodeRm dyn rm) (s.draw i))
    (fun k => k.advance n)

/-! ### Special functions (R94, R234) -/

def sfuResult (s : State) (d a : Reg) (t : BitVec 4) (f : Fp → Fp × Flags) : Host.Outcome State Fault Refusal :=
  lanesResult s [a] clsSfu d (typeWidth t) (typeCount t) (fun i => floatLane t (f (decode (typeFmt t) (s.el a t i))) .rne 0)

def execVrcp (d a : Reg) (t : BitVec 4) (s : State) := sfuResult s d a t fpRcp
def execVsqrt (d a : Reg) (t : BitVec 4) (s : State) := sfuResult s d a t fpSqrt
def execVrsq (d a : Reg) (t : BitVec 4) (s : State) := sfuResult s d a t fpRsq
def execVexp2 (d a : Reg) (t : BitVec 4) (s : State) := sfuResult s d a t fpExp2
def execVlog2 (d a : Reg) (t : BitVec 4) (s : State) := sfuResult s d a t fpLog2

/-! ### Permutes, broadcast, reductions, scans, votes (R235-R239) -/

/-- VPERM (R235): a table of va and vc, indices from vb. -/
def execVperm (d a b c : Reg) (t : BitVec 4) (s : State) : Host.Outcome State Fault Refusal :=
  let n := typeCount t
  let tab (j : Nat) : Nat := if j < n then s.raw a t j else s.raw c t (j - n)
  let idx (i : Nat) : Nat := elemAt (s.vr (b + BitVec.ofNat 6 (i / 256))) 16 (i % 256)
  lanesResult s ([a, c] ++ (List.range (max 1 (n / 256))).map (fun j => b + BitVec.ofNat 6 j)) clsBit d (typeWidth t) n
    (fun i => (if idx i < 2 * n then crossLane tab (2 * n) n s.act 0 (idx i) else 0, 0))

/-- VBCST (R236). -/
def execVbcst (d a i : Reg) (t : BitVec 4) (s : State) : Host.Outcome State Fault Refusal :=
  let n := typeCount t
  let x := crossLane (s.raw a t) n n s.act 0 ((s.src i).toNat % n)
  lanesResult s [a] clsBit d (typeWidth t) n (fun _ => (x, 0))

/-- The type in which a reduction of floats runs: FP32, or FP64 for f64 (R237). -/
def redFmt (t : BitVec 4) : Fmt := if t = 11 then .f64 else .f32
/-- A floating source widened exactly. -/
def redWidenEl (t : BitVec 4) (x : Nat) : Nat × Flags :=
  if t = 10 ∨ t = 11 then (x, 0) else if t = 8 then (x * 65536, 0) else convFp .f32 (decode (typeFmt t) x) .rne 0

/-- Identity of a floating reduction: −0, −∞, +∞ by operation. -/
def redIdF (f : Fmt) (o : Nat) : Nat :=
  match o with
  | 0 => 2 ^ (f.width - 1)
  | 1 => 2 ^ (f.width - 1) + f.infCode
  | _ => f.infCode
/-- One step of a floating reduction. -/
def redOpF (f : Fmt) (o : Nat) (x y : Nat × Flags) : Nat × Flags :=
  let r := match o with
    | 0 => addF f x.1 y.1 .rne 0
    | 1 => fpMinMax true f x.1 y.1
    | _ => fpMinMax false f x.1 y.1
  (r.1, r.2 ||| x.2 ||| y.2)
/-- Identity and step of an integer reduction on exact values; AND, OR and XOR act on encodings. -/
def redIdI (t : BitVec 4) (o : Nat) : Int :=
  let r := intRange (typeSigned t) (typeWidth t)
  match o with
  | 1 => r.1 | 2 => r.2 | 3 => (2 ^ typeWidth t : Int) - 1 | _ => 0
def redOpI (o : Nat) (x y : Int) : Int :=
  match o with
  | 0 => x + y | 1 => max x y | 2 => min x y
  | 3 => ((x.toNat &&& y.toNat : Nat) : Int) | 4 => ((x.toNat ||| y.toNat : Nat) : Int) | _ => ((x.toNat ^^^ y.toNat : Nat) : Int)

/-- VRED (R237). -/
def execVred (d a : Reg) (t o : BitVec 4) (s : State) : Host.Outcome State Fault Refusal :=
  let n := typeCount t
  let lg := Nat.log2 n
  if typeInt t then
    let x (i : Nat) : Int := if s.act i then (if o.toNat < 3 then intOf t (s.raw a t i) else (s.raw a t i : Int)) else redIdI t o.toNat
    let r := (treeN (redOpI o.toNat) lg ((List.range n).map x)).headD 0
    vScalar s [a] clsRed d (if o.toNat < 3 then BitVec.ofInt 64 r else extend64 t r.toNat) 0
  else
    let f := redFmt t
    let x (i : Nat) : Nat × Flags := if s.act i then redWidenEl t (s.el a t i) else (redIdF f o.toNat, 0)
    let r := (treeN (redOpF f o.toNat) lg ((List.range n).map x)).headD (0, 0)
    vScalar s [a] clsRed d (BitVec.ofNat 64 r.1) r.2

/-- VSCAN (R238): one step per active lane; lane results with the flags so far. -/
def scanStep {α : Type} (op : α → α → α) (excl : Bool) (act : Nat → Bool) (a : Nat → α) (st : α × List α) (i : Nat) : α × List α :=
  if act i then
    let r := op st.1 (a i)
    (r, (if excl then st.1 else r) :: st.2)
  else (st.1, st.1 :: st.2)

def execVscan (d a : Reg) (t : BitVec 4) (x : Bool) (o : BitVec 2) (s : State) : Host.Outcome State Fault Refusal :=
  let n := typeCount t
  let w := typeWidth t
  if typeInt t then
    let opw (p q : Int) : Int := intOf t (wrapEl t (redOpI o.toNat p q))
    let st := (List.range n).foldl (scanStep opw x s.act (fun i => intOf t (s.raw a t i))) (redIdI t o.toNat, [])
    let out := st.2.reverse
    vResult s [a] clsRed d [lanePart w n s.act s.zing (fun i => wrapEl t (out.getD i 0))] 0
  else
    let f := typeFmt t
    let st := (List.range n).foldl (scanStep (redOpF f o.toNat) x s.act (fun i => (s.el a t i, 0)))
      ((redIdF f o.toNat, (0 : Flags)), [])
    let out := st.2.reverse
    vResult s [a] clsRed d [lanePart w n s.act s.zing (fun i => (out.getD i (0, 0)).1)] st.1.2

def execVvoteAny (d a : Reg) (t : BitVec 4) (s : State) :=
  vScalar s [a] clsAlu d (BitVec.ofNat 64 (bnat ((List.range (typeCount t)).any (fun i => s.act i && s.raw a t i != 0)))) 0
def execVvoteAll (d a : Reg) (t : BitVec 4) (s : State) :=
  vScalar s [a] clsAlu d (BitVec.ofNat 64 (bnat ((List.range (typeCount t)).all (fun i => !s.act i || s.raw a t i != 0)))) 0

/-! ### Bit network (R240, R241) -/

/-- Entry `b` of a pattern. -/
def patEntry (p : BitVec 5120) (b : Nat) : Nat := (p.extractLsb' (10 * b) 10).toNat

/-- VBNET: a bit pattern applied to each 64-byte chunk. -/
def execVbnet (d a : Reg) (p : BitVec 3) (s : State) : Host.Outcome State Fault Refusal :=
  let pat := vget s.core.vp.patterns p.toNat 0
  let v0 := s.vr a
  let v1 := s.vr (a + 1)
  let bit (j : Nat) : Nat :=
    let e := patEntry pat (j % 512)
    bnat ((if e < 512 then v0 else v1).getLsbD (j / 512 * 512 + e % 512))
  vResult s [a, a + 1] clsBit d [wholePart (packEls 1 ((List.range 4096).map bit))] 0

/-- VBPAT: the pattern is written where a load would land; in latch mode the 1,024 bytes go to the Load latch (R216, R240). -/
def execVbpat (p b : Reg) (i : BitVec 14) (s : State) : Host.Outcome State Fault Refusal :=
  let a := vwAddr s b i
  let byte (j : Nat) : Nat := loadLane s a j
  let pat : BitVec 5120 := BitVec.ofNat 5120
    ((List.range 512).foldr (fun j acc => (byte (2 * j) + 256 * byte (2 * j + 1)) % 1024 + 1024 * acc) 0)
  let half (o : Nat) : VReg := packEls 8 ((List.range 512).map (fun j => byte (o + j)))
  vIssue s [] clsLoad (fun k => if k.csr.latchMode then .latch clsLoad [half 0, half 512] else .pattern p.toNat pat) 0
    (fun k => k.vWellError s a 1024)

/-! ### VCHAIN (R242, R243) -/

/-- A chain operation is one of the table, and ABS and NEG alone take no operand (R242). -/
def chainOpOk (b : Byte) : Bool :=
  let op := b.toNat % 16
  let y := b.toNat / 16 % 4
  decide (b.toNat < 64) && decide (op < 8) && ((op == 5 || op == 6) == (y == 3))

/-- The descriptor, when it is well formed. -/
def readChain (daz : Bool) (bs : List Byte) (i : Issue) : Option VChain :=
  let n := field bs 0x0C 4
  let nops := field bs 0x11 1
  let ops := slice bs 0x28 8
  if field bs 0 4 < 2 ^ 23 ∧ field bs 4 4 < 2 ^ 23 ∧ field bs 8 4 < 2 ^ 23 ∧ 1 ≤ n ∧ n ≤ 2 ^ 20 ∧ [4, 8, 9, 10].contains (field bs 0x10 1)
      ∧ 1 ≤ nops ∧ nops ≤ 8 ∧ field bs 0x12 1 < 4 ∧ field bs 0x13 5 = 0 ∧ field bs 0x30 16 = 0
      ∧ (ops.take nops).all chainOpOk ∧ allZero (ops.drop nops) then
    some {
      src0 := BitVec.ofNat 23 (field bs 0 4), src1 := BitVec.ofNat 23 (field bs 4 4), dst := BitVec.ofNat 23 (field bs 8 4),
      n := n, typ := BitVec.ofNat 4 (field bs 0x10 1), nops := nops, rm := BitVec.ofNat 3 (field bs 0x12 1),
      daz := daz, k0 := field64 bs 0x18, k1 := field64 bs 0x20, ops := ops, e := 0, issue := i }
  else none

/-- VCHAIN reads its descriptor; a malformed one writes nothing and sets IV, any other runs element by element. -/
def execVchain (b : Reg) (i : BitVec 14) (s : State) : Host.Outcome State Fault Refusal :=
  let a := vwAddr s b i
  onCore s (fun k =>
    match readChain k.csr.daz (k.wellBytes (pathOf .v) a 64) s.issue with
    | none => ({ k with csr := { k.csr with vflg := k.csr.vflg ||| Flags.iv } }.finish .v s.issue).vWellError s a 64
    | some c => ({ k with vp := { k.vp with chain := some c } }.modCtx .v (fun x => x.past s.issue)).vWellError s a 64)

/-- One step of a chain element. -/
def chainStep (daz : Bool) (t : BitVec 4) (rm : RMode) (op : Nat) (x y : Nat) : Nat × Flags :=
  if typeInt t then
    let a := intOf t x
    let b := intOf t y
    (wrapEl t (match op with
      | 0 => a + b | 1 => a - b | 2 => a * b | 3 => min a b | 4 => max a b | 5 => (if a < 0 then -a else a) | 6 => -a | _ => b - a), 0)
  else
    let f := typeFmt t
    let xf := flush daz t x
    let yf := flush daz t y
    match op with
    | 0 => addF f xf yf rm 0
    | 1 => fin1 f (fpAdd (decode f xf) (fpNeg (decode f yf)) rm) rm 0
    | 2 => mulF f xf yf rm 0
    | 3 => fpMinMax false f xf yf
    | 4 => fpMinMax true f xf yf
    | 5 => (x % signBit t, 0)
    | 6 => ((x + signBit t) % 2 ^ typeWidth t, 0)
    | _ => fin1 f (fpAdd (decode f yf) (fpNeg (decode f xf)) rm) rm 0

/-- VCHAIN_ELEMENT (R243): element e is computed and written; after the last, VCHAIN completes. -/
def execVchainElement (s : State) : Host.Outcome State Fault Refusal :=
  onCore s (fun k =>
    match k.vp.chain with
    | none => k
    | some c =>
      let w := typeWidth c.typ
      let n := w / 8
      let rd (o : Off) : Nat := leNat (k.wellBytes (pathOf .v) ((o.toNat + c.e * n) % wellSize) n)
      let step (st : Nat × Flags) (b : Byte) : Nat × Flags :=
        let y := match b.toNat / 16 % 4 with
          | 0 => rd c.src1
          | 1 => c.k0.toNat % 2 ^ w
          | 2 => c.k1.toNat % 2 ^ w
          | _ => 0
        let r := chainStep c.daz c.typ (rmodeOf c.rm) (b.toNat % 16) st.1 y
        (r.1, st.2 ||| r.2)
      let r := (c.ops.take c.nops).foldl step (rd c.src0, 0)
      let k1 := k.wellWrite (pathOf .v) s.nextId (c.dst.toNat + c.e * n) (leBytes n r.1)
      let k2 := { k1 with csr := { k1.csr with vflg := k1.csr.vflg ||| r.2 } }
      let bad (o : Off) : Bool := s.poisoned (.well s.turn.core) (o.toNat + c.e * n) n
      let bad1 := (c.ops.take c.nops).any (fun b => b.toNat / 16 % 4 == 0) && bad c.src1
      let k3 := if bad c.src0 || bad1 then
          { k2 with lateV := some (BitVec.ofNat 64 ((if bad c.src0 then c.src0.toNat + c.e * n else c.src1.toNat + c.e * n) % wellSize),
                                   tlineOf (k.ctx .v) .v c.issue.lane) }
        else k2
      if c.e + 1 < c.n then { k3 with vp := { k3.vp with chain := some { c with e := c.e + 1 } } }
      else { k3 with vp := { k3.vp with chain := none } }.duePush .v c.issue.place c.issue.pushes)

/-! ### Latches and dot products (R218, R244, R245) -/

/-- VMVL: lands in either mode; the flags of the latched result are set when it is first read. -/
def execVmvl (d p : Reg) (u : BitVec 4) (s : State) : Host.Outcome State Fault Refusal :=
  let l := vget s.core.vp.latches u.toNat {}
  let part := wholePart (l.parts.getD p.toNat 0)
  vIssue s [] clsAlu (fun _ => if d = 63 then .transient [part.1] else .vec d.toNat [part]) 0 (fun k =>
    { k with
      csr := { k.csr with vflg := k.csr.vflg ||| l.flags },
      vp := { k.vp with latches := vset k.vp.latches u.toNat { l with flags := 0 } } })

/-- VDOT (R245): grouped dot products into vc. -/
def execVdot (d a b c : Reg) (t t2 : BitVec 4) (s : State) : Host.Outcome State Fault Refusal :=
  let g := 32 / typeWidth t
  let f := typeFmt t
  lanesResult s [a, b, c] clsFma d 32 128 (fun j =>
    let ks := (List.range g).map (fun q => g * j + q)
    if t2 = 4 then
      groupSumI32 (s.raw c t2 j) (ks.foldl (fun acc i => acc + intOf t (s.raw a t i) * intOf t (s.raw b t i)) 0)
    else groupSum (s.el c t2 j) (ks.map (fun i => arrayProd f f (s.el a t i) (s.el b t i) 127 127)))

/-- Elements a suppressed mode instruction still draws for (R86, R217): none for other instructions. -/
def modeCount : Instr → Nat
  | .vadd _ _ _ t | .vsub _ _ _ t | .vmul _ _ _ t => if typeInt t then 0 else typeCount t
  | .vfma _ _ _ _ t _ _ _ | .vfms _ _ _ _ t _ _ _ => typeCount t
  | .vcvt _ _ _ t2 _ _ | .vnar _ _ _ t2 _ _ => typeCount t2
  | .vwid _ _ t _ _ _ => typeCount t
  | .vscl _ _ _ _ t2 _ _ _ => typeCount t2
  | .vqnt _ _ _ t _ _ _ _ => typeCount t
  | _ => 0

end Machine
end Sys2Proof
end

