-- ==== Sys2Proof/Machine/Fetch.lean ====
section
/-! DEFINITION. What an engine or a stream does at its turn: moving between lines, meeting the next instruction with its
prefixes, V's slots, and the stall watchdog (R37-R55, R73, R74, R109, R209-R214). -/

namespace Sys2Proof
namespace Machine

/-- What a turn comes to: nothing, an action of the fetch itself, or an instruction to execute in a state. -/
inductive Action where
  | idle
  | acted (s : State)
  | run (s : State) (i : Instr)

/-! ### Lines (R38-R40, R46, R51-R54) -/

/-- The line after a line whose lanes are done: a delay line ends in its transfer, a broadcast body repeats or is left. -/
def Core.leaveLine (k : Core) (e : Engine) : Core :=
  let x := k.ctx e
  match x.inDelay, x.pend with
  | true, some t => k.toLine e { x with pend := none, inDelay := false } t.toNat
  | _, _ =>
    let y := { x with inDelay := x.pend.isSome }
    match x.seqNext, x.loop with
    | some n, _ => k.toLine e y n
    | none, some lp =>
      if x.line.toNat ≠ lp.start.toNat + lp.len then k.toLine e y (x.line.toNat + 1)
      else if lp.rep.toNat + 1 < lp.count.toNat then
        k.toLine e { y with loop := some { lp with rep := lp.rep + 1 } } (lp.start.toNat + 1)
      else k.toLine e { y with loop := none } (x.line.toNat + 1)
    | none, none => k.toLine e y (x.line.toNat + 1)

/-- Skew test of V's or M's iteration `rep` (R54): A has begun iteration `rep + skew`, or has left the body. -/
def Core.skewMet (k : Core) (arms : Nat) (lp : LoopMode) : Bool :=
  let a := k.ea
  !lp.mask.getLsbD 2 || decide (arms < a.arms)
    || (a.arms == arms && (match a.loop with
        | none => true
        | some la => decide (lp.rep.toNat + lp.skew < lp.count.toNat) && decide (lp.rep.toNat + lp.skew ≤ la.rep.toNat)))

/-- A follower arrives at an LB line (R52). -/
def Core.arriveLb (k : Core) (e : Engine) : Core :=
  let x := k.ctx e
  match x.outq with
  | [] => k.stallOn e .outEmpty
  | .arm count len mask sv sm :: rest =>
    let y := { x with outq := rest, arms := x.arms + 1 }
    let l := x.line.toNat
    if (maskEngines mask).contains e && count != 0 then
      k.toLine e { y with loop := some {
        start := x.line, len := len, count := count, mask := mask, skew := if e = .v then sv else sm, rep := 0 } } (l + 1)
    else k.toLine e y (l + len + 1)
  | o :: _ => k.lineTrap e 0x06 (outcInfo o) x

/-- V waits for the completion of earlier instructions that push tokens (R213). -/
def Core.pushesOut (k : Core) : Bool := k.vp.flights.any (fun f => !f.pushes.isEmpty)

/-- An engine's PC has reached a line (R39, R40, R49, R53, R102): checked as a whole before any lane executes. A line past TEXTLEN
that the instruction store still holds, of a longer text with the same TEXTID, meets the conditions on its header first: text
overrun is the last row (R29, R110, R111; log 16). -/
def Core.reachLine (s : State) (k : Core) (e : Engine) : Core :=
  let x := k.ctx e
  let l := x.line.toNat
  let h := k.lane l 0
  let held : Bool := decide (l < k.textLen) || decide (l < k.textLines)
  if x.lane ≠ 0 ∨ k.halted.isSome then k
  else if held && s.poisoned (.istore s.turn.core) (32 * l) 32 && !x.textErr then
    k.lineTrap e 0x0D (BitVec.ofNat 64 (2 * 2 ^ 62 + 32 * l)) { x with textErr := true }
  else if held && lineBad k e l h x.loop.isSome then k.lineTrap e 0x02 (h.setWidth 64) x
  else if held && isLb h && x.inDelay then k.lineTrap e 0x04 (h.setWidth 64) x
  else if held && isLb h && x.loop.isSome then k.lineTrap e 0x01 (h.setWidth 64) { x with lane := 8 }
  else if k.textLen ≤ l then k.lineTrap e 0x03 (BitVec.ofNat 64 l) x
  else if isLb h && e != .c then
    if e == .v && k.pushesOut then k else k.arriveLb e
  else match x.loop with
    | some lp =>
      if l == lp.start.toNat + 1 && e != .a && !k.skewMet x.arms lp then k.stallOn e .skew
      else k.setCtx e { x with lane := 1, wait := none, textErr := false }
    | none => k.setCtx e { x with lane := 1, wait := none, textErr := false }

/-- LINE_ADVANCE (R38): an engine whose lanes are done leaves its line; the line it stands before is reached. -/
def execLineAdvance (s : State) : Host.Outcome State Fault Refusal :=
  onCore s (fun k =>
    let e := s.eng
    let k1 := if (k.ctx e).lane = 0 then k else k.leaveLine e
    if k1.handler == k.handler then k1.reachLine s e else k1)

/-! ### V's drains (R213) -/

/-- END, FENCE and VCHAIN wait for every result in flight (R213). -/
def drainsAll : Instr → Bool
  | .endEngine | .fence .. | .vchain .. => true
  | _ => false
def drainsPushes : Instr → Bool
  | .send .. | .recv .. | .semw .. | .semwReg .. | .brf | .brfCall | .brfRet | .rfjoin | .rfret | .vldt .. | .vstt .. => true
  | _ => false
/-- RFRET completes once V's earlier URS accesses are performed: the results in flight to v-registers (R203, R291). -/
def Core.ursOut (k : Core) : Bool := k.vp.flights.any (fun f => match f.dest with
  | .vec .. => true
  | _ => false)
def mustDrain (k : Core) (x : Instr) (p : Pfxs) : Bool :=
  (drainsAll x && !k.vp.flights.isEmpty) || (x == .rfret && k.ursOut)
    || ((drainsPushes x || (match p.tok with | some (a, _) => !a.isEmpty | none => false)) && k.pushesOut)

/-! ### Guards (R55, R109, R138) -/

def Core.guardHolds (k : Core) (e : Engine) : Option Guard → Bool
  | none => true
  | some (.bit r i sense) => (k.getS e r).getLsbD i.toNat == sense
  | some .first => match (k.ctx e).loop with
    | some lp => lp.rep == 0
    | none => true
  | some .last => match (k.ctx e).loop with
    | some lp => lp.rep + 1 == lp.count
    | none => true

/-- A suppressed instruction completes at once; a mode instruction of V still advances VSRC (R109, R217). -/
def Core.suppress (k : Core) (e : Engine) (x : Instr) (i : Issue) : Core :=
  let k1 := if e = .v then { k with csr := { k.csr with vsrc := k.csr.vsrc + BitVec.ofNat 64 (modeCount x) } } else k
  k1.finish e i

/-- A decoded group at its turn: V's drains, the TOK pops, the guard, and the instruction (R42, R109, R213). -/
def instrTurn (s : State) (k : Core) (e : Engine) (x : Instr) (i : Issue) (p : Pfxs) : Action :=
  let pops := (p.tok.map (·.1)).getD []
  if e = .v && mustDrain k x p then .run s .vResultLanding
  else if !k.tokReady e pops then .acted (s.putCore s.turn.core (k.stallOn e (.tokens pops)))
  else
    let k1 := k.tokPop e pops
    let k2 := if e = .v then k1.beginSlot s.nextId else k1
    if k2.guardHolds e p.grd then .run { s.setCoreAt s.turn.core k2 with issue := i, nextId := s.nextId + idStep } x
    else .acted (s.putCore s.turn.core (k2.suppress e x i))

/-- A precise decode trap. -/
def decodeTrap (s : State) (k : Core) (e : Engine) (code : BitVec 8) (i : Issue) : Action :=
  .acted (s.putCore s.turn.core (k.trapAt e i code (i.word.setWidth 64)))

/-- The next lane or line of an engine that is in the middle of nothing. V drains at an LB line before the line's own checks: the
manual does not order the two (log 16). -/
def laneTurn (s : State) (k : Core) (e : Engine) : Action :=
  let x := k.ctx e
  if x.lane = 0 then
    if e = .v && isLb (k.lane x.line.toNat 0) && k.pushesOut then .run s .vResultLanding else .run s .lineAdvance
  else match k.group e with
    | .none => .run s .lineAdvance
    | .illegal i => .acted (s.putCore s.turn.core (k.illegal e i))
    | .bad code i => decodeTrap s k e code i
    | .instr a i p => instrTurn s k e a i p

/-- What is in progress in an engine between two lanes. -/
def busyWith (k : Core) (e : Engine) : Option Instr :=
  match e with
  | .v => if k.vp.busy then some .vResultLanding else if k.vp.chain.isSome then some .vchainElement else none
  | .m => match k.mx.run with
    | .idle => none
    | .nest .. => some .mStep
    | .samp .. => some .msampGroup
    | .table .. => some .malias
  | .c =>
    if k.handler.isSome then none else
    match k.ref.pc with
    | .callFactor | .callResid | .callSolve => some .refineCall
    | .test | .release => some .refineNormTest
    | _ => none
  | .a => none

/-- A storage data error of V or M due at this issue boundary (R328); a busy slot of V is none (R215). -/
def lateError (k : Core) (e : Engine) : Option Core :=
  match e, k.lateV, k.lateM with
  | .v, some (info, tl), _ => if k.vp.busy then none else some ({ k with lateV := none }.takeTrapAt .v 0x0D info tl { k.ev with wait := none })
  | .m, _, some (info, tl) => some ({ k with lateM := none }.takeTrapAt .m 0x0D info tl { k.em with wait := none })
  | _, _, _ => none

/-- C has executed RFRET and waits for the other engines (R290). -/
def Core.rfWaits (k : Core) : Bool := k.handler.isNone && k.ref.pc == .inRoutine && k.ec.rfret

/-- What V does while the token push of a landed result finds its queue full: it stalls before its next issue and before it
arrives at an LB line, but busy and drain slots still pass, and so do lines without a lane of V (R38, R213, R214). -/
def Core.whileFull (k : Core) : Option Instr :=
  let x := k.ev
  if k.vp.busy then some .vResultLanding
  else if x.lane = 0 then
    if isLb (k.lane x.line.toNat 0) then (if k.pushesOut then some .vResultLanding else none) else some .lineAdvance
  else match k.group .v with
    | .none => some .lineAdvance
    | .instr i _ p => if mustDrain k i p then some .vResultLanding else none
    | _ => none

/-- Every push due is that of a V result that has landed: V's own instruction is not held up. -/
def EngineCtx.landedPush (x : EngineCtx) : Bool := !x.pushes.isEmpty && x.pushes.all (fun p => p.1.2 == 0)

/-- A trap has been taken in a busy slot of V: the slot passes before the handler's first instruction (R215). -/
def Core.slotFirst (k : Core) : Bool := k.handler.isSome && k.vp.busy

/-- An engine's turn. While the handler runs, which is on C, the other engines stand still (R330). -/
def engineTurn (s : State) : Action :=
  let k := s.core
  let e := s.eng
  if k.cell.isNone || k.halted.isSome then .idle
  else if k.slotFirst then (if e = .v then .run { s with issue := {} } .vResultLanding else .idle)
  else if (k.ctx e).ended || (k.handler.isSome && e != .c) then .idle
  else match lateError k e with
  | some k1 => .acted (s.putCore s.turn.core k1)
  | none =>
    if !(k.ctx e).pushes.isEmpty then
      let k1 := k.flushPushes e
      match (if e = .v && (k1.ctx e).landedPush then k1.whileFull else none) with
      | some i => .run { s.setCoreAt s.turn.core k1 with issue := {} } i
      | none => .acted (s.putCore s.turn.core
          (k1.modCtx e (fun x => { x with wait := if x.pushes.isEmpty then none else some .pushes })))
    else match busyWith k e with
    | some i => .run { s with issue := {} } i
    | none => if e = .c && k.rfWaits then .idle else laneTurn s k e

/-- Is this an instruction that an engine meets in its line, with its prefixes? -/
def slotInstr : Instr → Bool
  | .vResultLanding | .vchainElement | .lineAdvance | .mStep | .msampGroup | .refineCall | .refineNormTest => false
  | _ => true

/-- The instruction of the step has issued: its engine has moved on, or is in the middle of its effect. -/
def Core.issued (before after : Core) (e : Engine) : Bool :=
  let x := before.ctx e
  let y := match e, before.handler, after.handler with
    | .c, none, some h => h.saved
    | _, _, _ => after.ctx e
  y.ended || y.line != x.line || y.lane != x.lane
    || (match e with
        | .c => after.ref.pc != before.ref.pc
        | .a => false
        | .v => after.vp.chain.isSome
        | .m => after.mx.run != .idle)

/-- After an instruction that stalled or trapped before issuing: its TOK pops have not been made (R42, R109, R157), and an
instruction of V has used no slot, so nothing has landed (R214). -/
def Core.unissued (before after : Core) (e : Engine) : Core :=
  match e with
  | .v =>
    { after with
      vp := before.vp, urs := before.urs, regs := before.regs, tok := before.tok,
      csr := { after.csr with vflg := before.csr.vflg, vsrc := before.csr.vsrc },
      ev := { after.ev with pushes := before.ev.pushes } }
  | _ => { after with tok := before.tok }

/-- The state after an engine's step: what an instruction that did not issue must not keep is undone, and the stall counter is
zero when the engine is not stalled (R74). -/
def settleEngine (s : State) (i : Instr) (t : State) : State :=
  let k := t.coreAt s.turn.core
  let k1 := if slotInstr i && !s.core.issued k s.eng then s.core.unissued k s.eng else k
  t.setCoreAt s.turn.core { k1 with stall := if (k1.ctx s.eng).wait.isNone then 0 else k1.stall }

/-! ### Streams (R164-R179) -/

/-- A stream's turn: what its state calls for. -/
def streamTurn (s : State) : Action :=
  let k := s.core
  let t := s.str
  match t.state with
  | .suspended => .idle
  | .aborting => .idle
  | .idle => if t.queued.isEmpty then .idle else .run s .chainStart
  | .active =>
    if t.waits.isSome then .run s .streamWaitSatisfied
    else match t.fence with
    | some scope => .run s (.chainFence 2 scope)
    | none => match t.walk with
    | some w => .run s (.pageWalk w.va false)
    | none =>
      if t.inAtomic then .idle
      else if t.waiting then .run s .streamWaitSatisfied
      else if t.cmd.isSome then .run s .pumpTransferUnit
      else
        if s.entryBad t.cur then .acted (s.entryFault t.cur cData)
        else
          let s1 := s.readEntry t.cur
          match decodeEntry (s1.core.entryAt t.cur) with
          | none => .acted s1.malformedEntry
          | some .chainEnd => .run s1 (if t.completing.isEmpty then .chainEnd else .commandCompletion)
          | some i => .run s1 i

end Machine
end Sys2Proof
end

