-- ==== Sys2Proof/Machine/Watchdog.lean ====
section
/-! DEFINITION. The stall counter and the stall watchdog (R73, R74, R295). -/

namespace Sys2Proof
namespace Machine

/-- The condition an engine stalled on still holds (R73). -/
def Wait.holds (s : State) (k : Core) (e : Engine) : Wait → Bool
  | .tokens ps => !k.tokReady e ps
  | .pushes => match (k.ctx e).pushes with
    | p :: _ => !k.tokRoom e p.2
    | [] => false
  | .valFull d => decide ((vget k.vals (qIdx e d) []).length ≥ 8)
  | .valEmpty x => (vget k.vals (qIdx x e) []).isEmpty
  | .outFull ds => !k.outRoom ds
  | .outEmpty => (k.ctx e).outq.isEmpty
  | .sem off n _ => decide (k.semCount off < n.toNat)
  | .tiles es => es.any (fun t => (k.tile t).state != .ready)
  | .tileHeld t => (k.tile t).held.isSome
  | .bands isBank n =>
    k.cist.own.any (fun o => match o.of with
      | .bank b => isBank && b.val == n
      | .handle c h => !isBank && c == k.cellId && h.val == n)
  | .freeList => k.cist.free.isEmpty && k.cist.own.any (fun o => match o.of with
      | .bank _ => true
      | .handle .. => false)
  | .barv p => match s.team with
    | some (_, _, t, c) => decide ((t.point p).arrival c.linear ≥ (t.point p).phase + 2)
    | none => false
  | .bwt p ph => match s.team with
    | some (_, _, t, _) => decide ((t.point p).phase ≤ ph.toNat)
    | none => false
  | .skew => match (k.ctx e).loop with
    | some lp => !k.skewMet (k.ctx e).arms lp
    | none => false
  | .streamFull n => decide ((k.stream n).queued.length ≥ 4)
  | .streamBusy n => !((k.stream n).state == .idle && (k.stream n).queued.isEmpty)
  | .streamAbort n => (k.stream n).inAtomic

/-- The engine is stalled: on its condition, or C waiting for the other engines' RFRET. -/
def Core.blocked (s : State) (k : Core) (e : Engine) : Bool :=
  !(k.ctx e).ended && ((e == .c && k.rfWaits) || (match (k.ctx e).wait with
    | some w => w.holds s k e
    | none => false))

/-- Any engine waits at BWT (R74). -/
def Core.atBwt (k : Core) : Bool := allEngines.any (fun e => match (k.ctx e).wait with
  | some (.bwt ..) => true
  | _ => false)

/-- Line and lane of the instruction on which an engine is stalled, past its prefixes (R74): the one whose token pushes it cannot
make, which may have moved it to another line, or its next one; the push of a V result that has landed holds up V's next
instruction. An engine stalled on its line, before any instruction of it, gives LANE 0 (log 114). -/
def stallAt (k : Core) (e : Engine) : Line × Nat :=
  let x := k.ctx e
  let h := k.lane x.line.toNat 0
  match x.pushes.find? (fun p => p.1.2 != 0) with
  | some p => p.1
  | none =>
    (x.line, if x.lane = 0 then 0 else
      (lanes7.find? (fun j => decide (x.lane ≤ j) && tagAt h j == engIdx e && !isPfx (k.lane x.line.toNat j))).getD x.lane)

/-- The 4-bit mask of the engines stalled, C in bit 3. -/
def stallMask (s : State) (k : Core) : Nat :=
  8 * bnat (k.blocked s .c) + 4 * bnat (k.blocked s .a) + 2 * bnat (k.blocked s .v) + bnat (k.blocked s .m)

/-- STALL_WATCHDOG (R74): `n` aclk pass in which all four engines are stalled or ended. The counter is held at zero while a
stream is active or suspended or an engine waits at BWT; it stands still while the handler runs or the norm unit computes. -/
def execStallWatchdog (n : Nat) (s : State) : Host.Outcome State Fault Refusal :=
  onCore s (fun k =>
    if k.cell.isNone || k.halted.isSome then k
    else if k.handler.isSome || k.ref.pc == .test then k
    else if k.streams.toList.any (fun t => t.state != .idle) || k.atBwt then { k with stall := 0 }
    else if allEngines.any (fun e => !(k.ctx e).ended && !k.blocked s e) then { k with stall := 0 }
    else if k.stall + n < 2 ^ 24 then { k with stall := k.stall + n }
    else
      let e := (allEngines.find? (fun e => k.blocked s e)).getD .c
      { k with stall := 0 }.takeTrapAt e 0x09 (BitVec.ofNat 64 (stallMask s k))
        (tlineOf { k.ctx e with line := (stallAt k e).1 } e (stallAt k e).2) (k.ctx e).unstall)

end Machine
end Sys2Proof
end

