-- ==== Sys2Proof/Machine/Next.lean ====
section
/-! DEFINITION. What the turn of a step calls for, and what a step adds around the instruction it runs (log 1, log 2). -/

namespace Sys2Proof
namespace Machine

/-- Rows that occur by themselves or come from outside; the other rows are run by an engine's or a stream's turn. -/
def isEvent : Instr → Bool
  | .stallWatchdog _ | .cellStart | .superstepEnd _ | .schedulerChoice _ | .timesliceExpiry _ | .commandCompletion
  | .pageWalk .. | .faultRecordPost | .windowAccess _ | .atomicOp _ | .queueBind _ | .queueUnbind _ | .queueReset _
  | .doorbell .. | .packetHeaderPoll _ | .launchPacket _ | .opchain _ | .waitsig _ | .waitsigPoll _ | .signal _
  | .nopPacket _ | .resume _ | .abort _ | .shootdown _ | .shootdownAck | .mailboxRequest _ | .mailboxResponse
  | .getMeasurements .. | .negotiateAlgorithms .. | .keyExchange .. | .challenge _ | .keyload .. | .keyclear ..
  | .fwstage .. | .fwactivate .. | .fwquery .. | .policyRequest .. | .hbeat _ | .updateHbeatTimeout | .heartbeatMissed
  | .deviceReset _ | .hostMemoryAccess .. | .peerAccess .. | .registerWrite .. | .linkDown _ | .correctedError _
  | .supplyDroop _ | .thermalThrottle _ | .thermalShutdown | .writePerformed .. | .firmwarePolicyWrite _ => true
  | _ => false

/-- Events that are writes to the management interface, which responds only after bring-up (R353, R358). -/
def isBarWrite : Instr → Bool
  | .queueBind _ | .queueUnbind _ | .queueReset _ | .doorbell .. | .resume _ | .abort _ | .shootdown _
  | .mailboxRequest _ => true
  | _ => false

/-- Bytes of a store become uncorrectable, or are good again (R328). -/
def State.setPoison (s : State) (st : Store) (addr len : Nat) (on : Bool) : State :=
  let rest := s.poison.filter (fun p => !(p.1 == st && decide (addr ≤ p.2) && decide (p.2 < addr + len)))
  { s with poison := if on then (List.range len).map (fun i => (st, addr + i)) ++ rest else rest }

/-- An event's turn. A package stopped by heat (R365) meets no event but a reset. -/
def eventTurn (s : State) (i : Instr) : Action :=
  match i with
  | .deviceReset img => .run s (.deviceReset img)
  | i => if !isEvent i || s.mgmt.stopped || (isBarWrite i && s.mgmt.boot != .ready) then .idle else .run s i

/-- What the turn of the state calls for. -/
def nextAction (s : State) : Action :=
  match s.turn.what with
  | .engine => if s.mgmt.stopped then .idle else engineTurn s
  | .stream => if s.mgmt.stopped then .idle else streamTurn s
  | .event i => eventTurn s i
  | .poison st a n on => .acted (s.setPoison st a n on)
  | .bar0Read off n => .acted { s with reply := barRead s off n }
  | .cfgRead n => .acted { s with
      reply := if s.mgmt.boot = .ready then fitLen n (Config.cfgSpace s.tick) else List.replicate n 0xFF }
  | .firmware => if !s.mgmt.fwUp then .idle else .acted (s.modMgmt (fun m => { m with fw := fwTurn s.tick m.fw }))
  | .rom => .acted (if s.mgmt.boot = .rom ∧ !s.mgmt.stopped then s.modMgmt (fun m => { m with boot := .verifying }) else s)
  | .spdm tr cmd => if s.mgmt.stopped then .idle else .acted (s.otherMessage tr cmd)

/-- After the turn of an engine its slot and stall counter are settled; `s` is the state before, `i` the row run. -/
def settleTurn (s : State) (i : Instr) (t : State) : State :=
  match s.turn.what with
  | .engine => settleEngine s i t
  | _ => t

/-! ### Progress (R73; log 82) -/

def engineAt (n : Nat) : Engine := allEngines.getD (n % 4) .c
def coreNo (n : Nat) : Fin 128 := ⟨n % 128, Nat.mod_lt _ (by decide)⟩
def streamNo (n : Nat) : Fin 4 := ⟨n % 4, Nat.mod_lt _ (by decide)⟩

/-- What can be done for a queue. -/
def queueTurn (q : BitVec 10) : Nat → Instr
  | 0 => .packetHeaderPoll q
  | 1 => .launchPacket q
  | 2 => .opchain q
  | 3 => .waitsig q
  | 4 => .waitsigPoll q
  | 5 => .signal q
  | _ => .nopPacket q

/-- What can be done for a partition. -/
def partTurn (p : BitVec 3) : Nat → Instr
  | 0 => .schedulerChoice p
  | 1 => .superstepEnd p
  | _ => .timesliceExpiry p

/-- What the hub does of itself. -/
def hubTurn : Nat → What
  | 0 => .event .faultRecordPost
  | 1 => .event .shootdownAck
  | 2 => .event .mailboxResponse
  | 3 => .event .updateHbeatTimeout
  | 4 => .event .heartbeatMissed
  | _ => .firmware

/-- The stores in which writes are pending. -/
def storeNo (n : Nat) : WSpace :=
  if n = 0 then .hbm else if n = 1 then .host
  else if n < 130 then .well (coreNo (n - 2)) else if n < 258 then .urs (coreNo (n - 130)) else .cist (coreNo (n - 258))

/-- The oldest pending write of a store that can become performed with respect to an observer and is not, becomes so. -/
def writeTurn (s : State) (n obs : Nat) : Instr :=
  let v := s.vmem (storeNo n)
  let shut (w : PWrite) : Bool := match storeNo n with
    | .well _ => s.chunkOpen v obs w
    | _ => false
  .writePerformed (storeNo n) (((v.pend.find? (fun w => !w.seen.testBit obs && !shut w)).map (·.id)).getD 0) obs

/-- Turns in a round. -/
def roundLen : Nat := 9290

/-- The agents in the order in which each has its turn: engines, streams, completions, cell starts, atomic engines, partitions,
the hub, queues, and the pending writes, for another observer each time round. -/
def fairTurn (s : State) (n : Nat) : Turn :=
  let m := n % roundLen
  if m < 512 then { core := coreNo (m / 4), eng := engineAt m }
  else if m < 1024 then { core := coreNo (m / 4), stream := streamNo m, what := .stream }
  else if m < 1536 then { core := coreNo (m / 4), stream := streamNo m, what := .event .commandCompletion }
  else if m < 1664 then { core := coreNo m, what := .event .cellStart }
  else if m < 1704 then { what := .event (.atomicOp ⟨(m - 1664) % 40, Nat.mod_lt _ (by decide)⟩) }
  else if m < 1712 then { what := hubTurn (m - 1704) }
  else if m < 1736 then { what := .event (partTurn (BitVec.ofNat 3 (m - 1712)) ((m - 1712) / 8)) }
  else if m < 8904 then (let i := m - 1736; { what := .event (queueTurn (BitVec.ofNat 10 i) (i / 1024)) })
  else { what := .event (writeTurn s (m - 8904) (n / roundLen % 137)) }

/-- Time passes, and whose turn is next is free (log 1, log 2), but that every agent has its turn again and again, and that time goes
on: at least 1 ns in each round of turns (R73; log 82). Engines that wait at SEMW are served in their order (R65). -/
def tickOver (s : State) : State :=
  let t := s.grantAll
  let due : Bool := s.fairIn == 0
  { t with
    now := s.now + Config.elapsedNs s.tick + (if due && s.fairAt % roundLen == 0 then 1 else 0), turn := if due then fairTurn t s.fairAt else Config.schedule s.tick,
    fairAt := if due then s.fairAt + 1 else s.fairAt, fairIn := if due then Config.patience s.tick else s.fairIn - 1,
    tick := s.tick + 1, issue := {} }

/-- ONE STEP'S ACTION with what the step adds around it. -/
def finishStep (s : State) (i : Instr) : Host.Outcome State Fault Refusal → Host.Outcome State Fault Refusal
  | .next t => .next (tickOver (settleTurn s i t))
  | r => r

/-! ### Placing an instruction where the next step fetches it -/

/-- The engine whose reading of a table word is taken (see `decodeTableWord`). -/
def wordEngine (nbits w : Nat) : Engine :=
  match tablePick (tableWords nbits w).1 (tableWords nbits w).2 with
  | some (_, e, _) => e
  | none => .c

/-- A line header: lane 1 of an engine, lane 2 its continuation when it has one, the others empty. -/
def oneHeader (e : Engine) (long lb : Bool) : W32 :=
  BitVec.ofNat 32 ((if lb then 2 ^ 28 else 0) + 0xFFFFF00 + (if long then 0xE0 else 0xF0) + engIdx e)

/-- Line 0 with one instruction in lane 1. -/
def oneLine (e : Engine) (w c : W32) (lb : Bool) : List Byte :=
  leBytes 4 (oneHeader e (isLong e w) lb).toNat ++ leBytes 4 w.toNat ++ leBytes 4 (if isLong e w then c.toNat else 0)

/-- A core with a cell that stands before lane 1 of line 0, which holds the instruction. RETT is placed in the handler, where
alone it is legal, and LOOPB in an LB line (R102, R155). -/
def Core.withWord (k : Core) (nbits w : Nat) : Core :=
  let ws := tableWords nbits w
  let e := wordEngine nbits w
  let i := decodeInstr e ws.1 ws.2
  let lb := match i with | some (.loopb ..) => true | _ => false
  let rett := match i with | some .rett => true | _ => false
  let cl : Cell := { id := 0, queue := 0, part := 0, ctx := 0, linear := 0, wave := 0, sstep := 0, idx := [], kern := {} }
  let h : Handler := { saved := {}, depth := k.ec.stack.length, eng := .c, code := 0x0E, info := 0, tline := 0 }
  ({ k with
    cell := some cl, kern := some {}, istore := memOf 0 (oneLine e ws.1 ws.2 lb), textOk := true, halted := none,
    handler := if rett then some h else none, lateV := none, lateM := none, ref := {},
    vp := { k.vp with flights := [], busy := false, chain := none }, mx := { k.mx with run := .idle } }).setCtx e
    { (k.ctx e) with line := 0, lane := 1, ended := false, pushes := [], inDelay := false, loop := none }

end Machine
end Sys2Proof
end

