-- ==== Sys2Proof/Machine/Dispatch.lean ====
section
/-! DEFINITION. Which meaning each row of the opcode table has. -/

namespace Sys2Proof
namespace Machine

def exec (i : Instr) (s : State) : Host.Outcome State Fault Refusal :=
  match i with
  | .add d a b => Sys2Proof.Machine.execAdd d a b s
  | .sub d a b => Sys2Proof.Machine.execSub d a b s
  | .and d a b => Sys2Proof.Machine.execAnd d a b s
  | .or d a b => Sys2Proof.Machine.execOr d a b s
  | .xor d a b => Sys2Proof.Machine.execXor d a b s
  | .shl d a b => Sys2Proof.Machine.execShl d a b s
  | .shr d a b => Sys2Proof.Machine.execShr d a b s
  | .sra d a b => Sys2Proof.Machine.execSra d a b s
  | .min d a b => Sys2Proof.Machine.execMin d a b s
  | .max d a b => Sys2Proof.Machine.execMax d a b s
  | .minw d a b => Sys2Proof.Machine.execMinw d a b s
  | .maxw d a b => Sys2Proof.Machine.execMaxw d a b s
  | .mul d a b => Sys2Proof.Machine.execMul d a b s
  | .mulh d a b => Sys2Proof.Machine.execMulh d a b s
  | .mulhw d a b => Sys2Proof.Machine.execMulhw d a b s
  | .div d a b => Sys2Proof.Machine.execDiv d a b s
  | .divw d a b => Sys2Proof.Machine.execDivw d a b s
  | .rem d a b => Sys2Proof.Machine.execRem d a b s
  | .remw d a b => Sys2Proof.Machine.execRemw d a b s
  | .clz d a => Sys2Proof.Machine.execClz d a s
  | .popc d a => Sys2Proof.Machine.execPopc d a s
  | .sel d a b => Sys2Proof.Machine.execSel d a b s
  | .addi d a im => Sys2Proof.Machine.execAddi d a im s
  | .andi d a im => Sys2Proof.Machine.execAndi d a im s
  | .ori d a im => Sys2Proof.Machine.execOri d a im s
  | .xori d a im => Sys2Proof.Machine.execXori d a im s
  | .shli d a x => Sys2Proof.Machine.execShli d a x s
  | .shri d a x => Sys2Proof.Machine.execShri d a x s
  | .srai d a x => Sys2Proof.Machine.execSrai d a x s
  | .lui d im => Sys2Proof.Machine.execLui d im s
  | .li d im => Sys2Proof.Machine.execLi d im s
  | .cmpEq d a b p => Sys2Proof.Machine.execCmpEq d a b p s
  | .cmpNe d a b p => Sys2Proof.Machine.execCmpNe d a b p s
  | .cmpLt d a b p => Sys2Proof.Machine.execCmpLt d a b p s
  | .cmpLtw d a b p => Sys2Proof.Machine.execCmpLtw d a b p s
  | .cmpGe d a b p => Sys2Proof.Machine.execCmpGe d a b p s
  | .cmpGew d a b p => Sys2Proof.Machine.execCmpGew d a b p s
  | .cmpTst d a b p => Sys2Proof.Machine.execCmpTst d a b p s
  | .cmpTstz d a b p => Sys2Proof.Machine.execCmpTstz d a b p s
  | .bext d a p w => Sys2Proof.Machine.execBext d a p w s
  | .bins d a p w => Sys2Proof.Machine.execBins d a p w s
  | .ld d b z im => Sys2Proof.Machine.execLd d b z im s
  | .lds d b z im => Sys2Proof.Machine.execLds d b z im s
  | .st d b z im => Sys2Proof.Machine.execSt d b z im s
  | .addr d a b h im => Sys2Proof.Machine.execAddr d a b h im s
  | .semw b o n => Sys2Proof.Machine.execSemw b o n s
  | .semwReg b o r => Sys2Proof.Machine.execSemwReg b o r s
  | .semp b o n => Sys2Proof.Machine.execSemp b o n s
  | .sempReg b o r => Sys2Proof.Machine.execSempReg b o r s
  | .brf => Sys2Proof.Machine.execBrf s
  | .brfCall => Sys2Proof.Machine.execBrfCall s
  | .brfRet => Sys2Proof.Machine.execBrfRet s
  | .rfjoin => Sys2Proof.Machine.execRfjoin s
  | .rfret => Sys2Proof.Machine.execRfret s
  | .nop => Sys2Proof.Machine.execNop s
  | .endEngine => Sys2Proof.Machine.execEndEngine s
  | .fence f x => Sys2Proof.Machine.execFence f x s
  | .trap c => Sys2Proof.Machine.execTrap c s
  | .send r e => Sys2Proof.Machine.execSend r e s
  | .recv r e => Sys2Proof.Machine.execRecv r e s
  | .prep b o => Sys2Proof.Machine.execPrep b o s
  | .br b g im x m => Sys2Proof.Machine.execBr b g im x m s
  | .brUncond b m => Sys2Proof.Machine.execBrUncond b m s
  | .call b g im x m => Sys2Proof.Machine.execCall b g im x m s
  | .callUncond b m => Sys2Proof.Machine.execCallUncond b m s
  | .ret g im x m => Sys2Proof.Machine.execRet g im x m s
  | .retUncond m => Sys2Proof.Machine.execRetUncond m s
  | .loopb g l m v w => Sys2Proof.Machine.execLoopb g l m v w s
  | .csrr d im => Sys2Proof.Machine.execCsrr d im s
  | .csrw x im => Sys2Proof.Machine.execCsrw x im s
  | .binit r p => Sys2Proof.Machine.execBinit r p s
  | .barv r p => Sys2Proof.Machine.execBarv r p s
  | .bwt r p => Sys2Proof.Machine.execBwt r p s
  | .refine a im => Sys2Proof.Machine.execRefine a im s
  | .launch d a b => Sys2Proof.Machine.execLaunch d a b s
  | .mcw x im => Sys2Proof.Machine.execMcw x im s
  | .rett => Sys2Proof.Machine.execRett s
  | .mvx k x => Sys2Proof.Machine.execMvx k x s
  | .mvq k x => Sys2Proof.Machine.execMvq k x s
  | .mva k x => Sys2Proof.Machine.execMva k x s
  | .mvw k x => Sys2Proof.Machine.execMvw k x s
  | .tdef b e im l => Sys2Proof.Machine.execTdef b e im l s
  | .tset e im x => Sys2Proof.Machine.execTset e im x s
  | .tget d e im => Sys2Proof.Machine.execTget d e im s
  | .vld d x im => Sys2Proof.Machine.execVld d x im s
  | .vst a x im => Sys2Proof.Machine.execVst a x im s
  | .vldt d r t => Sys2Proof.Machine.execVldt d r t s
  | .vstt a r t => Sys2Proof.Machine.execVstt a r t s
  | .vmov d a t => Sys2Proof.Machine.execVmov d a t s
  | .vsplat d x t => Sys2Proof.Machine.execVsplat d x t s
  | .vmovs d a im t => Sys2Proof.Machine.execVmovs d a im t s
  | .vadd d a b t => Sys2Proof.Machine.execVadd d a b t s
  | .vsub d a b t => Sys2Proof.Machine.execVsub d a b t s
  | .vmul d a b t => Sys2Proof.Machine.execVmul d a b t s
  | .vmin d a b t => Sys2Proof.Machine.execVmin d a b t s
  | .vmax d a b t => Sys2Proof.Machine.execVmax d a b t s
  | .vabs d a t => Sys2Proof.Machine.execVabs d a t s
  | .vneg d a t => Sys2Proof.Machine.execVneg d a t s
  | .vand d a b t => Sys2Proof.Machine.execVand d a b t s
  | .vor d a b t => Sys2Proof.Machine.execVor d a b t s
  | .vxor d a b t => Sys2Proof.Machine.execVxor d a b t s
  | .vshl d a b t => Sys2Proof.Machine.execVshl d a b t s
  | .vshr d a b t => Sys2Proof.Machine.execVshr d a b t s
  | .vsra d a b t => Sys2Proof.Machine.execVsra d a b t s
  | .vadds d a b t => Sys2Proof.Machine.execVadds d a b t s
  | .vsubs d a b t => Sys2Proof.Machine.execVsubs d a b t s
  | .vfma d a b c t t2 dyn rm => Sys2Proof.Machine.execVfma d a b c t t2 dyn rm s
  | .vfms d a b c t t2 dyn rm => Sys2Proof.Machine.execVfms d a b c t t2 dyn rm s
  | .vcmp d a b t c => Sys2Proof.Machine.execVcmp d a b t c s
  | .vsel d a b t => Sys2Proof.Machine.execVsel d a b t s
  | .vcvt d a t t2 dyn rm => Sys2Proof.Machine.execVcvt d a t t2 dyn rm s
  | .vwid d a t t2 dyn rm => Sys2Proof.Machine.execVwid d a t t2 dyn rm s
  | .vnar d a t t2 dyn rm => Sys2Proof.Machine.execVnar d a t t2 dyn rm s
  | .vscl d a b t t2 dyn rm p => Sys2Proof.Machine.execVscl d a b t t2 dyn rm p s
  | .vamax d a t f => Sys2Proof.Machine.execVamax d a t f s
  | .vqnt d a b t t2 dyn rm p => Sys2Proof.Machine.execVqnt d a b t t2 dyn rm p s
  | .vrcp d a t => Sys2Proof.Machine.execVrcp d a t s
  | .vsqrt d a t => Sys2Proof.Machine.execVsqrt d a t s
  | .vrsq d a t => Sys2Proof.Machine.execVrsq d a t s
  | .vexp2 d a t => Sys2Proof.Machine.execVexp2 d a t s
  | .vlog2 d a t => Sys2Proof.Machine.execVlog2 d a t s
  | .vperm d a b c t => Sys2Proof.Machine.execVperm d a b c t s
  | .vred d a t o => Sys2Proof.Machine.execVred d a t o s
  | .vscan d a t x o => Sys2Proof.Machine.execVscan d a t x o s
  | .vbcst d a im t => Sys2Proof.Machine.execVbcst d a im t s
  | .vvoteAny d a t => Sys2Proof.Machine.execVvoteAny d a t s
  | .vvoteAll d a t => Sys2Proof.Machine.execVvoteAll d a t s
  | .vbnet d a p => Sys2Proof.Machine.execVbnet d a p s
  | .vbpat p x im => Sys2Proof.Machine.execVbpat p x im s
  | .vchain x im => Sys2Proof.Machine.execVchain x im s
  | .vmvl d p u => Sys2Proof.Machine.execVmvl d p u s
  | .vdot d a b c t t2 => Sys2Proof.Machine.execVdot d a b c t t2 s
  | .mgo => Sys2Proof.Machine.execMgo s
  | .mgoKeep => Sys2Proof.Machine.execMgoKeep s
  | .mma => Sys2Proof.Machine.execMma s
  | .mmaRst => Sys2Proof.Machine.execMmaRst s
  | .mcfg d im => Sys2Proof.Machine.execMcfg d im s
  | .mcfgSh d im => Sys2Proof.Machine.execMcfgSh d im s
  | .azero n => Sys2Proof.Machine.execAzero n s
  | .astat d n => Sys2Proof.Machine.execAstat d n s
  | .astatVal d n => Sys2Proof.Machine.execAstatVal d n s
  | .astatCln d n => Sys2Proof.Machine.execAstatCln d n s
  | .arel n => Sys2Proof.Machine.execArel n s
  | .acpyChA d x => Sys2Proof.Machine.execAcpyChA d x s
  | .acpyACh d x => Sys2Proof.Machine.execAcpyACh d x s
  | .acpyAddChA d x => Sys2Proof.Machine.execAcpyAddChA d x s
  | .acpyAddACh d x => Sys2Proof.Machine.execAcpyAddACh d x s
  | .acpyI32ChA d x => Sys2Proof.Machine.execAcpyI32ChA d x s
  | .acpyI32ACh d x => Sys2Proof.Machine.execAcpyI32ACh d x s
  | .acpyAddI32ChA d x => Sys2Proof.Machine.execAcpyAddI32ChA d x s
  | .acpyAddI32ACh d x => Sys2Proof.Machine.execAcpyAddI32ACh d x s
  | .crel n => Sys2Proof.Machine.execCrel n s
  | .cstat d n => Sys2Proof.Machine.execCstat d n s
  | .cstatClr d n => Sys2Proof.Machine.execCstatClr d n s
  | .malias => Sys2Proof.Machine.execMalias s
  | .msamp => Sys2Proof.Machine.execMsamp s
  | .msrd d im => Sys2Proof.Machine.execMsrd d im s
  | .mswr x im => Sys2Proof.Machine.execMswr x im s
  | .vResultLanding => Sys2Proof.Machine.execVResultLanding s
  | .vchainElement => Sys2Proof.Machine.execVchainElement s
  | .mStep => Sys2Proof.Machine.execMStep s
  | .msampGroup => Sys2Proof.Machine.execMsampGroup s
  | .refineCall => Sys2Proof.Machine.execRefineCall s
  | .refineNormTest => Sys2Proof.Machine.execRefineNormTest s
  | .stallWatchdog aclk => Sys2Proof.Machine.execStallWatchdog aclk s
  | .cellStart => Sys2Proof.Machine.execCellStart s
  | .superstepEnd p => Sys2Proof.Machine.execSuperstepEnd p s
  | .schedulerChoice p => Sys2Proof.Machine.execSchedulerChoice p s
  | .timesliceExpiry p => Sys2Proof.Machine.execTimesliceExpiry p s
  | .chainStart => Sys2Proof.Machine.execChainStart s
  | .pumpTransferUnit => Sys2Proof.Machine.execPumpTransferUnit s
  | .streamWaitSatisfied => Sys2Proof.Machine.execStreamWaitSatisfied s
  | .commandCompletion => Sys2Proof.Machine.execCommandCompletion s
  | .pageWalk va useL2 => Sys2Proof.Machine.execPageWalk va useL2 s
  | .faultRecordPost => Sys2Proof.Machine.execFaultRecordPost s
  | .copy h x d n0 n1 n2 n3 ss1 ss2 ss3 ds1 ds2 ds3 => Sys2Proof.Machine.execCopy h x d n0 n1 n2 n3 ss1 ss2 ss3 ds1 ds2 ds3 s
  | .gath h x d x1 n rlen rstr isz => Sys2Proof.Machine.execGath h x d x1 n rlen rstr isz s
  | .scat h x d x1 n rlen rstr isz => Sys2Proof.Machine.execScat h x d x1 n rlen rstr isz s
  | .xpose h x d rows cols sstr dstr => Sys2Proof.Machine.execXpose h x d rows cols sstr dstr s
  | .conv h x d x1 n smoff fmt srcbf16 smooth rm slen seed => Sys2Proof.Machine.execConv h x d x1 n smoff fmt srcbf16 smooth rm slen seed s
  | .decomp h x d n => Sys2Proof.Machine.execDecomp h x d n s
  | .cmprs h x d x1 y n rm seed => Sys2Proof.Machine.execCmprs h x d x1 y n rm seed s
  | .mcast h x x1 n nd => Sys2Proof.Machine.execMcast h x x1 n nd s
  | .red h x d n ns op acc typ => Sys2Proof.Machine.execRed h x d n ns op acc typ s
  | .fill h d n val => Sys2Proof.Machine.execFill h d n val s
  | .atom h d opnd cmpv retoff op w64 => Sys2Proof.Machine.execAtom h d opnd cmpv retoff op w64 s
  | .sempr h d amt => Sys2Proof.Machine.execSempr h d amt s
  | .flipv h region ver inc => Sys2Proof.Machine.execFlipv h region ver inc s
  | .pref h d len => Sys2Proof.Machine.execPref h d len s
  | .loop n ds dd dx => Sys2Proof.Machine.execLoop n ds dd dx s
  | .endl => Sys2Proof.Machine.execEndl s
  | .ifsem addr n skip => Sys2Proof.Machine.execIfsem addr n skip s
  | .waits addr n => Sys2Proof.Machine.execWaits addr n s
  | .jmp off => Sys2Proof.Machine.execJmp off s
  | .chainFence kind scope => Sys2Proof.Machine.execChainFence kind scope s
  | .chainEnd => Sys2Proof.Machine.execChainEnd s
  | .windowAccess id => Sys2Proof.Machine.execWindowAccess id s
  | .atomicOp eng => Sys2Proof.Machine.execAtomicOp eng s
  | .queueBind w => Sys2Proof.Machine.execQueueBind w s
  | .queueUnbind w => Sys2Proof.Machine.execQueueUnbind w s
  | .queueReset w => Sys2Proof.Machine.execQueueReset w s
  | .doorbell q w => Sys2Proof.Machine.execDoorbell q w s
  | .packetHeaderPoll q => Sys2Proof.Machine.execPacketHeaderPoll q s
  | .launchPacket q => Sys2Proof.Machine.execLaunchPacket q s
  | .opchain q => Sys2Proof.Machine.execOpchain q s
  | .waitsig q => Sys2Proof.Machine.execWaitsig q s
  | .waitsigPoll q => Sys2Proof.Machine.execWaitsigPoll q s
  | .signal q => Sys2Proof.Machine.execSignal q s
  | .nopPacket q => Sys2Proof.Machine.execNopPacket q s
  | .resume w => Sys2Proof.Machine.execResume w s
  | .abort w => Sys2Proof.Machine.execAbort w s
  | .shootdown w => Sys2Proof.Machine.execShootdown w s
  | .shootdownAck => Sys2Proof.Machine.execShootdownAck s
  | .mailboxRequest w => Sys2Proof.Machine.execMailboxRequest w s
  | .mailboxResponse => Sys2Proof.Machine.execMailboxResponse s
  | .getMeasurements tr signed => Sys2Proof.Machine.execGetMeasurements tr signed s
  | .negotiateAlgorithms tr offersLms => Sys2Proof.Machine.execNegotiateAlgorithms tr offersLms s
  | .keyExchange tr session => Sys2Proof.Machine.execKeyExchange tr session s
  | .challenge tr => Sys2Proof.Machine.execChallenge tr s
  | .keyload tr session zero slot rest => Sys2Proof.Machine.execKeyload tr session zero slot rest s
  | .keyclear tr session zero rest => Sys2Proof.Machine.execKeyclear tr session zero rest s
  | .fwstage tr session zero offset rest => Sys2Proof.Machine.execFwstage tr session zero offset rest s
  | .fwactivate tr session zero slot pad length digest => Sys2Proof.Machine.execFwactivate tr session zero slot pad length digest s
  | .fwquery msg => Sys2Proof.Machine.execFwquery msg s
  | .policyRequest req queue tickets cls zero => Sys2Proof.Machine.execPolicyRequest req queue tickets cls zero s
  | .hbeat v => Sys2Proof.Machine.execHbeat v s
  | .updateHbeatTimeout => Sys2Proof.Machine.execUpdateHbeatTimeout s
  | .heartbeatMissed => Sys2Proof.Machine.execHeartbeatMissed s
  | .deviceReset img => Sys2Proof.Machine.execDeviceReset img s
  | .hostMemoryAccess win addr len wr => Sys2Proof.Machine.execHostMemoryAccess win addr len wr s
  | .peerAccess pkg va op => Sys2Proof.Machine.execPeerAccess pkg va op s
  | .registerWrite off eight v => Sys2Proof.Machine.execRegisterWrite off eight v s
  | .linkDown link => Sys2Proof.Machine.execLinkDown link s
  | .correctedError ctr => Sys2Proof.Machine.execCorrectedError ctr s
  | .supplyDroop block => Sys2Proof.Machine.execSupplyDroop block s
  | .thermalThrottle block => Sys2Proof.Machine.execThermalThrottle block s
  | .thermalShutdown => Sys2Proof.Machine.execThermalShutdown s
  | .lineAdvance => Sys2Proof.Machine.execLineAdvance s
  | .writePerformed sp id obs => Sys2Proof.Machine.execWritePerformed sp id obs s
  | .firmwarePolicyWrite w => Sys2Proof.Machine.execFirmwarePolicyWrite w s

end Machine
end Sys2Proof
end

