-- ==== Sys2Proof/Machine/Step.lean ====
section
/-! DEFINITION. One step of the package, and the placing of an instruction where the next step fetches it. -/

namespace Sys2Proof
namespace Machine

/-- One step: the turn's action, and the passing of time and turn. -/
def step (s : State) : Host.Outcome State Fault Refusal :=
  match nextAction s with
  | .idle => .next (tickOver s)
  | .acted t => .next (tickOver (settleTurn s .lineAdvance t))
  | .run t i => finishStep s i (exec i t)

/-- The state with an instruction of the opcode table in lane 1 of line 0 of core 0's text, and its engine's turn next. -/
def State.withFetchWord (s : State) (nbits w : Nat) : State :=
  { s with
    cores := s.cores.set 0 ((s.cores[0]).withWord nbits w), mgmt := { s.mgmt with stopped := false },
    turn := { core := 0, eng := wordEngine nbits w, stream := 0, what := .engine } }

end Machine
end Sys2Proof
end

