-- ==== Sys2Proof/Safety.lean ====
section
/-! DEFINITION. What the claims about steps speak of: how a core is left by an instruction, when an instruction is done, when it
waits, and what a register write is (R37, R42, R65, R73, R125, R301). -/

namespace Sys2Proof
namespace Machine

/-- A byte of a semaphore at which an engine of the core waits: granting the waiter may subtract there (R65). -/
def Core.awaited (k : Core) (a : Nat) : Prop := ∃ w ∈ k.waiters, semAt w.2.1 ≤ a ∧ a < semAt w.2.1 + 8

/-- The core that two states agree on but for the control states, the token counts, the well and who waits at a semaphore. -/
def Core.Rest (k k' : Core) : Prop :=
  k' = { k with ec := k'.ec, ea := k'.ea, ev := k'.ev, em := k'.em, tok := k'.tok, well := k'.well, waiters := k'.waiters }

/-- An engine's control state but for a grant it received (R65). -/
def EngineCtx.Kept (x x' : EngineCtx) : Prop :=
  x' = { x with granted := x'.granted, wait := x'.wait } ∧ (x'.wait = x.wait ∨ x'.wait = none)

/-- The acting engine's control state but for a grant it received and token pushes made or due (R42). -/
def EngineCtx.Own (x x' : EngineCtx) : Prop :=
  x' = { x with granted := x'.granted, wait := x'.wait, pushes := x'.pushes } ∧ (x'.wait = x.wait ∨ x'.wait = none)

/-- Nothing outside the core of the turn has changed; `nextId` numbers writes. -/
def State.OnlyCore (s t : State) : Prop := t = { s.setCoreAt s.turn.core t.core with nextId := s.nextId + idStep }

/-- THE STEP LEFT THE CORE OF THE TURN AS `k`: nothing outside it has changed, and every field of it is that of `k`, but that
token pushes of engine `e` were made as far as there was room (R42) and that engines waiting at semaphores were granted (R65). -/
structure State.Left (s t : State) (e : Engine) (k : Core) : Prop where
  outside : s.OnlyCore t
  own : (k.ctx e).Own (t.core.ctx e)
  others : ∀ x, x ≠ e → (k.ctx x).Kept (t.core.ctx x)
  rest : k.Rest t.core
  /-- Every byte of the well, as every observer reads it. -/
  bytes : ∀ o, o < 137 → ∀ a, ¬ k.awaited a → t.core.well.get o a = k.well.get o a
  tokens : s.issue.pushes = [] → (k.ctx e).pushes = [] → t.core.tok = k.tok

/-- THE INSTRUCTION OF ENGINE `e` IS DONE AND LEFT THE CORE AS `k`: the engine stands past the instruction's lanes as well. -/
def State.Done (s t : State) (e : Engine) (k : Core) : Prop := s.Left t e (k.modCtx e (fun x => x.past s.issue))

/-- THE INSTRUCTION WAITS: nothing has changed but the condition on which its engine is stalled (R73, R157). -/
def State.Waits (s t : State) (e : Engine) (w : Wait) : Prop := s.Left t e (s.core.stallOn e w)

/-- Scalar register `d` of engine `e` holds `x` (register 0 stays zero), and every other register, the branch registers
among them, is unchanged (R105, R125). -/
def Core.Wrote (k k' : Core) (e : Engine) (d : Reg) (x : W) : Prop :=
  (∀ y r, k'.getS y r = if y = e ∧ r = d ∧ d ≠ 0 then x else k.getS y r) ∧ k'.regs.b = k.regs.b

/-- A trap of engine `e` was taken (R329, R330): the three registers say which, the handler record holds C's resume point, C
stands at line TRAPV; `x` is where the trapping engine resumes; a SEMW that has subtracted completes first (R157), and a MALIAS in progress is abandoned (R280). Scalar registers, memories and everything else stay. -/
def Core.Trapped (k k' : Core) (e : Engine) (code : BitVec 8) (info : W) (tl : BitVec 18) (x : EngineCtx) : Prop :=
  let r := (k.setCtx e x).endGrants.abandon
  k' = { r with
    handler := some { saved := r.ec.unstall, depth := r.ec.stack.length, eng := e, code := code, info := info, tline := tl }
    waiters := []
    csr := { k.csr with tcause := code, tinfo := info, tline := tl }
    ec := { line := k.trapv, stack := r.ec.stack, outq := [] }
    ea := r.ea.unstall, ev := r.ev.unstall, em := r.em.unstall }

end Machine
end Sys2Proof
end

