-- ==== Sys2Proof/Certificates/Slice0/Obligations.lean ====
section
/-! DEFINITION. The statements about the model, each formalising rules of the manual. Helper functions first: value tables and
conditions written from the rules, so that a statement says what it claims in the manual's terms. -/

namespace Sys2Proof
namespace Machine

/-! ### Values of the scalar group (R126-R133) -/

/-- Bit `p` of `x` replaced (R130). -/
def withBit (x : W) (p : Nat) (b : Bool) : W := (x &&& ~~~(1#64 <<< p)) ||| (if b then 1#64 <<< p else 0)

/-- Destination, value, and whether it divides by zero, of a scalar instruction that computes a register from registers and
immediates; `rd` reads a scalar register (R127-R131, R133). -/
def aluResult (rd : Reg → W) : Instr → Option (Reg × W × Bool)
  | .add d a b => some (d, rd a + rd b, false)
  | .sub d a b => some (d, rd a - rd b, false)
  | .and d a b => some (d, rd a &&& rd b, false)
  | .or d a b => some (d, rd a ||| rd b, false)
  | .xor d a b => some (d, rd a ^^^ rd b, false)
  | .shl d a b => some (d, BitVec.ofNat 64 ((rd a).toNat * 2 ^ ((rd b).toNat % 64)), false)
  | .shr d a b => some (d, BitVec.ofNat 64 ((rd a).toNat / 2 ^ ((rd b).toNat % 64)), false)
  | .sra d a b => some (d, BitVec.ofInt 64 ((rd a).toInt / 2 ^ ((rd b).toNat % 64)), false)
  | .min d a b => some (d, if (rd a).toInt ≤ (rd b).toInt then rd a else rd b, false)
  | .max d a b => some (d, if (rd b).toInt ≤ (rd a).toInt then rd a else rd b, false)
  | .minw d a b => some (d, if (rd a).toNat ≤ (rd b).toNat then rd a else rd b, false)
  | .maxw d a b => some (d, if (rd b).toNat ≤ (rd a).toNat then rd a else rd b, false)
  | .mul d a b => some (d, BitVec.ofNat 64 ((rd a).toNat * (rd b).toNat), false)
  | .mulh d a b => some (d, BitVec.ofInt 64 ((rd a).toInt * (rd b).toInt / 2 ^ 64), false)
  | .mulhw d a b => some (d, BitVec.ofNat 64 ((rd a).toNat * (rd b).toNat / 2 ^ 64), false)
  | .div d a b => some (d, if rd b = 0 then BitVec.allOnes 64 else BitVec.ofInt 64 ((rd a).toInt.tdiv (rd b).toInt), rd b == 0)
  | .divw d a b => some (d, if rd b = 0 then BitVec.allOnes 64 else BitVec.ofNat 64 ((rd a).toNat / (rd b).toNat), rd b == 0)
  | .rem d a b => some (d, if rd b = 0 then rd a else BitVec.ofInt 64 ((rd a).toInt.tmod (rd b).toInt), rd b == 0)
  | .remw d a b => some (d, if rd b = 0 then rd a else BitVec.ofNat 64 ((rd a).toNat % (rd b).toNat), rd b == 0)
  | .clz d a => some (d, if rd a = 0 then 64 else BitVec.ofNat 64 (63 - Nat.log2 (rd a).toNat), false)
  | .popc d a => some (d, BitVec.ofNat 64 ((List.range 64).filter (fun j => (rd a).getLsbD j)).length, false)
  | .sel d a b => some (d, if (rd d).getLsbD 0 then rd a else rd b, false)
  | .addi d a i => some (d, rd a + i.signExtend 64, false)
  | .andi d a i => some (d, rd a &&& i.signExtend 64, false)
  | .ori d a i => some (d, rd a ||| i.signExtend 64, false)
  | .xori d a i => some (d, rd a ^^^ i.signExtend 64, false)
  | .shli d a n => some (d, BitVec.ofNat 64 ((rd a).toNat * 2 ^ n.toNat), false)
  | .shri d a n => some (d, BitVec.ofNat 64 ((rd a).toNat / 2 ^ n.toNat), false)
  | .srai d a n => some (d, BitVec.ofInt 64 ((rd a).toInt / 2 ^ n.toNat), false)
  | .lui d i => some (d, BitVec.ofInt 64 (i.toInt * 2 ^ 14), false)
  | .li d i => some (d, i.signExtend 64, false)
  | .cmpEq d a b p => some (d, withBit (rd d) p.toNat (decide (rd a = rd b)), false)
  | .cmpNe d a b p => some (d, withBit (rd d) p.toNat (decide (rd a ≠ rd b)), false)
  | .cmpLt d a b p => some (d, withBit (rd d) p.toNat (decide ((rd a).toInt < (rd b).toInt)), false)
  | .cmpLtw d a b p => some (d, withBit (rd d) p.toNat (decide ((rd a).toNat < (rd b).toNat)), false)
  | .cmpGe d a b p => some (d, withBit (rd d) p.toNat (decide ((rd b).toInt ≤ (rd a).toInt)), false)
  | .cmpGew d a b p => some (d, withBit (rd d) p.toNat (decide ((rd b).toNat ≤ (rd a).toNat)), false)
  | .cmpTst d a b p => some (d, withBit (rd d) p.toNat (decide (rd a &&& rd b ≠ 0)), false)
  | .cmpTstz d a b p => some (d, withBit (rd d) p.toNat (decide (rd a &&& rd b = 0)), false)
  | .bext d a p w => some (d, BitVec.ofNat 64 ((rd a).toNat / 2 ^ p.toNat % 2 ^ (w.toNat + 1)), false)
  | .bins d a p w =>
    let m : W := BitVec.ofNat 64 (2 ^ (w.toNat + 1) - 1)
    some (d, (rd d &&& ~~~(m <<< p.toNat)) ||| ((rd a &&& m) <<< p.toNat), false)
  | .addr d a b h i => some (d, rd a + BitVec.ofNat 64 ((rd b).toNat * 2 ^ h.toNat) + i.signExtend 64, false)
  | _ => none

/-- DZ set in the flag register of the executing engine: XFLG.CDZ, XFLG.ADZ, VFLG.DZ, MFLG.DZ (R126, R150). -/
def dzSet (e : Engine) (c : Csr) : Csr :=
  match e with
  | .c => { c with xflg := c.xflg ||| 1 }
  | .a => { c with xflg := c.xflg ||| 2 }
  | .v => { c with vflg := c.vflg ||| 2 }
  | .m => { c with mflg := c.mflg ||| 2 }

/-- A core with one more V result in flight, which lands after `l` slots (R210, R211). -/
def Core.withFlight (k : Core) (l : Nat) (d : VDest) (fl : Flags) (i : Issue) : Core :=
  { k with vp := { k.vp with flights := k.vp.flights ++ [{ rem := l - 1, dest := d, flags := fl, pushes := i.pushes }] } }

/-- Kind, offset and n of a semaphore instruction: is it SEMW, which semaphore, how many (R104, R134). -/
def smOperands (rd : Reg → W) : Instr → Option (Bool × Off × W32)
  | .semw b o n => some (true, smOff (rd b) o, n.setWidth 32)
  | .semwReg b o r => some (true, smOff (rd b) o, (rd r).setWidth 32)
  | .semp b o n => some (false, smOff (rd b) o, n.setWidth 32)
  | .sempReg b o r => some (false, smOff (rd b) o, (rd r).setWidth 32)
  | _ => none

/-- No engine of the core waits at a semaphore that could grant it (R65 tests waiters whenever a count changes). -/
def Core.quiet (k : Core) : Prop := ∀ w ∈ k.waiters, k.semCount w.2.1 < w.2.2.toNat

/-- The kind of a follower's branch (R136). -/
def brfKindOf : Instr → Option TKind
  | .brf => some .jump
  | .brfCall => some .call
  | .brfRet => some .ret
  | _ => none

/-- Kind, whether it is taken, target and mask of a branch of C (R145). -/
def transferOf (s : State) : Instr → Option (TKind × Bool × Line × BitVec 3)
  | .br b g i n m => some (.jump, (s.core.getS .c g).getLsbD i.toNat == n, vget s.core.regs.b b.toNat 0, m)
  | .brUncond b m => some (.jump, true, vget s.core.regs.b b.toNat 0, m)
  | .call b g i n m => some (.call, (s.core.getS .c g).getLsbD i.toNat == n, vget s.core.regs.b b.toNat 0, m)
  | .callUncond b m => some (.call, true, vget s.core.regs.b b.toNat 0, m)
  | .ret g i n m => some (.ret, (s.core.getS .c g).getLsbD i.toNat == n, 0, m)
  | .retUncond m => some (.ret, true, 0, m)
  | _ => none

/-- The return stack and the pending transfer after a taken transfer of `kind` at line `l`: L + 2 is a line index, which may lie
past the last line (R40, R46, R47). -/
def takenEffect (kind : TKind) (l : Line) (target : LineIx) (x : EngineCtx) : EngineCtx :=
  match kind with
  | .jump => { x with pend := some target }
  | .call => { x with pend := some target, stack := .line (BitVec.ofNat 13 (l.toNat + 2)) :: x.stack }
  | .ret => match x.stack with
    | .line n :: r => { x with pend := some n, stack := r }
    | _ => x

/-- The trap of `code` was taken precisely at the instruction, which has had no effect (R111, R330). -/
def State.TrapsAt (s t : State) (e : Engine) (code : BitVec 8) (info : W) : Prop :=
  s.OnlyCore t ∧ s.core.Trapped t.core e code info (tlineOf (s.core.ctx e) e s.issue.lane) { s.core.ctx e with wait := none }

/-- A trap can be taken: the handler does not run, and the kernel has one (R330, R331). -/
def Core.canTrap (k : Core) : Prop := k.handler = none ∧ k.trapv ≠ 0

/-- The cell halts with a record (R330): its engines stop. -/
def Core.Halted (k k' : Core) (h : HaltInfo) : Prop := k' = { k with halted := some h, waiters := [] }

/-- The word of the instruction as TINFO holds it. -/
def State.wordInfo (s : State) : W := s.issue.word.setWidth 64

/-! ### V (R203-R245) -/

/-- No storage error lies in the core's well or URS (R328). -/
def State.sound (s : State) : Prop := ∀ p ∈ s.poison, p.1 ≠ .well s.turn.core ∧ p.1 ≠ .urs s.turn.core

/-- A V-specific instruction that computes vector registers: destination, class, registers of its result, elements it draws
for, and whether the next slot is busy (R209, R210, R217, R226). -/
def vectorShape : Instr → Option (Reg × Nat × Nat × Nat × Bool)
  | .vmov d _ _ | .vsplat d _ _ | .vmin d _ _ _ | .vmax d _ _ _ | .vabs d _ _ | .vneg d _ _ | .vand d _ _ _ | .vor d _ _ _
  | .vxor d _ _ _ | .vshl d _ _ _ | .vshr d _ _ _ | .vsra d _ _ _ | .vadds d _ _ _ | .vsubs d _ _ _ | .vcmp d _ _ _ _
  | .vsel d _ _ _ => some (d, 0, 1, 0, false)
  | .vadd d _ _ t | .vsub d _ _ t => some (d, 0, 1, if typeInt t then 0 else typeCount t, false)
  | .vmul d _ _ t => some (d, 1, 1, if typeInt t then 0 else typeCount t, t == 11)
  | .vfma d _ _ _ t t2 _ _ | .vfms d _ _ _ t t2 _ _ =>
    some (d, 2, if t2 = t then 1 else 2, typeCount t, if t2 = t then t == 11 else true)
  | .vdot d _ _ _ _ _ => some (d, 2, 1, 0, false)
  | .vperm d _ _ _ _ | .vbcst d _ _ _ | .vbnet d _ _ => some (d, 3, 1, 0, false)
  | .vrcp d _ _ | .vsqrt d _ _ | .vrsq d _ _ | .vexp2 d _ _ | .vlog2 d _ _ => some (d, 4, 1, 0, false)
  | .vcvt d _ _ t2 _ _ => some (d, 5, 1, typeCount t2, false)
  | .vwid d _ t t2 _ _ => some (d, 5, typeWidth t2 / typeWidth t, typeCount t, false)
  | .vnar d _ _ t2 _ _ => some (d, 5, 1, typeCount t2, false)
  | .vscl d _ _ _ t2 _ _ _ => some (d, 5, 1, typeCount t2, false)
  | .vqnt d _ _ t _ _ _ _ => some (d, 5, 1, typeCount t, false)
  | .vamax d _ _ _ => some (d, 5, 1, 0, false)
  | .vscan d _ _ _ _ => some (d, 7, 1, 0, false)
  | _ => none

/-- Slots from issue to landing, by class: ALU 2, MUL 4, FMA 5, bit network 3, SFU 8, conversions 4, loads 6, reductions 6 (R210). -/
def latency (cls : Nat) : Nat := [2, 4, 5, 3, 8, 4, 6, 6].getD cls 2

/-- Element `j` of a source register, as its type reads it (R204): signed for i8, i16, i32, i64 and i4. -/
def State.lane (s : State) (r : Reg) (t : BitVec 4) (j : Nat) : Int :=
  let e := (s.core.vreg r).extractLsb' (j * typeWidth t) (typeWidth t)
  if t.toNat ∈ [0, 2, 4, 6, 7] then e.toInt else e.toNat

/-- The same element as a bit pattern. -/
def State.code (s : State) (r : Reg) (t : BitVec 4) (j : Nat) : Nat :=
  ((s.core.vreg r).extractLsb' (j * typeWidth t) (typeWidth t)).toNat

/-- Destination, type, whether it saturates, and exact lane values of the integer and bitwise instructions (R224, R225). -/
def laneValue (s : State) : Instr → Option (Reg × BitVec 4 × Bool × (Nat → Int))
  | .vmov d a t => some (d, t, false, fun j => s.code a t j)
  | .vsplat d b t => some (d, t, false, fun _ => (s.src b).toNat)
  | .vand d a b t => some (d, t, false, fun j => ((s.code a t j &&& s.code b t j : Nat) : Int))
  | .vor d a b t => some (d, t, false, fun j => ((s.code a t j ||| s.code b t j : Nat) : Int))
  | .vxor d a b t => some (d, t, false, fun j => ((s.code a t j ^^^ s.code b t j : Nat) : Int))
  | .vshl d a b t => some (d, t, false, fun j => ((s.code a t j * 2 ^ (s.code b t j % typeWidth t) : Nat) : Int))
  | .vshr d a b t => some (d, t, false, fun j => ((s.code a t j / 2 ^ (s.code b t j % typeWidth t) : Nat) : Int))
  | .vadd d a b t => if typeInt t then some (d, t, false, fun j => s.lane a t j + s.lane b t j) else none
  | .vsub d a b t => if typeInt t then some (d, t, false, fun j => s.lane a t j - s.lane b t j) else none
  | .vmul d a b t => if typeInt t then some (d, t, false, fun j => s.lane a t j * s.lane b t j) else none
  | .vmin d a b t => if typeInt t then some (d, t, false, fun j => min (s.lane a t j) (s.lane b t j)) else none
  | .vmax d a b t => if typeInt t then some (d, t, false, fun j => max (s.lane a t j) (s.lane b t j)) else none
  | .vabs d a t => if typeInt t then some (d, t, false, fun j => |s.lane a t j|) else none
  | .vneg d a t => if typeInt t then some (d, t, false, fun j => -(s.lane a t j)) else none
  | .vadds d a b t => if typeInt t then some (d, t, true, fun j => s.lane a t j + s.lane b t j) else none
  | .vsubs d a b t => if typeInt t then some (d, t, true, fun j => s.lane a t j - s.lane b t j) else none
  | .vsra d a b t => if typeInt t then some (d, t, false, fun j => s.lane a t j / 2 ^ (s.code b t j % typeWidth t)) else none
  | _ => none

/-- Bounds of an integer type (R79). -/
def laneMin (t : BitVec 4) : Int := if t.toNat ∈ [0, 2, 4, 6, 7] then -(2 ^ (typeWidth t - 1)) else 0
def laneMax (t : BitVec 4) : Int := if t.toNat ∈ [0, 2, 4, 6, 7] then 2 ^ (typeWidth t - 1) - 1 else 2 ^ typeWidth t - 1

/-- Is lane `j` active under the instruction's MSK (R207)? -/
def State.laneOn (s : State) (j : Nat) : Bool :=
  match s.issue.mask with
  | none => true
  | some (m, invert, _) => (s.core.vreg m).getLsbD j != invert

/-- Does an inactive lane become zero (R207)? -/
def State.laneZero (s : State) : Bool :=
  match s.issue.mask with
  | none => false
  | some (_, _, z) => z

/-- Element `j` of a floating source as its encoding and as a value, subnormals flushed under VMODE.DAZ (R90, R217). -/
def State.fcode (s : State) (r : Reg) (t : BitVec 4) (j : Nat) : Nat := flush (s.core.csr.vmode.getLsbD 0) t (s.code r t j)
def State.fval (s : State) (r : Reg) (t : BitVec 4) (j : Nat) : Fp := decode (typeFmt t) (s.fcode r t j)

/-- The rounding mode of an instruction, VMODE.RM where it names none, and the draw of its lane `j` (R82, R86, R103, R217). -/
def State.mode (s : State) (dyn : Bool) (rm : BitVec 3) : RMode := rmodeOf (if dyn then s.core.csr.vmode.extractLsb' 2 3 else rm)
def State.drawOf (s : State) (j : Nat) : Nat := (mix (s.core.csr.vsrc + BitVec.ofNat 64 j) s.core.csr.vsrk).toNat % 65536

/-- An exact value with the flags of its operation, rounded once to a type: encoding and flags (R83-R85). -/
def roundedTo (t : BitVec 4) (x : Fp × Flags) (rm : RMode) (u : Nat) : Nat × Flags :=
  ((convFp (typeFmt t) x.1 rm u).1, x.2 ||| (convFp (typeFmt t) x.1 rm u).2)

/-- A value of an integer type reduced modulo its width, and one brought into its range, which sets OF and IX (R88, R89). -/
def modWidth (t : BitVec 4) (x : Int) : Nat := (x % 2 ^ typeWidth t).toNat
def saturated (t : BitVec 4) (x : Int) : Nat × Flags :=
  let y := max (laneMin t) (min (laneMax t) x)
  (modWidth t y, if y = x then 0 else 20)

/-- An element of type `t` converted to `t2` (R85, R88, R229). -/
def converted (s : State) (t t2 : BitVec 4) (code : Nat) (rm : RMode) (j : Nat) : Nat × Flags :=
  let x := decode (typeFmt t) (flush (s.core.csr.vmode.getLsbD 0) t code)
  let n : Int := if t.toNat ∈ [0, 2, 4, 6, 7] then (BitVec.ofNat (typeWidth t) code).toInt else code
  match typeInt t, typeInt t2 with
  | false, false => roundedTo t2 (x, 0) rm (s.drawOf j)
  | false, true => floatToInt (decide (t2.toNat ∈ [0, 2, 4, 6, 7])) (typeWidth t2) x rm
  | true, false => roundedTo t2 (.fin (decide (n < 0)) n.natAbs 0, 0) rm (s.drawOf j)
  | true, true => if typeWidth t < typeWidth t2 then (modWidth t2 n, 0) else saturated t2 n

/-- Does condition `c` of VCMP hold of two values by their order (R227)? -/
def conditionHolds (c : Nat) (lt eq un : Bool) : Bool :=
  match c with
  | 0 => !un && eq
  | 1 => un || !eq
  | 2 => !un && lt
  | 3 => !un && (lt || eq)
  | 4 => !un && !lt && !eq
  | 5 => !un && !lt
  | 6 => un
  | _ => !un

/-- The cross-lane read of lane `j` of a table of `size` lanes, 0 where no lane serves (R208). -/
def State.crossRead (s : State) (tab : Nat → Nat) (size cnt j : Nat) : Nat :=
  if size ≤ j then 0 else (((List.range (j + 1)).reverse.find? (fun q => s.laneOn (q % cnt))).map tab).getD 0

/-- Operation and identity of a scan of a floating type (R237, R238). -/
def scanOpF (t : BitVec 4) (o : Nat) (x y : Nat) : Nat × Flags :=
  match o with
  | 0 => addF (typeFmt t) x y .rne 0
  | 1 => fpMinMax true (typeFmt t) x y
  | _ => fpMinMax false (typeFmt t) x y
def scanIdF (t : BitVec 4) (o : Nat) : Nat :=
  match o with
  | 0 => 2 ^ (typeWidth t - 1)
  | 1 => 2 ^ (typeWidth t - 1) + (typeFmt t).infCode
  | _ => (typeFmt t).infCode

/-- A floating element as FP32, or FP64 (R237), with the flags of its widening. -/
def wideOf (t : BitVec 4) (x : Nat) : Nat × Flags :=
  if t = 8 then (x * 2 ^ 16, 0) else if t = 9 then convFp .f32 (decode .f16 x) .rne 0 else (x, 0)

/-- A pairwise tree over 2^n leaves: its two halves combined (R237). -/
def pairTree {α : Type} (op : α → α → α) : Nat → (Nat → α) → α
  | 0, x => x 0
  | n + 1, x => op (pairTree op n x) (pairTree op n (fun j => x (j + 2 ^ n)))

/-- One operation of a VCHAIN on an element `x` and its operand `y` (R242, R243): exact and rounded once, R77 for MIN, MAX, ABS and
NEG, modulo 2^32 for i32; the value and its flags. -/
def chainOp (c : VChain) (o x y : Nat) : Nat × Flags :=
  let t := c.typ
  if t = 4 then
    let a := (BitVec.ofNat 32 x).toInt
    let b := (BitVec.ofNat 32 y).toInt
    (modWidth t (match o with
      | 0 => a + b | 1 => a - b | 2 => a * b | 3 => min a b | 4 => max a b | 5 => |a| | 6 => -a | _ => b - a), 0)
  else
    let rm := rmodeOf c.rm
    let fx := flush c.daz t x
    let fy := flush c.daz t y
    let vx := decode (typeFmt t) fx
    let vy := decode (typeFmt t) fy
    match o with
    | 0 => roundedTo t (fpAdd vx vy rm) rm 0
    | 1 => roundedTo t (fpAdd vx (fpNeg vy) rm) rm 0
    | 2 => roundedTo t (fpMul vx vy) rm 0
    | 3 => fpMinMax false (typeFmt t) fx fy
    | 4 => fpMinMax true (typeFmt t) fx fy
    | 5 => (x % 2 ^ (typeWidth t - 1), 0)
    | 6 => ((x + 2 ^ (typeWidth t - 1)) % 2 ^ typeWidth t, 0)
    | _ => roundedTo t (fpAdd vy (fpNeg vx) rm) rm 0

/-- WHAT A RESULT COMPUTED LANE BY LANE HOLDS: `n` lanes of `w` bits with values and flags `f`, lane j in register j mod `k`, at
position `first` + ⌊j / k⌋; `whole` when inactive lanes are written as well; `zeros` when the bits outside the lanes are written as 0. -/
structure LaneRule where
  w : Nat
  n : Nat
  f : Nat → Nat × Flags
  first : Nat := 0
  k : Nat := 1
  whole : Bool := false
  zeros : Bool := false

/-- Lanes of the floating, comparing, selecting, converting, permuting, scanning and accumulating instructions (R224-R245). -/
def laneRule (s : State) (i : Instr) : Option LaneRule :=
  let float (t : BitVec 4) (f : Nat → Nat × Flags) : Option LaneRule :=
    if typeInt t then none else some { w := typeWidth t, n := typeCount t, f := f }
  let sum (t : BitVec 4) (x y : Fp) (j : Nat) : Nat × Flags :=
    roundedTo t (fpAdd x y (srFor (typeFmt t) (s.mode true 0))) (s.mode true 0) (s.drawOf j)
  let fma (neg : Bool) (a b c : Reg) (t t2 : BitVec 4) (dyn : Bool) (rm : BitVec 3) : Option LaneRule :=
    let add (z : Fp) : Fp := if neg then fpNeg z else z
    let m := s.mode dyn rm
    let f (z : Nat → Fp) (j : Nat) : Nat × Flags :=
      roundedTo t2 (fpFma (s.fval a t j) (s.fval b t j) (add (z j)) (srFor (typeFmt t2) m)) m (s.drawOf j)
    if t2 = t then some { w := typeWidth t, n := typeCount t, f := f (s.fval c t) }
    else if t2 = 10 ∧ typeWidth t = 16 then some {
      w := 32, n := typeCount t, f := f (fun j => s.fval (c + BitVec.ofNat 6 (j % 2)) 10 (j / 2)), k := 2, whole := true }
    else none
  let special (a : Reg) (t : BitVec 4) (g : Fp → Fp × Flags) : Option LaneRule :=
    some { w := typeWidth t, n := typeCount t, f := fun j => roundedTo t (g (s.fval a t j)) .rne 0 }
  match i with
  | .vadd _ a b t => float t (fun j => sum t (s.fval a t j) (s.fval b t j) j)
  | .vsub _ a b t => float t (fun j => sum t (s.fval a t j) (fpNeg (s.fval b t j)) j)
  | .vmul _ a b t => float t (fun j => roundedTo t (fpMul (s.fval a t j) (s.fval b t j)) (s.mode true 0) (s.drawOf j))
  | .vmin _ a b t => float t (fun j => fpMinMax false (typeFmt t) (s.fcode a t j) (s.fcode b t j))
  | .vmax _ a b t => float t (fun j => fpMinMax true (typeFmt t) (s.fcode a t j) (s.fcode b t j))
  | .vabs _ a t => float t (fun j => (s.code a t j % 2 ^ (typeWidth t - 1), 0))
  | .vneg _ a t => float t (fun j => ((s.code a t j + 2 ^ (typeWidth t - 1)) % 2 ^ typeWidth t, 0))
  | .vfma _ a b c t t2 dyn rm => fma false a b c t t2 dyn rm
  | .vfms _ a b c t t2 dyn rm => fma true a b c t t2 dyn rm
  | .vcmp _ a b t c =>
    let one (x : Bool) : Nat := if x then 1 else 0
    some {
      w := 1, n := typeCount t, zeros := true
      f := fun j =>
        if typeInt t then
          (one (conditionHolds c.toNat (decide (s.lane a t j < s.lane b t j)) (decide (s.lane a t j = s.lane b t j)) false), 0)
        else
          let x := if c.toNat < 2 then decode (typeFmt t) (s.code a t j) else s.fval a t j
          let y := if c.toNat < 2 then decode (typeFmt t) (s.code b t j) else s.fval b t j
          (one (conditionHolds c.toNat (decide (fpCmp x y < 0)) (decide (fpCmp x y = 0)) (x.isNan || y.isNan)),
            if x.isSnan || y.isSnan then 1 else 0) }
  | .vsel _ a b t => some {
      w := typeWidth t, n := typeCount t, whole := true
      f := fun j =>
        (if s.laneOn j then s.code a t j else s.code b t j, 0) }
  | .vcvt _ a t t2 dyn rm => some {
      w := typeWidth t2, n := typeCount t2
      f := fun j =>
        converted s t t2 ((s.core.vreg a).extractLsb' (j * typeWidth t) (typeWidth t)).toNat (s.mode dyn rm) j }
  | .vwid _ a t t2 dyn rm =>
    if typeWidth t ≤ typeWidth t2 then some {
      w := typeWidth t2, n := typeCount t, k := typeWidth t2 / typeWidth t, whole := true
      f := fun j => converted s t t2 (s.code a t j) (s.mode dyn rm) j }
    else none
  | .vnar _ a t t2 dyn rm =>
    let k := typeWidth t / typeWidth t2
    some {
      w := typeWidth t2, n := typeCount t2, whole := true
      f := fun j =>
        converted s t t2 (s.code (a + BitVec.ofNat 6 (j % k)) t (j / k)) (s.mode dyn rm) j }
  | .vscl _ a b t t2 dyn rm p => some {
      w := typeWidth t2, n := typeCount t2
      f := fun j =>
        let sc := ((s.core.vreg b).extractLsb' (j / 32 * 8) 8).toNat
        if sc = 255 then ((typeFmt t2).nanCode, 0)
        else roundedTo t2 (fpScale (decode (typeFmt t) (s.code a t (p.toNat * typeCount t2 + j))) ((sc : Int) - 127), 0)
          (s.mode dyn rm) (s.drawOf j) }
  | .vqnt _ a b t t2 dyn rm p =>
    if (p.toNat + 1) * typeCount t * typeWidth t2 ≤ 4096 then some {
      w := typeWidth t2, n := typeCount t, first := p.toNat * typeCount t
      f := fun j =>
        let sc := ((s.core.vreg b).extractLsb' (j / 32 * 8) 8).toNat
        if sc = 255 then (0, 0) else roundedTo t2 (fpScale (s.fval a t j) (127 - (sc : Int)), 0) (s.mode dyn rm) (s.drawOf j) }
    else none
  | .vamax _ a t f =>
    let v (q : Nat) : Fp := if s.laneOn q then s.fval a t q else .fin false 0 0
    let fmt : Fmt := if f = 0 then .e4m3 else if f = 1 then .e5m2 else if f = 2 then .e2m1 else .kt8
    some {
      w := 8, n := typeCount t / 32, whole := true, zeros := true
      f := fun j =>
        let block := (List.range 32).map (fun q => v (32 * j + q))
        (mxScale block fmt, if block.any (fun x => x.isSnan) then 1 else 0) }
  | .vrcp _ a t => special a t fpRcp
  | .vsqrt _ a t => special a t fpSqrt
  | .vrsq _ a t => special a t fpRsq
  | .vexp2 _ a t => special a t fpExp2
  | .vlog2 _ a t => special a t fpLog2
  | .vperm _ a b c t =>
    let n := typeCount t
    let idx (j : Nat) : Nat := ((s.core.vreg (b + BitVec.ofNat 6 (j / 256))).extractLsb' (j % 256 * 16) 16).toNat
    some {
      w := typeWidth t, n := n
      f := fun j =>
        (s.crossRead (fun q => if q < n then s.code a t q else s.code c t (q - n)) (2 * n) n (idx j), 0) }
  | .vbcst _ a g t => some {
      w := typeWidth t, n := typeCount t
      f := fun _ =>
        (s.crossRead (s.code a t) (typeCount t) (typeCount t) ((s.src g).toNat % typeCount t), 0) }
  | .vbnet _ a p => some {
      w := 1, n := 4096, whole := true
      f := fun j =>
        let e := ((vget s.core.vp.patterns p.toNat 0).extractLsb' (10 * (j % 512)) 10).toNat
        (if (s.core.vreg (if e < 512 then a else a + 1)).getLsbD (j / 512 * 512 + e % 512) then 1 else 0, 0) }
  | .vscan _ a t x o =>
    let before (j : Nat) (incl : Bool) : List Nat := (List.range (if incl then j + 1 else j)).filter (fun q => s.laneOn q)
    if typeInt t then
      let run (l : List Nat) : Int := match o.toNat with
        | 0 => (l.map (s.lane a t)).sum
        | 1 => (l.map (s.lane a t)).foldl max (laneMin t)
        | _ => (l.map (s.lane a t)).foldl min (laneMax t)
      if o.toNat < 3 then some { w := typeWidth t, n := typeCount t, f := fun j => (modWidth t (run (before j (!x))), 0) } else none
    else
      let run (l : List Nat) : Nat × Flags := l.foldl
        (fun r q => let y := scanOpF t o.toNat r.1 (s.fcode a t q); (y.1, r.2 ||| y.2)) (scanIdF t o.toNat, 0)
      some { w := typeWidth t, n := typeCount t, f := fun j => ((run (before j (!x))).1, (run (before j true)).2) }
  | .vdot _ a b c t t2 =>
    let g := 32 / typeWidth t
    let of_ (j : Nat) : List Nat := (List.range g).map (fun q => g * j + q)
    some {
      w := 32, n := 128
      f := fun j =>
        if t2 = 4 then saturated 4 (s.lane c 4 j + ((of_ j).map (fun q => s.lane a t q * s.lane b t q)).sum)
        else groupSum (s.fcode c t2 j) ((of_ j).map (fun q => fpMul (s.fval a t q) (s.fval b t q))) }
  | _ => none

/-- The registers of a result hold the lanes of a rule: an active lane its value, an inactive one zero under Z, and otherwise its old
bits, which the result does not write; the flags are those of the lanes computed (R207). -/
def LaneRule.Holds (r : LaneRule) (s : State) (parts : List (VReg × VReg)) (fl : Flags) : Prop :=
  let on (j : Nat) : Bool := r.whole || s.laneOn j
  let place (j : Nat) : Nat := (r.first + j / r.k) * r.w
  let part (q : Nat) : VReg × VReg := parts.getD q (0, 0)
  fl = (List.range r.n).foldl (fun x j => if on j then x ||| (r.f j).2 else x) 0
    ∧ (∀ j, j < r.n →
      (on j = true → ((part (j % r.k)).1.extractLsb' (place j) r.w).toNat = (r.f j).1 % 2 ^ r.w)
      ∧ (on j = false → s.laneZero = true → (part (j % r.k)).1.extractLsb' (place j) r.w = 0)
      ∧ (part (j % r.k)).2.extractLsb' (place j) r.w = if on j || s.laneZero then BitVec.allOnes r.w else 0)
    ∧ (∀ q b, q < r.k → b < 4096 → (∀ j, j < r.n → j % r.k = q → b < place j ∨ place j + r.w ≤ b) →
      (part q).2.getLsbD b = r.zeros ∧ (r.zeros = true → (part q).1.getLsbD b = false))

/-! ### M (R247-R286) -/

/-- No storage error lies in a store of the core (R328). -/
def State.allSound (s : State) : Prop :=
  ∀ p ∈ s.poison, p.1 ≠ .well s.turn.core ∧ p.1 ≠ .urs s.turn.core ∧ p.1 ≠ .cist s.turn.core

/-- Element `e` of a-register `n` as path M reads it: 64×64 elements of four bytes, row-major, from VIEWA (R13, R261). -/
def Core.aElem (k : Core) (n e : Nat) : W32 :=
  BitVec.ofNat 32 (leNat ((List.range 4).map (fun j => k.urs.get (pathOf .m) ((k.viewa + 16384 * n + 4 * e + j) % 2 ^ 18))))

/-- Path M reads every byte of the URS outside a-register `n` as before (R13, R261). -/
def Core.OnlyAreg (k k' : Core) (n : Nat) : Prop :=
  ∀ a, (∀ j, j < 16384 → a ≠ (k.viewa + 16384 * n + j) % 2 ^ 18) → k'.urs.get (pathOf .m) a = k.urs.get (pathOf .m) a

/-- Element `e` of bank `b` of the cistern (R13). -/
def Core.cElem (k : Core) (b e : Nat) : W32 :=
  BitVec.ofNat 32 (leNat ((List.range 4).map (fun j => k.cist.data.get (pathOf .m) (16384 * b + 4 * e + j))))

/-- Operands of an ACPY: into a handle, adds, in i32; then handle and a-register (R269). -/
def acpyOperands : Instr → Option (Bool × Bool × Bool × Reg × Reg)
  | .acpyChA d a => some (true, false, false, d, a)
  | .acpyACh d a => some (false, false, false, a, d)
  | .acpyAddChA d a => some (true, true, false, d, a)
  | .acpyAddACh d a => some (false, true, false, a, d)
  | .acpyI32ChA d a => some (true, false, true, d, a)
  | .acpyI32ACh d a => some (false, false, true, a, d)
  | .acpyAddI32ChA d a => some (true, true, true, d, a)
  | .acpyAddI32ACh d a => some (false, true, true, a, d)
  | _ => none

/-- An element after an ACPY: the source's bits, the rounded FP32 sum, or the i32 sum with saturation (R93, R269). -/
def acpyValue (add i32 : Bool) (dst src : W32) : W32 :=
  if !add then src
  else if i32 then BitVec.ofInt 32 (max (-(2 ^ 31)) (min (2 ^ 31 - 1) (dst.toInt + src.toInt)))
  else BitVec.ofNat 32 (addF .f32 dst.toNat src.toNat .rne 0).1

/-- The flags of that element: those of the rounded sum, or OF and IX where the i32 sum saturates (R93). -/
def acpyFlags (add i32 : Bool) (dst src : W32) : Flags :=
  if !add then 0
  else if i32 then (if (acpyValue add i32 dst src).toInt = dst.toInt + src.toInt then 0 else 20)
  else (addF .f32 dst.toNat src.toNat .rne 0).2

/-- A target can be written at once (R58, R60, R61): an a-register, a handle whose bank no stream owns, or an unbound handle for which
a bank is free. -/
def Core.writable (k : Core) (t : MTarget) : Prop :=
  ∀ h, t = .handle h → (∃ b, k.bankOf k.cellId h = some b ∧ k.bankOwned b = false)
    ∨ (k.bankOf k.cellId h = none ∧ k.handleOwned k.cellId h = false ∧ k.cist.free ≠ [])

/-- WRITEBACK (R58, R259): the sums held in `h` are in its target's elements within the limits and active under the mask, every other
element and byte reads as before, and the array is empty. An a-register is then valid and dirty; an unbound handle that is written
gets a free bank, whose other elements are zero. -/
def Core.WroteBack (k k' : Core) (h : Held) : Prop :=
  let now (e : Nat) (old : W32) : W32 :=
    if e / 64 < h.mlim ∧ e % 64 < h.nlim ∧ activeMN h.actM h.actN (e / 64) (e % 64) = true then h.acc.getD e 0 else old
  let some_ : Prop := ∃ e, e < 4096 ∧ e / 64 < h.mlim ∧ e % 64 < h.nlim ∧ activeMN h.actM h.actN (e / 64) (e % 64) = true
  k'.mx.held = none ∧ k'.mx.active = k.mx.active ∧ k'.mx.shadow = k.mx.shadow
    ∧ (∀ n, h.tgt = .areg n → k'.cist = k.cist
      ∧ k'.mx.valid = k.mx.valid ||| 1#8 <<< n.val ∧ k'.mx.dirty = k.mx.dirty ||| 1#8 <<< n.val
      ∧ (∀ e, e < 4096 → k'.aElem n.val e = now e (k.aElem n.val e))
      ∧ k.OnlyAreg k' n.val ∧ ∀ o, o < 137 → o ≠ pathOf .m → ∀ a, k'.urs.get o a = k.urs.get o a)
    ∧ (∀ hd, h.tgt = .handle hd → k'.urs = k.urs ∧ k'.mx.valid = k.mx.valid ∧ k'.mx.dirty = k.mx.dirty
      ∧ k'.cist.own = k.cist.own ∧ k'.cist.unb = k.cist.unb
      ∧ (∀ b, k.bankOf k.cellId hd = some b → k'.cist = { k.cist with data := k'.cist.data }
        ∧ (∀ e, e < 4096 → k'.cElem b.val e = now e (k.cElem b.val e))
        ∧ (∀ y, (y < 16384 * b.val ∨ 16384 * (b.val + 1) ≤ y) →
            k'.cist.data.get (pathOf .m) y = k.cist.data.get (pathOf .m) y)
        ∧ ∀ o, o < 137 → o ≠ pathOf .m → ∀ y, k'.cist.data.get o y = k.cist.data.get o y)
      ∧ (k.bankOf k.cellId hd = none → ¬ some_ → k'.cist = k.cist)
      ∧ (k.bankOf k.cellId hd = none → some_ → ∃ b ∈ k.cist.free, k'.bankOf k.cellId hd = some b ∧ b ∉ k'.cist.free
        ∧ (∀ e, e < 4096 → k'.cElem b.val e = now e 0)
        ∧ ∀ o, o < 137 → ∀ y, (y < 16384 * b.val ∨ 16384 * (b.val + 1) ≤ y) →
            k'.cist.data.get o y = k.cist.data.get o y))

/-- A step can run at once: its tiles are READY, its target is held or finds the array empty, and can be loaded and written
(R60, R61, R251, R259). -/
def Core.stepReady (k : Core) : Prop :=
  let tgt := targetAt k.mx.active (sigC k.mx.active k.mx.pos)
  (∀ e ∈ stepTiles k.mx.active k.mx.pos, (k.tile e).state = .ready) ∧ (∀ h, k.mx.held = some h → h.tgt = tgt) ∧ k.writable tgt

/-- ONE STEP OF A NEST OR AN MMA (R258, R259, R266, R267): the position moves on and NSTEP counts; the target is held with the
step's sums, or after the last step of its reduction these are written back; a single step, or the nest's last, completes its
instruction. -/
def Core.Stepped (k k' : Core) (mma : Bool) (x y : BitVec 64) (fl : Flags) (i : Issue) : Prop :=
  let tgt := targetAt k.mx.active (sigC k.mx.active k.mx.pos)
  let last := roleAt k.mx.active k.mx.pos 3 true
  let adv := advancePos k.mx.active [5, 4, 3, 2, 1, 0] k.mx.pos
  let r := k.stepArith k.mx.active tgt x y
  k'.mx.pos = adv.1 ∧ k'.mx.nstep = k.mx.nstep + 1
    ∧ k'.mx.active = k.mx.active ∧ k'.mx.shadow = k.mx.shadow
    ∧ r.1.tgt = tgt ∧ r.1.mlim = limitM k.mx.active (roleAt k.mx.active k.mx.pos 1 true)
    ∧ r.1.nlim = limitN k.mx.active (roleAt k.mx.active k.mx.pos 2 true) ∧ r.1.actM = x ∧ r.1.actN = y
    ∧ (last = false → k'.urs = k.urs ∧ k'.cist = k.cist ∧ k'.mx.valid = k.mx.valid ∧ k'.mx.dirty = k.mx.dirty
        ∧ k'.mx.held = some r.1)
    ∧ (last = true → k.WroteBack k' r.1)
    ∧ ((mma || adv.2) = true → k'.mx.run = .idle ∧ k'.em.lane = i.nextLane
        ∧ k'.csr = { k.csr with mflg := k.csr.mflg ||| (fl ||| r.2) })
    ∧ ((mma || adv.2) = false → k'.mx.run = .nest mma .start x y (fl ||| r.2) i ∧ k'.csr = k.csr ∧ k'.em.lane = k.em.lane)
    ∧ k'.regs = k.regs ∧ k'.tiles = k.tiles ∧ k'.vp = k.vp ∧ k'.samp = k.samp ∧ k'.streams = k.streams
    ∧ k'.ref = k.ref ∧ k'.handler = k.handler ∧ k'.vals = k.vals ∧ k'.cell = k.cell ∧ k'.halted = k.halted
    ∧ (∀ o, o < 137 → ∀ a, ¬ k.awaited a → k'.well.get o a = k.well.get o a)

/-- The bits that an entry has by a table of entries, from and to, all 64 where the table names none. -/
def namedBits (table : List (Nat × Nat × W)) (i : Nat) : W :=
  ((table.find? (fun x => decide (x.1 ≤ i) && decide (i ≤ x.2.1))).map (·.2.2)).getD (BitVec.allOnes 64)

/-- Bits of the entries of a configuration bank that their map does not name zero (R4, R254, R255): NCTL and TILES, MASKS, LCTL of the
six levels, UIMG, UCH. -/
def bankBits : Nat → W := namedBits [(0x00, 0x00, 0xFFFF), (0x09, 0x09, 0xFFFF), (0x01, 0x01, 0x1FF7F7F), (0x10, 0x15, 0xFF3FFFFFFFF),
  (0x30, 0x30, 0xFFFFFFFFFFFF), (0x31, 0x31, 0xFFFFFF)]

/-- The same of the sampling registers, from 0x100 (R4, R273): SCTL, SK, the offsets, SLLEN, the counts, SSTAT, SEXIT. -/
def samplingBits : Nat → W := namedBits [(0x00, 0x00, 3), (0x01, 0x01, 0x7FFFF), (0x02, 0x04, 0x7FFFFF), (0x07, 0x07, 0x7FFFFF),
  (0x08, 0x08, 0x1FFFFF), (0x09, 0x09, 0x7FFFFF), (0x0A, 0x0B, 0xFFFFFFFF), (0x11, 0x11, 3), (0x14, 0x14, 0xFFFFFFFF), (0x15, 0x15, 7)]

/-- A value of i32 with saturation (R93). -/
def sat32 (x : Int) : Int := max (-(2 ^ 31)) (min (2 ^ 31 - 1) x)

/-- Action and branch register of exit class `cls` (1 CONV, 2 DIVG, 3 STAG, 4 IMAX) in an ACT field (R288). -/
def actionOf (act : W32) (cls : Nat) : Nat × Nat := (act.toNat / 2 ^ (8 * (cls - 1)) % 4, act.toNat / 2 ^ (8 * (cls - 1) + 2) % 8)

/-- NormInf of `n` FP64 elements at a well offset, as path M reads them: the largest magnitude, and a NaN when an element is one
(R292). -/
def Core.largest (k : Core) (off n : Nat) : Nat :=
  (List.range n).foldl (fun m i =>
    let x := leNat ((List.range 8).map (fun j => k.well.get (pathOf .m) ((off + 8 * i + j) % 2 ^ 23))) 
    if (decode .f64 m).isNan then m else if (decode .f64 (x % 2 ^ 63)).isNan then 0x7FF8000000000000
    else if fpCmp (decode .f64 m) (decode .f64 (x % 2 ^ 63)) < 0 then x % 2 ^ 63 else m) 0

/-- η and the flags of its roundings (R292): the residual's norm over ANORM·|x| + |b|, whose exact value is rounded once; a zero
denominator gives +0 for a zero residual and +∞ otherwise. -/
def etaRule (r : Refine) (rn xn : Nat) : W × Flags :=
  let den := fin1 .f64 (fpFma (decode .f64 r.anorm.toNat) (decode .f64 xn) (decode .f64 r.bn.toNat) .rne) .rne 0
  let q := fin1 .f64 (fpDiv (decode .f64 rn) (decode .f64 den.1)) .rne 0
  if (decode .f64 den.1).isZero then
    (if (decode .f64 rn).isZero then 0 else 0x7FF0000000000000, den.2)
  else (BitVec.ofNat 64 q.1, den.2 ||| q.2)

/-- The exit class of an η (R292): 1 when η ≤ TAU; else 2 when η is NaN or above the last one; else 3 when η is above RHO times the
last one and that above RHO times the one before; else 4 when ITMAX corrections have been made; else 0. -/
def exitClass (r : Refine) (eta : W) : Nat :=
  let v (x : W) : Fp := decode .f64 x.toNat
  let above (x y : Fp) : Bool := !x.isNan && !y.isNan && decide (0 < fpCmp x y)
  let times (x : W) : Fp := (fpMul (v r.rho) (v x)).1
  if (v eta).isNan = false ∧ (v r.tau).isNan = false ∧ fpCmp (v eta) (v r.tau) ≤ 0 then 1
  else if (v eta).isNan = true ∨ (1 ≤ r.hist.length ∧ above (v eta) (v (r.hist.getD 0 0)) = true) then 2
  else if 2 ≤ r.hist.length ∧ above (v eta) (times (r.hist.getD 0 0)) = true
      ∧ above (v (r.hist.getD 0 0)) (times (r.hist.getD 1 0)) = true then 3
  else if r.k = r.itmax then 4 else 0

/-! ### Streams (R158-R200) -/

/-- No pending write of the well has one of the `n` bytes from offset `a` on; none has one of a semaphore's count (R64, R299). -/
def Core.settledOn (k : Core) (a n : Nat) : Prop :=
  ∀ w ∈ k.well.pend, ∀ c ∈ w.cells, n ≤ (c.1 + 2 ^ 23 - a % 2 ^ 23) % 2 ^ 23
def Core.settledAt (k : Core) (a : Off) : Prop := k.settledOn (a.toNat / 8 * 8) 4

/-- Only the stream of the turn has changed in its core, and it is now `x`. -/
def State.StreamIs (s t : State) (x : Stream) : Prop :=
  s.Left t .a { s.core with streams := vset s.core.streams s.turn.stream.val x }

/-- The fourteen data commands (R180-R192). -/
def isDataEntry : Instr → Bool
  | .copy .. | .gath .. | .scat .. | .xpose .. | .conv .. | .decomp .. | .cmprs .. | .mcast .. | .red .. | .fill .. | .atom ..
  | .sempr .. | .flipv .. | .pref .. => true
  | _ => false

/-- Is it a PREF, whose positions are not elements (R192)? -/
def isPref : Instr → Bool
  | .pref .. => true
  | _ => false

/-- The command the stream of the turn has taken (R196): entry, position 0, not started, and the sums of the open loops' deltas. -/
def State.NewCmd (s : State) (i : Instr) (c : Cmd) : Prop :=
  let t := s.str
  c.entry = i ∧ c.pos = 0 ∧ c.started = false ∧ c.posts = 0 ∧ c.writes = [] ∧ c.at_ = t.cur
    ∧ c.ds = (t.loops.map (fun l => (l.i.toNat : Int) * l.ds.toInt)).sum
    ∧ c.dd = (t.loops.map (fun l => (l.i.toNat : Int) * l.dd.toInt)).sum
    ∧ c.dx = (t.loops.map (fun l => (l.i.toNat : Int) * l.dx.toInt)).sum

/-- A pump fault of the turn's stream (R197, R325): it is suspended with FLT, and one record of TYPE 1 is posted. -/
def State.Suspended (s t : State) (cause level acc : Nat) (va : W) (pos : BitVec 32) : Prop :=
  let x := t.core.stream s.turn.stream.val
  let y := s.str
  x.state = .suspended ∧ x.flt = true ∧ x.faults = y.faults + 1 ∧ x.pos = pos ∧ x.queued = y.queued ∧ x.chain = y.chain
    ∧ x.walk = none ∧ (∀ m, m < 4 → m ≠ s.turn.stream.val → t.core.stream m = s.core.stream m)
    ∧ t.core.regs = s.core.regs ∧ t.core.well = s.core.well ∧ t.hbm = s.hbm
    ∧ ∃ r : Record, t.mgmt.fqHeld ++ t.mgmt.fqWaiting = s.mgmt.fqHeld ++ s.mgmt.fqWaiting ++ [r]
        ∧ r.length = 64 ∧ r.take 2 = [1, BitVec.ofNat 8 cause] ∧ r[4]? = some (BitVec.ofNat 8 s.turn.core.val)
        ∧ r[5]? = some (BitVec.ofNat 8 s.turn.stream.val) ∧ r[6]? = some (BitVec.ofNat 8 level)
        ∧ r[7]? = some (BitVec.ofNat 8 acc) ∧ (r.drop 8).take 8 = leBytes 8 va.toNat

/-! Data commands (R170, R180-R193) -/

/-- Where an operand's element of `n` bytes lies: in HBM without a key (space 0), the core's own well (1) or a bank of its cistern (2), and
its first byte there; the low bits of its address cleared to a multiple of `al`. None where it lies elsewhere, its translation is not at
hand, or it is not aligned in HBM or the cistern. -/
def State.spotOf (s : State) (c : Cmd) (acc : Acc) (sp : BitVec 2) (x : W) (o : Int) (opnd n al : Nat) : Option (Nat × Nat) :=
  let k := s.core
  if sp = 1 then some (1, (((x.toNat : Int) + o) % 2 ^ 23).toNat / al * al)
  else if sp = 0 then
    let va : W := BitVec.ofNat 64 ((x + BitVec.ofInt 64 o).toNat / al * al)
    if va.toNat % n ≠ 0 ∨ 2 ^ 56 ≤ va.toNat then none else
    match tlbHit s s.turn.core k.ctxOf va with
    | none => none
    | some e => match finishTranslate s k.ctxOf c.tag va acc e.level e.pte with
      | .ok (.hbm pa pte) => if Pte.key pte = 0 ∧ pa + n ≤ 2 ^ 39 then some (0, pa) else none
      | _ => none
  else match (k.cist.own.find? (fun w => w.cmd == c.uid && w.opnd == opnd)).map BandOwn.of with
    | some (BandOf.bank b) =>
      let lo := x.toNat / 2 ^ 8 % 4
      let hi := x.toNat / 2 ^ 10 % 4
      let a := (4096 * lo + ((((x.toNat / 2 ^ 16 % 2 ^ 14 : Nat) : Int) + o) % ((4096 * (hi + 1 - lo) : Nat) : Int)).toNat) / al * al
      if a % n = 0 ∧ lo ≤ hi then some (2, 16384 * b.val + a) else none
    | _ => none

/-- The bytes of HBM, the well and the cistern as a stream of the core reads them; byte `j` from a place on; bytes put there. -/
def State.bytesAt (s : State) (p : Nat × Nat) : Byte :=
  if p.1 = 0 then s.hbm.get s.turn.core.val p.2 else if p.1 = 1 then s.core.well.get pathP p.2 else s.core.cist.data.get pathP p.2
def spotByte (p : Nat × Nat) (j : Nat) : Nat × Nat := (p.1, if p.1 = 1 then (p.2 + j) % 2 ^ 23 else p.2 + j)
def putBytes (m : Nat × Nat → Byte) (p : Nat × Nat) (bs : List Byte) (y : Nat × Nat) : Byte :=
  match (List.range bs.length).find? (fun j => spotByte p j == y) with
  | some j => bs.getD j 0
  | none => m y

/-- The NORM tap: entry r of the vector gains x·x, rounded once (R173). -/
def tapped (h : EntHdr) (m : Nat × Nat → Byte) (x : Nat × Nat × Fp) : Nat × Nat → Byte :=
  let a := (1, (h.normoff.toNat + 4 * (if h.naxis then x.2.1 else x.1)) % 2 ^ 23)
  let old := decode .f32 (leNat ((List.range 4).map (fun j => m (spotByte a j))))
  putBytes m a (leBytes 4 (convFp .f32 (fpFma x.2.2 x.2.2 old .rne).1 .rne 0).1)

/-- Bytes put at an element of an operand: space, operand, offset, the operand's number, bytes. -/
structure ElPut where
  sp : BitVec 2
  x : W
  o : Int
  opnd : Nat
  bytes : List Byte

/-- WHAT AN ELEMENT DOES: the position after it, its puts in order, at addresses cleared to multiples of `al`, row, column and value of its
taps, and the command with the partial state it keeps (R193, R196). -/
structure ElRule where
  next : Nat
  puts : List ElPut
  taps : List (Nat × Nat × Fp)
  cmd : Cmd
  al : Nat := 1

/-- One step of RED on FP32, BF16 widened, or i32; and its result rounded to TYPE (R187). -/
def redStep (typ : Byte) (op : BitVec 2) (x y : Nat) : Nat :=
  if typ = 2 then
    let a := (BitVec.ofNat 32 x).toInt
    let b := (BitVec.ofNat 32 y).toInt
    (BitVec.ofInt 32 (if op = 0 then sat32 (a + b) else if op = 1 then max a b else min a b)).toNat
  else if op = 0 then (addF .f32 x y .rne 0).1 else (fpMinMax (op == 1) .f32 x y).1
def redTo (typ : Byte) (x : Nat) : Nat :=
  if typ = 2 then x else (convFp (if typ = 1 then .bf16 else .f32) (decode .f32 x) .rne 0).1

/-- The value of an element with ACC, over the old one: Op on the widened old value, rounded once to TYPE; a BF16 sum exact before. -/
def redOver (typ : Byte) (op : BitVec 2) (old acc : Nat) : Nat :=
  let wide := if typ = 1 then old * 2 ^ 16 else old
  if typ = 1 ∧ op = 0 then (convFp .bf16 (fpAdd (decode .f32 wide) (decode .f32 acc) .rne).1 .rne 0).1
  else redTo typ (redStep typ op wide acc)

/-- `n` bytes of an operand's element, when it is at hand. -/
def State.operand (s : State) (c : Cmd) (sp : BitVec 2) (x : W) (o : Int) (opnd n : Nat) (al : Nat := 1) : Option (List Byte) :=
  (s.spotOf c .read sp x o opnd n al).map (fun p => (List.range n).map (fun j => s.bytesAt (spotByte p j)))

/-- The sources of a RED's element combined: each widened exactly from BF16, one step after another (R187). -/
def redSources (s : State) (c : Cmd) (h : EntHdr) (op : BitVec 2) (typ : Byte) : Option Nat :=
  let z := if typ = 1 then 2 else 4
  let wide (bs : List Byte) : Nat := if typ = 1 then leNat bs * 2 ^ 16 else leNat bs
  match (List.range c.list.length).mapM (fun q => s.operand c h.spS (c.list.getD q 0) ((c.pos * z : Nat) + c.ds) (2 + q) z z) with
  | none => none
  | some vs => match vs.map wide with
    | [] => some 0
    | v :: r => some (r.foldl (redStep typ op) v)

/-- THE NEXT ELEMENT of a command that moves data, when its operands are at hand (R180-R188, R193). -/
def elementRule (s : State) (c : Cmd) : Option ElRule :=
  let h := entHdr c.entry
  let e := c.pos
  let z := 2 ^ h.esz.toNat
  let float (bs : List Byte) : Fp := decode (if h.esz = 1 then .bf16 else .f32) (leNat bs)
  -- an element moved unchanged
  let move (a d : W) (so do_ : Int) (row col : Nat) (c1 : Cmd) : Option ElRule :=
    (s.operand c h.spS a (so + c.ds) 1 z).map (fun bs =>
      { next := e + 1, puts := [{ sp := h.spD, x := d, o := do_ + c.dd, opnd := 0, bytes := bs }], taps := [(row, col, float bs)], cmd := c1 })
  -- the index of row i, kept through the row
  let index (x : W) (isz : Byte) (i j : Nat) : Option Nat :=
    if j = 0 then (s.operand c h.spX x ((i * (if isz = 1 then 4 else 8) : Nat) + c.dx) 99 (if isz = 1 then 4 else 8)).map leNat
    else some c.row.toNat
  let float32 (x : W32) : Fp := decode .f32 x.toNat
  -- sources `b0` on of a block, as words
  let run (sp : BitVec 2) (x : W) (delta : Int) (opnd w b0 n : Nat) : Option (List W32) :=
    (List.range n).mapM (fun i => (s.operand c sp x (((b0 + i) * w : Nat) + delta) opnd w).map (fun bs => BitVec.ofNat 32 (leNat bs)))
  let draw (i : Nat) (seed : W) : Nat := (mix (BitVec.ofNat 64 i) seed).toNat % 2 ^ 16
  match c.entry with
  | .copy _ a d n0 n1 n2 _ s1 s2 s3 d1 d2 d3 =>
    let i0 := e % n0.toNat
    let i1 := e / n0.toNat % n1.toNat
    let i2 := e / (n0.toNat * n1.toNat) % n2.toNat
    let i3 := e / (n0.toNat * n1.toNat * n2.toNat)
    move a d (i3 * s3.toInt + i2 * s2.toInt + i1 * s1.toInt + (i0 * z : Nat)) (i3 * d3.toInt + i2 * d2.toInt + i1 * d1.toInt + (i0 * z : Nat))
      i1 i0 c
  | .gath _ a d x _ r t isz =>
    (index x isz (e / r.toNat) (e % r.toNat)).bind (fun i =>
      move a d (i * t.toInt + (e % r.toNat * z : Nat)) (e * z : Nat) (e / r.toNat) (e % r.toNat) { c with row := BitVec.ofNat 64 i })
  | .scat _ a d x _ r t isz =>
    (index x isz (e / r.toNat) (e % r.toNat)).bind (fun i =>
      move a d (e * z : Nat) (i * t.toInt + (e % r.toNat * z : Nat)) (e / r.toNat) (e % r.toNat) { c with row := BitVec.ofNat 64 i })
  | .xpose _ a d rows _ st dt =>
    let r := e / rows.toNat
    let q := e % rows.toNat
    move a d (q * st.toInt + (r * z : Nat)) (r * dt.toInt + (q * z : Nat)) q r c
  | .fill _ d _ v =>
    let bs := (List.range z).map (fun j => BitVec.ofNat 8 (v.toNat / 2 ^ (8 * j)))
    some { next := e + 1, puts := [{ sp := h.spD, x := d, o := (e * z : Nat) + c.dd, opnd := 0, bytes := bs }], taps := [(0, e, float bs)], cmd := c }
  | .mcast _ a _ _ nd =>
    let q := e % nd.toNat
    (if q = 0 then s.operand c h.spS a ((e / nd.toNat * z : Nat) + c.ds) 1 z else some (leBytes z c.row.toNat)).map (fun bs =>
      { next := e + 1, puts := [{ sp := h.spD, x := c.list.getD q 0, o := (e / nd.toNat * z : Nat) + c.dd, opnd := 0, bytes := bs }]
        taps := if q = 0 then [(0, e / nd.toNat, float bs)] else [], cmd := { c with row := BitVec.ofNat 64 (leNat bs) } })
  | .decomp _ a d _ =>
    let j := e % 64
    (if j = 0 then (s.operand c h.spS a ((c.srcOff : Nat) + c.ds) 1 8).map (fun bs => BitVec.ofNat 64 (leNat bs)) else some c.dmask).bind (fun mask =>
      let at_ := if j = 0 then c.srcOff + 8 else c.srcOff
      (if mask.getLsbD j then s.operand c h.spS a ((at_ : Nat) + c.ds) 1 z else some (List.replicate z 0)).map (fun bs =>
        let past := if mask.getLsbD j then at_ + z else at_
        { next := e + 1, puts := [{ sp := h.spD, x := d, o := (e * z : Nat) + c.dd, opnd := 0, bytes := bs }], taps := [(0, e, float bs)]
          cmd := { c with dmask := mask, srcOff := if j = 63 then (past + 7) / 8 * 8 else past } }))
  | .red _ _ d _ _ op acc typ =>
    let w := if typ = 1 then 2 else 4
    let o : Int := (e * w : Nat) + c.dd
    if acc = true ∧ h.spD = 0 then none else
    (redSources s c h op typ).bind (fun v =>
      (if acc then s.operand c h.spD d o 0 w w else some []).map (fun old =>
        let y := if acc then redOver typ op (leNat old) v else redTo typ v
        { next := e + 1, puts := [{ sp := h.spD, x := d, o := o, opnd := 0, bytes := leBytes w y }]
          taps := [(0, e, decode (if typ = 1 then .bf16 else .f32) y)], cmd := c, al := w }))
  | .conv _ a d x n sm fmt bf smooth rm sl seed =>
    let w := if bf then 2 else 4
    let f : Fmt := if fmt = 0 then .e4m3 else if fmt = 1 then .e5m2 else if fmt = 2 then .e2m1 else if fmt = 5 then .bf16 else .kt8
    let scaled : Bool := fmt != 3 && fmt != 5
    let b0 := if scaled then e / 32 * 32 else e
    let value (v : W32) : Fp := decode (if bf then .bf16 else .f32) v.toNat
    -- y[i], the exact product with the smoothing vector's entry
    let y (i : Nat) (v : W32) : Fp := if smooth then (fpMul (value v) (decode .f32 (leNat ((List.range 4).map (fun j =>
      s.bytesAt (1, (sm.toNat + 4 * (i % sl.toNat) + j) % 2 ^ 23)))))).1 else value v
    (if scaled = true ∧ e % 32 ≠ 0 then some c.src else run h.spS a c.ds 1 w b0 (if scaled then min 32 (n.toNat - b0) else 1)).map (fun src =>
      let ys := (List.range src.length).map (fun i => y (b0 + i) (src.getD i 0))
      let sc := if scaled = true ∧ e % 32 = 0 then mxScale ys f else c.scale.toNat
      let q (i : Nat) : Nat :=
        let v := y i (src.getD (i - b0) 0)
        if scaled then (if sc = 255 then 0 else (convFp f (fpScale v (127 - (sc : Int))) (rmodeOf rm) (draw i seed)).1)
        else (convFp f v (rmodeOf rm) (draw i seed)).1
      let two := fmt = 2 ∧ e + 1 < n.toNat
      let put : ElPut := { sp := h.spD, x := d, opnd := 0, o := ((if fmt = 2 then e / 2 else e * (f.width / 8) : Nat) : Int) + c.dd
                           bytes := if fmt = 2 then [BitVec.ofNat 8 (q e + 16 * (if two then q (e + 1) else 0))] else leBytes (f.width / 8) (q e) }
      { next := if two then e + 2 else e + 1
        puts := (if scaled = true ∧ e % 32 = 0 then
          [{ sp := h.spX, x := x, o := (e / 32 : Nat) + c.dx, opnd := 99, bytes := [BitVec.ofNat 8 sc] }] else []) ++ [put]
        taps := (0, e, value (src.getD (e - b0) 0)) :: (if two then [(0, e + 1, value (src.getD (e + 1 - b0) 0))] else [])
        cmd := { c with src := if scaled then src else [], scale := BitVec.ofNat 8 sc } })
  | .cmprs _ a d x y n rm seed =>
    let b0 := e / 32 * 32
    let m := min 32 (n.toNat - b0)
    let new := e % 32 = 0
    (if new then run h.spS a c.ds 1 4 b0 m else some c.src).bind (fun src =>
      (if new then (run h.spY y c.ds 99 4 b0 m).map (fun rs => (List.range m).map (fun i =>
        BitVec.ofNat 32 (addF .f32 (src.getD i 0).toNat (rs.getD i 0).toNat .rne 0).1)) else some c.block).map (fun ys =>
        let sc := if new then mxScale (ys.map float32) .e4m3 else c.scale.toNat
        let v := ys.getD (e - b0) 0
        let q := if sc = 255 then 0 else (convFp .e4m3 (fpScale (float32 v) (127 - (sc : Int))) (rmodeOf rm) (draw e seed)).1
        let rest := if sc = 255 then v.toNat else
          (convFp .f32 (fpAdd (float32 v) (fpNeg (fpScale (decode .e4m3 q) ((sc : Int) - 127))) .rne).1 .rne 0).1
        { next := e + 1
          puts := [{ sp := h.spD, x := d, o := (e : Nat) + c.dd, opnd := 0, bytes := [BitVec.ofNat 8 q] },
            { sp := h.spY, x := y, o := (4 * e : Nat) + c.ds, opnd := 99, bytes := leBytes 4 rest }]
            ++ (if new then [{ sp := h.spX, x := x, o := (e / 32 : Nat) + c.dx, opnd := 99, bytes := [BitVec.ofNat 8 sc] }] else [])
          taps := [(0, e, float32 (src.getD (e - b0) 0))], cmd := { c with src := src, block := ys, scale := BitVec.ofNat 8 sc } }))
  | _ => none

/-- The request that an ATOM, a SEMPR or an accumulate of RED to HBM sends: its operation, its access, operand and offset of its target,
and its alignment (R187, R189, R190). -/
def atomicRule (s : State) (c : Cmd) : Option (RmwOp × Acc × (W × Int) × Nat) :=
  match c.entry with
  | .atom h d opnd cmpv ret op w64 =>
    if h.spD.toNat < 2 then some (.atom op w64 opnd cmpv ret, .atom, (d, c.dd), if w64 then 8 else 4) else none
  | .sempr h d amt => if h.spD = 1 then some (.sempr amt, .write, (d, c.dd), 8) else none
  | .red h _ d _ _ op acc typ =>
    if acc = true ∧ h.spD = 0 then (redSources s c h op typ).map (fun v =>
      (.red op typ (BitVec.ofNat 32 v), .rmw, (d, ((c.pos * (if typ = 1 then 2 else 4) : Nat) : Int) + c.dd), if typ = 1 then 2 else 4))
    else none
  | _ => none

/-- The value an ATOM leaves (R189): 0 ADD, 1 MIN and 2 MAX signed, 3 MINW and 4 MAXW unsigned, 5 SWAP, 6 CAS, modulo its width. -/
def atomValue (op : BitVec 3) (n : Nat) (old x c : Nat) : Nat :=
  let sg (y : Nat) : Int := (BitVec.ofNat (8 * n) y).toInt
  let y := x % 2 ^ (8 * n)
  match op.toNat with
  | 0 => (old + y) % 2 ^ (8 * n)
  | 1 => if sg y < sg old then y else old
  | 2 => if sg old < sg y then y else old
  | 3 => if y < old then y else old
  | 4 => if old < y then y else old
  | 5 => y
  | _ => if old = c % 2 ^ (8 * n) then y else old

/-! ### Writes seen (R299-R302) -/

/-- Of a memory with the one pending write `w`: those of the first `n` observers that had seen it, and those that `p` names, read its
bytes and elsewhere what lay there; the others read what they read before. -/
def VMem.Shows (v v' : VMem) (n : Nat) (w : PWrite) (p : Nat → Bool) : Prop :=
  ∀ o, o < n → ∀ a, v'.get o a = if w.seen.testBit o || p o then (List.lookup a w.cells).getD (v.base.get a) else v.base.get a

/-- Observer `o` reads the writes that it had seen and those that `p` names, in coherence order, over what lay there before. -/
def VMem.getAlso (v : VMem) (o : Nat) (p : PWrite → Bool) (a : Nat) : Byte :=
  v.pend.foldl (fun acc w => if w.seen.testBit o || p w then (List.lookup a w.cells).getD acc else acc) (v.base.get a)

/-- With `w` the one pending write of a well: its aligned 64-byte chunk is being filled, and is closed to observer `o` (log 21): the
command that its stream executes made it and has not written all 64 bytes, or made it as its NORM tap. To V and M the chunk is closed
as long, to the others while the stream runs and waits for nothing, and when it was made after the command's last per-m post. -/
def State.closedTo (s : State) (o : Nat) (w : PWrite) : Prop :=
  let t := (s.coreAt (Fin.ofNat 128 w.core)).stream w.stream
  ∃ c, t.cmd = some c ∧ c.uid = w.cmd ∧ w.cmd ≠ 0
    ∧ (w.tap = true ∨ ¬ ∀ i, i < 64 → ∃ b, (((w.cells.head?.map (·.1)).getD 0) / 64 * 64 + i, b) ∈ w.cells)
    ∧ (o = pathOf .v ∨ o = pathOf .m ∨ (t.state = .active ∧ t.waiting = false ∧ c.landed ≤ w.id))

/-- Of two states only who sees which write differs: registers, streams, queues and the rest stay, and HBM and host memory hold the same
bytes at the end of their coherence order; so does a well at a byte to which no write is pending that has not arrived there. -/
def State.OnlySeen (s t : State) : Prop :=
  t = { s with hbm := t.hbm, host := t.host, cores := t.cores } ∧ (∀ c, t.coreAt c = { s.coreAt c with well := (t.coreAt c).well })
    ∧ (∀ a, t.hbm.latest a = s.hbm.latest a) ∧ (∀ a, t.host.latest a = s.host.latest a)
    ∧ ∀ c a, (∀ w ∈ (s.coreAt c).well.pend, w.seen = 0 → ∀ x ∈ w.cells, x.1 ≠ a) →
        (t.coreAt c).well.latest a = (s.coreAt c).well.latest a

/-- HBM, or host memory. -/
def State.memory (s : State) (host : Bool) : VMem := if host then s.host else s.hbm

/-- The `n` bytes at a target lie in HBM or host memory and are not encrypted; byte `y` of that memory is one of them; they are `bs`
for every observer. -/
def plainTarget (t : Target) (n : Nat) : Prop :=
  match t with
  | .hbm pa pte => Pte.key pte = 0 ∧ pa + n ≤ 2 ^ 52
  | .host pa _ => pa + n ≤ 2 ^ 52
  | _ => False
def targetHas (t : Target) (n : Nat) (host : Bool) (y : Nat) : Prop :=
  match t with
  | .hbm pa _ => host = false ∧ pa ≤ y ∧ y < pa + n
  | .host pa _ => host = true ∧ pa ≤ y ∧ y < pa + n
  | _ => False
def State.holdsAt (s : State) (t : Target) (bs : List Byte) : Prop :=
  match t with
  | .hbm pa _ => ∀ o j, j < bs.length → some (s.hbm.get o (pa + j)) = bs[j]?
  | .host pa _ => ∀ o j, j < bs.length → some (s.host.get o (pa + j)) = bs[j]?
  | _ => False

/-- Observer `o` of core `x`'s well is a core of the writer's die, and so has a window write when it arrives there (R310; log 75). -/
def PWrite.arrivesAt (w : PWrite) (x o : Nat) : Bool :=
  w.seen == 0 && decide (w.core < 128) && x / 16 == w.core / 16 && decide (8 ≤ o) && decide (o < 136) && (o - 8) / 16 == w.core / 16

/-! ### Management (R324, R353-R366) -/

/-- The answer to a message on its transport (R360). -/
def Mgmt.replied (m : Mgmt) (tr : Transport) (r : Reply) : Mgmt :=
  match tr with
  | .mailbox => { m with mbReply := r }
  | _ => { m with doeReply := r }

/-- What the boot ROM requires of an image (R358, R362): the fused digest is that of its public key, its LMS signature verifies over
the image and its record, the SVN in the image is not below the fused one, and the record's fields are in range. Where the bytes of
the image hold the SVN, and those of the record its fields, is log 86. -/
def imageAccepted (img : BootImage) (fuse : List Byte) : Prop :=
  sha256 img.pub = fuse ∧ lmsVerify img.pub (imageSigned img) img.sig = true ∧ Config.fusedSvn ≤ imageSvn img
    ∧ recordOk img.recBytes = true ∧ cfgOk (recordOf img.recBytes) = true

/-- The bytes of a signature by the identity key, made as number `q` (R359, RFC 8554): the leaf, LMOTS_SHA256_N32_W4 and its hashes,
LMS_SHA256_M32_H20 and its path. That the leaf is the number of signatures made before is log 93. -/
def SignatureBy (sig : List Byte) (q : Nat) : Prop :=
  sig.length = 2828 ∧ sig.take 8 = beBytes 4 q ++ [0, 0, 0, 3] ∧ (sig.drop 2184).take 4 = [0, 0, 0, 8]

/-- A vendor-defined answer: StandardID IANA, a VendorID of four bytes, VENDORPEN, command, RESULT and further bytes (R361). -/
def vendorAnswer (cmd result : Nat) (extra : List Byte) : Reply :=
  .vendor .iana 4 Config.vendorPen (leBytes 2 cmd ++ leBytes 2 result ++ extra)

/-- The queue's packet has completed (R341): it holds none, and no kernel. -/
def State.Completed (s t : State) (q : BitVec 10) : Prop :=
  (t.queue q).pkt = none ∧ (t.queue q).work = none ∧ (∀ r, r ≠ q → t.queue r = s.queue r) ∧ t.parts = s.parts
    ∧ ∀ c, (t.coreAt c).regs = (s.coreAt c).regs

/-- The packet has completed with a status (R341, R342): its status word holds it, its signal word holds SIGV, or what it held with SIGV
added, every other byte of HBM and host memory holds what it held, and its interrupt is raised when it asks for one. -/
def State.PacketDone (s t : State) (q : BitVec 10) (p : Packet) (st : Nat) : Prop :=
  let x := s.queue q
  let ctx : BitVec 12 := x.ctx.setWidth 12
  let s1 := s.statusWrite ctx p.statva st
  let s2 := s1.releaseCores (x.ran ++ (s.part x.part.toNat).dies)
  let add := p.flags.getLsbD 1
  s.Completed t q ∧ (p.flags.getLsbD 0 = true → x.vec.toNat ∈ t.irqs)
    ∧ (p.statva = 0 → s1 = s)
    ∧ (∀ u, p.statva ≠ 0 → translate s ctx p.statva .write = .ok u → plainTarget u 8 → s1.holdsAt u (leBytes 8 st)
        ∧ ∀ h o y, ¬ targetHas u 8 h y → (s1.memory h).get o y = (s.memory h).get o y)
    ∧ (p.sigva = 0 → t.hbm = s1.hbm ∧ t.host = s1.host)
    ∧ (∀ u, p.sigva ≠ 0 → translate s2 ctx p.sigva (if add then .rmw else .write) = .ok u → plainTarget u 8 →
        (∀ pa pte, u = .hbm pa pte → s.poisoned .hbm pa 8 = false) →
        t.holdsAt u (leBytes 8 (if add then (leNat (latestTarget s1 u 8) + p.sigv.toNat) % 2 ^ 64 else p.sigv.toNat))
          ∧ ∀ h y, ¬ targetHas u 8 h y → (t.memory h).latest y = (s1.memory h).latest y)

/-! ### Cells (R32, R34) -/

/-- Index of loop level `j` in a cell: from its superstep (kind 1), its C number (2) or its D number (3), the later levels of the same
kind running faster; 0 for an unused level (R27, R32). -/
def levelIndex (levels : List (Nat × Nat)) (j sstep cc dd : Nat) : Nat :=
  let l := levels.getD j (0, 0)
  let faster := (((levels.drop (j + 1)).filter (fun x => x.1 == l.1)).map (·.2)).foldl (· * ·) 1
  if l.1 = 1 then sstep / faster % l.2 else if l.1 = 2 then cc / faster % l.2 else if l.1 = 3 then dd / faster % l.2 else 0

/-! ### Steps -/

/-- THE RANGES THAT HOLD OF THE MANAGEMENT REGISTERS: key slot 0 is always empty (R324); the hub holds at most 256 records, and one
waits only when it holds 256 (R325); FQLOG is as written, 6 to 16, or not yet written (R356); no shootdown and no mailbox request is
both at work and done (R354, R360); at most 2^20 messages are signed (R359); UCAP and TSLICE are clamped (R347). -/
def State.InRange (s : State) : Prop :=
  vget s.mgmt.keys 0 none = none ∧ s.mgmt.fqHeld.length ≤ 256 ∧ (s.mgmt.fqWaiting ≠ [] → s.mgmt.fqHeld.length = 256)
    ∧ (s.mgmt.fqlog = 0 ∨ (6 ≤ s.mgmt.fqlog ∧ s.mgmt.fqlog ≤ 16))
    ∧ (s.mgmt.sdBusy = true → s.mgmt.sdDone = false) ∧ (s.mgmt.mbBusy = true → s.mgmt.mbDone = false)
    ∧ s.mgmt.sigused ≤ 2 ^ 20
    ∧ ∀ p, p < 8 → (s.part p).ucap ≤ 256 ∧ 100 ≤ (s.part p).tslice ∧ (s.part p).tslice ≤ 100000

/-- The engine of the turn runs: its core holds a cell that has not halted, the engine has not ended, the handler is not another's
and no slot of V is to pass before it (R215), and it is in the middle of nothing (R37, R328, R330). -/
def State.engineRuns (s : State) : Prop :=
  s.turn.what = .engine ∧ s.mgmt.stopped = false ∧ s.core.cell ≠ none ∧ s.core.halted = none
    ∧ (s.core.ctx s.eng).ended = false ∧ (s.core.handler = none ∨ (s.eng = .c ∧ s.core.vp.busy = false)) ∧ s.core.lateV = none ∧ s.core.lateM = none
    ∧ (s.core.ctx s.eng).pushes = [] ∧ busyWith s.core s.eng = none ∧ (s.eng = .c → s.core.rfWaits = false)


end Machine
end Sys2Proof

section
open Sys2Proof Sys2Proof.Machine

/-! ### The scalar group -/

/-- R125: register 0 of every scalar file reads as zero and a write to it is discarded; a write to any other register of the
file is read back; no other scalar or branch register changes. -/
def Obligations.RegisterFile : Prop :=
  ∀ (k : Core) (e : Engine) (d : Reg) (x : W), sReg e d = true →
    k.getS e 0 = 0 ∧ k.setS e 0 x = k ∧ k.Wrote (k.setS e d x) e d x

/-- R125-R131, R133, R210: a scalar instruction computes its register from registers and immediates. In C, A and M it is written at
once, DZ set exactly when it divides by zero into a register other than 0; in V it lands under the ALU rule two slots after its
issue. No other register, flag or byte changes. -/
def Obligations.ScalarResults : Prop :=
  (
    ∀ (s : State) (i : Instr) (d : Reg) (x : W) (z : Bool), s.eng ≠ .v → wellFormed s.eng i = true →
      aluResult s.src i = some (d, x, z) →
      ∃ t, exec i s = .next t
        ∧ s.Done t s.eng ({ s.core with csr := if z && d != 0 then dzSet s.eng s.core.csr else s.core.csr }.setS s.eng d x))
  ∧ (
    ∀ (s : State) (i : Instr) (d : Reg) (x : W) (z : Bool), s.eng = .v → wellFormed s.eng i = true →
      aluResult s.src i = some (d, x, z) →
      ∃ t, exec i s = .next t
        ∧ s.Done t .v (s.core.withFlight 2 (.scalar d x) (if z && d != 0 then Flags.dz else 0) s.issue))

/-- R132, R301: LD zero-extends and LDS sign-extends the bytes that the engine's own path sees at the naturally aligned
address; the value goes to the register in C, A and M, and into flight in V; nothing else changes. -/
def Obligations.Loads : Prop :=
  ∀ (s : State) (d b : Reg) (z : BitVec 2) (i : BitVec 12) (sgn : Bool), sReg s.eng d = true →
    let a := ((s.src b).toNat + i.toNat * 2 ^ z.toNat) % 2 ^ 23 / 2 ^ z.toNat * 2 ^ z.toNat
    let n := leNat ((List.range (2 ^ z.toNat)).map (fun j => s.core.well.get (pathOf s.eng) (a + j)))
    let x : W := if sgn then (BitVec.ofNat (8 * 2 ^ z.toNat) n).signExtend 64 else BitVec.ofNat 64 n
    s.poisoned (.well s.turn.core) a (2 ^ z.toNat) = false →
    ∃ t, exec (if sgn then .lds d b z i else .ld d b z i) s = .next t
      ∧ (s.eng ≠ .v → s.Done t s.eng (s.core.setS s.eng d x))
      ∧ (s.eng = .v → s.Done t .v (s.core.withFlight 2 (.scalar d x) 0 s.issue))

/-- R132, R301: ST writes the low bytes of its register at the naturally aligned address: its own path reads them, every other
observer reads every byte as before, and no register or flag changes. -/
def Obligations.Stores : Prop :=
  ∀ (s : State) (d b : Reg) (z : BitVec 2) (i : BitVec 12),
    let a := ((s.src b).toNat + i.toNat * 2 ^ z.toNat) % 2 ^ 23 / 2 ^ z.toNat * 2 ^ z.toNat
    ∃ t v, exec (.st d b z i) s = .next t ∧ s.Done t s.eng { s.core with well := v }
      ∧ (∀ j, v.get (pathOf s.eng) j
          = if a ≤ j ∧ j < a + 2 ^ z.toNat then BitVec.ofNat 8 ((s.src d).toNat / 2 ^ (8 * (j - a)))
            else s.core.well.get (pathOf s.eng) j)
      ∧ (∀ o, o < 137 → o ≠ pathOf s.eng → ∀ j, v.get o j = s.core.well.get o j)

/-! ### The common group -/

/-- R64, R65, R134: SEMW subtracts n and completes when its step was granted, when n is 0 or when the count is at least n; else it
waits, and its engine joins those waiting at the semaphore. SEMP adds n, saturating at 2^32 − 1 with SEMOVF, and completes; an
engine that waits alone there and whose n is then satisfied has it subtracted and goes on. No other byte or register changes. The
semaphore's bytes are sound: on bytes with a storage error the model takes that trap after the operation (log 73). -/
def Obligations.Semaphores : Prop :=
  (
    ∀ (s : State) (i : Instr) (off : Off) (n : W32), smOperands s.src i = some (true, off, n) → s.core.quiet →
      s.poisoned (.well s.turn.core) (semAt off) 8 = false →
      let c := s.core.semCount off
      ((s.core.ctx s.eng).granted.isSome = true ∨ n = 0 → ∃ t, exec i s = .next t ∧ s.Done t s.eng s.core)
      ∧ ((s.core.ctx s.eng).granted = none → n ≠ 0 → n.toNat ≤ c →
          ∃ t v, exec i s = .next t ∧ t.core.semCount off = c - n.toNat
            ∧ s.Done t s.eng { s.core with well := v, waiters := s.core.waiters.filter (fun w => w.1 != s.eng) }
            ∧ ∀ o, o < 137 → ∀ a, a < semAt off ∨ semAt off + 8 ≤ a → v.get o a = s.core.well.get o a)
      ∧ ((s.core.ctx s.eng).granted = none → c < n.toNat →
          ∃ t, exec i s = .next t ∧ t.core.semCount off = c
            ∧ s.Left t s.eng ({ s.core with
                waiters := if s.core.waiters.any (fun w => w.1 == s.eng) then s.core.waiters
                  else s.core.waiters ++ [(s.eng, off, n)] }.stallOn s.eng (.sem off n s.issue))))
  ∧ (
    ∀ (s : State) (i : Instr) (off : Off) (n : W32), smOperands s.src i = some (false, off, n) → s.core.cell.isSome = true →
      s.poisoned (.well s.turn.core) (semAt off) 8 = false →
      let c := s.core.semCount off + n.toNat
      let c1 := if c < 2 ^ 32 then c else 2 ^ 32 - 1
      ∃ t v, exec i s = .next t
        ∧ s.Done t s.eng { s.core with
            well := v, csr := if c < 2 ^ 32 then s.core.csr else { s.core.csr with xflg := s.core.csr.xflg ||| 4 } }
        ∧ (∀ o, o < 137 → ∀ a, a < semAt off ∨ semAt off + 8 ≤ a → v.get o a = s.core.well.get o a)
        ∧ (s.core.waiters = [] → t.core.semCount off = c1)
        ∧ (∀ e m, s.core.waiters = [(e, off, m)] → m.toNat ≤ c1 →
            t.core.semCount off = c1 - m.toNat ∧ (t.core.ctx e).wait = none ∧ t.core.waiters = []))

/-- R46-R48, R136: BRF pops an outcome of its own kind; not taken it completes with no transfer; taken it transfers after the
delay line, CALL pushing the line after the delay line and RET popping its target. That it replaces a transfer already pending in
the line is the model's choice (log 45). -/
def Obligations.FollowerBranch : Prop :=
  ∀ (s : State) (i : Instr) (kind : TKind) (taken : Bool) (target : LineIx) (rest : List Outc), brfKindOf i = some kind →
    let x := s.core.ctx s.eng
    x.outq = .branch kind taken target :: rest →
    (taken = true → kind = .call → x.stack.length < 8) →
    (taken = true → kind = .ret → ∃ l r, x.stack = .line l :: r) →
    ∃ t, exec i s = .next t
      ∧ s.Done t s.eng (s.core.modCtx s.eng (fun x =>
          (if taken then takenEffect kind x.line target { x with outq := rest } else { x with outq := rest })))

/-- R290, R291, R293: RFJOIN takes a routine outcome as a call at once, pushing a controller return entry, and a release outcome
as a jump at once, which is text overrun for line 4,096 (R40); RFRET pops a controller return entry and resumes at its line and
lane, its engine's writes to the well and the URS are then seen on path M, and once all four engines have executed it the controller
goes on. That a transfer pending in the line is dropped (log 95), that TINFO and TLINE of the overrun hold the index and its low
bits (log 17), and that a TOK pushes at each outcome (log 94), are the model's choices. -/
def Obligations.RoutineJoinReturn : Prop :=
  ∀ (s : State),
    let x := s.core.ctx s.eng
    (∀ target rest, x.outq = .routine target :: rest → x.stack.length < 8 →
      ∃ t, exec .rfjoin s = .next t ∧ s.Left t s.eng (s.core.modCtx s.eng (fun x => { x with
        outq := rest, stack := .ctrl x.line x.lane :: x.stack, line := target, lane := 0, wait := none,
        pend := none, inDelay := false })))
    ∧ (∀ target : LineIx, ∀ rest, x.outq = .release target :: rest → target.toNat < 4096 →
      ∃ t, exec .rfjoin s = .next t ∧ s.Left t s.eng (s.core.modCtx s.eng (fun x => { x with
        outq := rest, line := BitVec.ofNat 12 target.toNat, lane := 0, wait := none, pend := none, inDelay := false,
        seqNext := none })))
    ∧ (∀ target : LineIx, ∀ rest, x.outq = .release target :: rest → 4096 ≤ target.toNat → s.core.canTrap → s.issue.pushes = [] →
      x.pushes = [] → ∃ t tl, exec .rfjoin s = .next t ∧ s.OnlyCore t
        ∧ s.core.Trapped t.core s.eng 0x03 (BitVec.ofNat 64 target.toNat) tl { x with
            outq := rest, line := BitVec.ofNat 12 target.toNat, lane := 0, wait := none, pend := none, inDelay := false,
            seqNext := none })
    ∧ (∀ l lane rest, s.core.handler = none → x.stack = .ctrl l lane :: rest →
      ∃ t v u, exec .rfret s = .next t
        ∧ s.Left t s.eng ({ (s.core.modCtx s.eng (fun x => { x with
            line := l, lane := lane, stack := rest, rfret := true, wait := none, pend := none,
            inDelay := false, seqNext := none })) with
          well := v, urs := u,
          ref := if s.core.ref.pc == .inRoutine && [Engine.c, .a, .v, .m].all (fun y => y == s.eng || (s.core.ctx y).rfret) then s.core.ref.returned
            else s.core.ref })
        ∧ (∀ o, o < 137 → o ≠ pathOf .m → ∀ a, v.get o a = s.core.well.get o a ∧ u.get o a = s.core.urs.get o a)
        ∧ (let own (w : PWrite) : Bool := w.path == pathOf s.eng && w.seen.testBit w.path
          ∀ a, v.get (pathOf .m) a = s.core.well.getAlso (pathOf .m) own a
            ∧ u.get (pathOf .m) a = s.core.urs.getAlso (pathOf .m) own a))

/-- R140, R141, R194: NOP has no effect. FENCE leaves in the well and the URS no write by a path of its first set that its own path
sees and a path of its second set does not: the second set reads, besides what it saw, exactly those writes in coherence order, in the
well, the URS and the cistern; no observer outside the second set reads anything else than before, and nothing but visibility changes.
With path P in the first set, what the core's own streams have written has arrived in the well before. That writes which a running
stream still gathers for one chunk have not, and that a chunk which has begun to arrive through a window arrives whole, is the
model's choice (log 21). -/
def Obligations.NopAndFence : Prop :=
  ∀ (s : State),
    (∃ t, exec .nop s = .next t ∧ s.Done t s.eng s.core)
    ∧ ∀ f g : BitVec 5,
      let own : Bool := (classMask f).testBit pathP && g != 0
      let s1 := if own then s.arriveWell s.turn.core else s
      let k := s1.core
      let covered (w : PWrite) : Bool := (classMask f).testBit w.path && w.seen.testBit w.path
      s.OnlySeen s1
      ∧ ((∀ w ∈ s.core.well.pend, w.seen ≠ 0) → s1 = s)
      ∧ (own = true → ∀ w ∈ s.core.well.pend, w.core = s.turn.core.val → w.seen = 0 → s.chunkOpen s.core.well pathP w = false →
          ∀ x ∈ k.well.pend, x.id = w.id → x.seen.testBit pathP = true)
      ∧ ∃ t v u b, exec (.fence f g) s = .next t
        ∧ s1.Done t s.eng { k with well := v, urs := u, cist := { k.cist with data := b } }
        ∧ (∀ o, o < 137 → (classMask g).testBit o = false → ∀ a, v.get o a = k.well.get o a
            ∧ u.get o a = k.urs.get o a ∧ b.get o a = k.cist.data.get o a)
        ∧ (∀ w ∈ v.pend ++ u.pend, (classMask f).testBit w.path = true → w.seen.testBit w.path = true →
            ∀ o, o < 5 → (classMask g).testBit o = true → w.seen.testBit o = true)
        ∧ (∀ o, o < 5 → (classMask g).testBit o = true → ∀ a, v.get o a = k.well.getAlso o covered a
            ∧ u.get o a = k.urs.getAlso o covered a ∧ b.get o a = k.cist.data.getAlso o covered a)

/-- R35, R140: END ends its engine's part of the cell; when the other three have ended too, the cell retires: the core holds no
cell, and what its queues held is discarded. -/
def Obligations.EndOfEngine : Prop :=
  ∀ (s : State), s.core.handler = none → s.core.ref.pc = .idle → (s.core.ctx s.eng).outq = [] → s.issue.pushes = [] →
    ∃ t, exec .endEngine s = .next t ∧ s.OnlyCore t ∧ t.core.regs = s.core.regs ∧ t.core.csr = s.core.csr
      ∧ (t.core.ctx s.eng).ended = true ∧ (t.core.ctx s.eng).lane = s.issue.nextLane
      ∧ (∀ x, x ≠ s.eng → (t.core.ctx x).ended = (s.core.ctx x).ended)
      ∧ ((∃ x, x ≠ s.eng ∧ (s.core.ctx x).ended = false) → t.core.cell = s.core.cell ∧ t.core.vals = s.core.vals)
      ∧ ((∀ x, x ≠ s.eng → (s.core.ctx x).ended = true) → t.core.cell = none ∧ t.core.waiters = []
          ∧ t.core.tok = Vector.replicate 16 0 ∧ t.core.vals = Vector.replicate 16 [])

/-- R143: SEND appends its register to a value queue with room for it and RECV takes the oldest value; each waits else. -/
def Obligations.SendReceive : Prop :=
  ∀ (s : State) (r : Reg) (e : Engine), sReg s.eng r = true →
    let out := vget s.core.vals (4 * (engNum s.eng).toNat + (engNum e).toNat) []
    let inq := vget s.core.vals (4 * (engNum e).toNat + (engNum s.eng).toNat) []
    (out.length < 8 → ∃ t, exec (.send r e) s = .next t ∧ s.Done t s.eng { s.core with
      vals := vset s.core.vals (4 * (engNum s.eng).toNat + (engNum e).toNat) (out ++ [s.src r]) })
    ∧ (8 ≤ out.length → ∃ t, exec (.send r e) s = .next t ∧ s.Waits t s.eng (.valFull e))
    ∧ (∀ x rest, inq = x :: rest →
      let k := { s.core with vals := vset s.core.vals (4 * (engNum e).toNat + (engNum s.eng).toNat) rest }
      ∃ t, exec (.recv r e) s = .next t ∧ (s.eng ≠ .v → s.Done t s.eng (k.setS s.eng r x))
        ∧ (s.eng = .v → s.Done t .v (k.withFlight 2 (.scalar r x) 0 s.issue)))
    ∧ (inq = [] → ∃ t, exec (.recv r e) s = .next t ∧ s.Waits t s.eng (.valEmpty e))

/-! ### C -/

/-- R44-R47, R51, R144, R145, R147, R154, R331: BR, CALL and RET push one outcome to every queue of the mask, taken or not; a taken one
transfers after the delay line, CALL pushing L + 2 and RET popping its target; they wait while a queue of the mask is full. LOOPB
pushes one arm to all three followers, whatever its mask, and sends C past the body, waiting while one of the three queues is full.
In the handler a transfer with a mask and LOOPB are double traps. PREP writes L + offset to its branch register; MCW writes its register
to the shadow configuration bank. That a taken transfer replaces one already pending in the line is the model's choice (log 45). -/
def Obligations.CTransfers : Prop :=
  (
    ∀ (s : State) (i : Instr) (kind : TKind) (taken : Bool) (b : Line) (m : BitVec 3), s.eng = .c →
      transferOf s i = some (kind, taken, b, m) →
      let target : LineIx := b.setWidth 13
      (∀ h, s.core.handler = some h → m ≠ 0 → ∃ t, exec i s = .next t
        ∧ s.core.Halted t.core { code := 0x11, eng := h.eng, info := h.info, tline := h.tline })
      ∧ ((s.core.handler ≠ none → m = 0) →
      (taken = true → kind = .call → s.core.ec.stack.length < 8) →
      (taken = true → kind = .ret → ∃ l r, s.core.ec.stack = .line l :: r) →
      ((∀ e ∈ maskEngines m, (s.core.ctx e).outq.length < s.core.slipw) →
        ∃ t, exec i s = .next t ∧ s.Done t .c
          (((maskEngines m).foldl (fun k e => k.modCtx e (fun x => { x with outq := x.outq ++ [.branch kind taken target] }))
            s.core).modCtx .c (fun x => if taken then takenEffect kind s.issue.line target x else x)))
      ∧ ((∃ e ∈ maskEngines m, s.core.slipw ≤ (s.core.ctx e).outq.length) →
        ∃ t, exec i s = .next t ∧ s.Waits t .c (.outFull (maskEngines m)))))
  ∧ (
    ∀ (s : State), s.eng = .c →
      (∀ (g : Reg) (l : BitVec 7) (m : BitVec 3) (v w : BitVec 4) (h : Handler), s.core.handler = some h →
        ∃ t, exec (.loopb g l m v w) s = .next t
          ∧ s.core.Halted t.core { code := 0x11, eng := h.eng, info := h.info, tline := h.tline })
      ∧ (∀ (g : Reg) (l : BitVec 7) (m : BitVec 3) (v w : BitVec 4), s.core.handler = none →
        ((∀ e, e ≠ .c → (s.core.ctx e).outq.length < s.core.slipw) →
          ∃ t, exec (.loopb g l m v w) s = .next t ∧ s.Done t .c
            ((([Engine.a, .v, .m].foldl (fun k e => k.modCtx e (fun x => { x with
              outq := x.outq ++ [.arm ((s.src g).setWidth 32) (l.toNat + 1) m v.toNat w.toNat] })) s.core)).modCtx .c
                (fun x => { x with seqNext := some (s.issue.line.toNat + (l.toNat + 1) + 1) })))
        ∧ ((∃ e, e ≠ .c ∧ s.core.slipw ≤ (s.core.ctx e).outq.length) →
          ∃ t, exec (.loopb g l m v w) s = .next t ∧ s.Waits t .c (.outFull [.a, .v, .m])))
      ∧ (∀ (b : BitVec 3) (o : BitVec 13), ∃ t, exec (.prep b o) s = .next t ∧ s.Done t .c { s.core with
          regs := { s.core.regs with b := s.core.regs.b.set b.toNat (BitVec.ofNat 12 (s.issue.line.toNat + o.toNat)) (b.isLt) } })
      ∧ (∀ (r : Reg) (i : BitVec 12), ∃ t, exec (.mcw r i) s = .next t ∧ s.Done t .c { s.core with
          mx := { s.core.mx with shadow := vset s.core.mx.shadow i.toNat (s.src r) } }))

/-- R148-R150: CSRW writes the RW registers (VMODE keeps bits 4:0, with RM 5 to 7 stored as 0), clears the flags whose bits it
writes as ones, and leaves RO registers alone; CSRR reads the RW and W1C registers as they stand, CYCLE as it then stands, and
IDENT, TEXTID, SSTEP, WAVE, SLIPW and RFSTAT from the resident cell, the text, the kernel and the controller; it completes for every
index of the map. -/
def Obligations.ControlRegisters : Prop :=
  ∀ (s : State) (r d : Reg) (i : BitVec 12), s.eng = .c → csrOk i = true →
    let c := s.core.csr
    let x := s.src r
    let rm := x.toNat / 4 % 8
    (∃ t c', exec (.csrw r i) s = .next t ∧ s.Done t .c { s.core with csr := c' }
      ∧ (i = 0x001 → c' = { c with vmode := BitVec.ofNat 64 (x.toNat % 4 + (if 4 < rm then 0 else 4 * rm)) })
      ∧ (i = 0x002 → c' = { c with vsrc := x }) ∧ (i = 0x003 → c' = { c with vsrk := x })
      ∧ (i = 0x004 → c' = { c with vflg := c.vflg &&& ~~~(x.setWidth 5) })
      ∧ (i = 0x005 → c' = { c with mflg := c.mflg &&& ~~~(x.setWidth 5) })
      ∧ (i = 0x006 → c' = { c with xflg := c.xflg &&& ~~~(x.setWidth 3) })
      ∧ (i = 0x018 → c' = { c with tcause := x.setWidth 8 }) ∧ (i = 0x019 → c' = { c with tinfo := x })
      ∧ (i = 0x01A → c' = { c with tline := x.setWidth 18 })
      ∧ (0x010 ≤ i.toNat → i.toNat ≤ 0x015 ∨ i = 0x020 → c' = c))
    ∧ (sReg .c d = true → ∃ t y n, exec (.csrr d i) s = .next t ∧ s.Done t .c ({ s.core with cycle := n }.setS .c d y)
      ∧ (i ≠ 0x014 → n = s.core.cycle)
      ∧ (i = 0x001 → y = c.vmode) ∧ (i = 0x002 → y = c.vsrc) ∧ (i = 0x003 → y = c.vsrk)
      ∧ (i = 0x004 → y = c.vflg.setWidth 64) ∧ (i = 0x005 → y = c.mflg.setWidth 64) ∧ (i = 0x006 → y = c.xflg.setWidth 64)
      ∧ (i = 0x014 → n = y)
      ∧ (∀ cl, s.core.cell = some cl → i = 0x010 → y = BitVec.ofNat 64
          (cl.ctx.toNat * 2 ^ 32 + cl.part.val * 2 ^ 16 + (s.part cl.part.val).dies.length * 2 ^ 12 + s.turn.core.val))
      ∧ (i = 0x011 → y = s.core.textId)
      ∧ (∀ cl, s.core.cell = some cl → (i = 0x012 → y = BitVec.ofNat 64 cl.sstep) ∧ (i = 0x013 → y = BitVec.ofNat 64 cl.wave)
          ∧ (i = 0x015 → y = BitVec.ofNat 64 cl.kern.slipw))
      ∧ (i = 0x020 → y = BitVec.ofNat 64 (s.core.ref.k.toNat * 2 ^ 16 + s.core.ref.nesc % 256 * 2 ^ 8
          + (match s.core.ref.routine with | .none => 0 | .factor => 1 | .solve => 2 | .resid => 3) * 2 ^ 4
          + (if s.core.ref.pc = .idle then 0 else 2 ^ 3) + s.core.ref.rung))
      ∧ (i = 0x018 → y = c.tcause.setWidth 64) ∧ (i = 0x019 → y = c.tinfo) ∧ (i = 0x01A → y = c.tline.setWidth 64))

/-- R69-R71, R152: BINIT sets the count of a point that has none; BARV counts the cell's next arrival toward the current phase or
the next one, before or after BINIT, answers its number and completes the phase when the count is reached; BWT goes on once its
phase has completed and waits before. A count, or an arrival, completes two phases at once when the arrivals toward the next phase
reach it too. A point above 23, an arrival of a phase that has completed and a wait for a phase beyond the
next trap barrier misuse, with no effect. -/
def Obligations.RendezvousPoints : Prop :=
  ∀ (s : State) (r : Reg) (p : BitVec 5) (part : Nat) (q : BitVec 10) (tm : SStep) (cl : Cell), s.eng = .c →
    s.team = some (part, q, tm, cl) → s.core.handler = none →
    let x := tm.point p.toNat
    let j := x.arrival cl.linear
    let x1 : Point := { x with arrivals := (cl.linear, j + 1) :: x.arrivals.filter (fun a => a.1 != cl.linear) }
    (s.core.trapv ≠ 0 →
      (24 ≤ p.toNat ∨ x.count ≠ none ∨ s.src r = 0 ∨ 65535 < (s.src r).toNat →
        ∃ t, exec (.binit r p) s = .next t ∧ s.TrapsAt t .c 0x0A (p.setWidth 64))
      ∧ (24 ≤ p.toNat ∨ j < x.phase → ∃ t, exec (.barv r p) s = .next t ∧ s.TrapsAt t .c 0x0A (p.setWidth 64))
      ∧ (24 ≤ p.toNat ∨ x.phase + 1 < (s.src r).toNat →
        ∃ t, exec (.bwt r p) s = .next t ∧ s.TrapsAt t .c 0x0A (p.setWidth 64)))
    ∧ (p.toNat < 24 →
    (∀ c, x.count = none → (s.src r).toNat = c → 1 ≤ c → c ≤ 65535 →
      (x.now < c → ∃ t, exec (.binit r p) s = .next t
        ∧ (s.setPoint part q tm p.toNat { x with count := some c }).Done t .c s.core)
      ∧ (c ≤ x.now → x.next < c → ∃ t, exec (.binit r p) s = .next t
        ∧ (s.setPoint part q tm p.toNat { x with count := some c, phase := x.phase + 1, now := x.next, next := 0 }).Done t .c
            s.core)
      ∧ (c ≤ x.now → c ≤ x.next → ∃ t, exec (.binit r p) s = .next t
        ∧ (s.setPoint part q tm p.toNat { x with count := some c, phase := x.phase + 2, now := 0, next := 0 }).Done t .c s.core))
    ∧ (∀ c, x.count = some c → j = x.phase → x.now + 1 < c → ∃ t, exec (.barv r p) s = .next t
        ∧ (s.setPoint part q tm p.toNat { x1 with now := x.now + 1 }).Done t .c (s.core.setS .c r (BitVec.ofNat 64 j)))
    ∧ (∀ c, x.count = some c → j = x.phase → c ≤ x.now + 1 → x.next < c → ∃ t, exec (.barv r p) s = .next t
        ∧ (s.setPoint part q tm p.toNat { x1 with phase := x.phase + 1, now := x.next, next := 0 }).Done t .c
            (s.core.setS .c r (BitVec.ofNat 64 j)))
    ∧ (∀ c, x.count = some c → j = x.phase → c ≤ x.now + 1 → c ≤ x.next → ∃ t, exec (.barv r p) s = .next t
        ∧ (s.setPoint part q tm p.toNat { x1 with phase := x.phase + 2, now := 0, next := 0 }).Done t .c
            (s.core.setS .c r (BitVec.ofNat 64 j)))
    ∧ (x.count = none → j = x.phase → ∃ t, exec (.barv r p) s = .next t
        ∧ (s.setPoint part q tm p.toNat { x1 with now := x.now + 1 }).Done t .c (s.core.setS .c r (BitVec.ofNat 64 j)))
    ∧ ((∀ c, x.count = some c → x.now < c) → j = x.phase + 1 → ∃ t, exec (.barv r p) s = .next t
        ∧ (s.setPoint part q tm p.toNat { x1 with next := x.next + 1 }).Done t .c (s.core.setS .c r (BitVec.ofNat 64 j)))
    ∧ (x.phase + 2 ≤ j → ∃ t, exec (.barv r p) s = .next t ∧ s.Waits t .c (.barv p.toNat))
    ∧ ((s.src r).toNat < x.phase → ∃ t, exec (.bwt r p) s = .next t ∧ s.Done t .c s.core)
    ∧ (x.phase ≤ (s.src r).toNat → (s.src r).toNat ≤ x.phase + 1 →
        ∃ t, exec (.bwt r p) s = .next t ∧ s.Waits t .c (.bwt p.toNat (s.src r))))

/-- R289: REFINE with a well-formed block at a multiple of 128 starts the controller with the block's fields; C stays at its
lane. -/
def Obligations.RefineStarts : Prop :=
  ∀ (s : State) (a : Reg) (im : BitVec 14), s.eng = .c →
    let off := (s.src a + im.signExtend 64).toNat % 2 ^ 23
    let b := (List.range 128).map (fun j => s.core.well.get (pathOf .m) ((off + j) % 2 ^ 23))
    s.core.handler = none → off % 128 = 0 → blockOk s.core.textLen b = true → s.core.ec.stack.length < 8 →
    s.core.ref.pc = .idle → laterC s.core s.issue = false → s.poisoned (.well s.turn.core) off 64 = false →
    ∃ t r, exec (.refine a im) s = .next t
      ∧ s.Left t .c ({ s.core with ref := r }.modCtx .c (fun x => { x with wait := none, rfret := false }))
      ∧ r.pc = .callFactor ∧ r.normed = false ∧ r.esc = false ∧ r.k = 0 ∧ r.nesc = 0 ∧ r.hist = [] ∧ r.off.toNat = off ∧ r.n = field b 0 4
      ∧ r.itmax.toNat = field b 4 4 ∧ r.xoff.toNat = field b 8 4 ∧ r.boff.toNat = field b 0xC 4 ∧ r.roff.toNat = field b 0x10 4
      ∧ r.anorm.toNat = field b 0x18 8 ∧ r.tau.toNat = field b 0x20 8 ∧ r.rho.toNat = field b 0x28 8
      ∧ r.factor = BitVec.ofNat 12 (field b 0x30 2) ∧ r.solve = BitVec.ofNat 12 (field b 0x32 2)
      ∧ r.resid = BitVec.ofNat 12 (field b 0x34 2)
      ∧ r.act.toNat = field b 0x38 4 ∧ r.rung = field b 0x14 1 % 4 ∧ r.rung1 = field b 0x14 1 / 4 ∧ r.rung ≤ r.rung1 ∧ r.rung1 < 3

/-- R153, R350, R370: LAUNCH completes with a status in d: 4 for a queue number above 1,023; 2 for a queue that is unbound, being reset
or bound to another context; 3 for one not taking packets; 5 when the index block or the slot cannot be reached; 1 for a full ring; and
0 when the packet is published: the slot of index i = RESERVE holds the 64 bytes with SEQ i, RESERVE is i + 1 and PUB at least that.
Nothing else changes, but that writes which were pending to RESERVE are seen (R300, R313) when the index block has been read. That 2
comes before 3 is the model's choice (log 99), and so is that the front end's writes are performed everywhere at once (log 8). -/
def Obligations.LaunchStatus : Prop :=
  ∀ (s : State) (d a b : Reg), s.eng = .c → sReg .c d = true →
    s.poisoned (.well s.turn.core) ((s.src a).toNat % 2 ^ 23 / 64 * 64) 64 = false →
    let q : BitVec 10 := (s.src b).setWidth 10
    let ctx := (s.core.cell.map (·.ctx)).getD 0
    let x := s.queue q
    let pk := (List.range 64).map (fun j => s.core.well.get (pathOf .c) (((s.src a).toNat % 2 ^ 23 / 64 * 64 + j) % 2 ^ 23))
    let gives (n : Nat) (s1 : State) : Prop := ∃ t, exec (.launch d a b) s = .next t ∧ s1.Done t .c (s1.core.setS .c d (BitVec.ofNat 64 n))
    (∃ t, exec (.launch d a b) s = .next t)
    ∧ (1023 < (s.src b).toNat → gives 4 s)
    ∧ ((s.src b).toNat ≤ 1023 →
      (x.state = .unbound ∨ x.state = .resetting ∨ BitVec.ofNat 12 x.ctx.toNat ≠ ctx → gives 2 s)
      ∧ (x.state = .overrun ∨ x.state = .halted ∨ x.state = .faulted → BitVec.ofNat 12 x.ctx.toNat = ctx → gives 3 s)
      ∧ (x.state = .active → BitVec.ofNat 12 x.ctx.toNat = ctx →
        (ringTarget s x x.idxva .rmw = none ∨ ringRead s x x.idxva 8 = none → gives 5 s)
        ∧ ∀ tg, ringTarget s x x.idxva .rmw = some tg → (ringRead s x x.idxva 8).isSome = true →
          let s0 := s.flushTarget tg 8
          let i : W := BitVec.ofNat 64 (leNat (latestTarget s0 tg 8))
          let slot : List Byte := leBytes 4 (i.toNat % 2 ^ 32) ++ pk.drop 4
          s.OnlySeen s0 ∧ ((∀ h, ∀ w ∈ (s.memory h).pend, ∀ c ∈ w.cells, ¬ targetHas tg 8 h c.1) → s0 = s)
          ∧ (ringTarget s x (slotVA x i) .write = none → gives 5 s)
          ∧ ∀ u, ringTarget s x (slotVA x i) .write = some u →
            (2 ^ x.logm.toNat ≤ (i - x.read).toNat → gives 1 s)
            ∧ ((i - x.read).toNat < 2 ^ x.logm.toNat → ∃ t, exec (.launch d a b) s = .next t
              ∧ (let s1 := { s0 with hbm := t.hbm, host := t.host }
                (s1.setQueue q { x with pub := if x.pub < i + 1 then i + 1 else x.pub }).Done t .c (s1.core.setS .c d 0))
              ∧ (plainTarget u 64 → t.holdsAt u slot)
              ∧ (plainTarget tg 8 → plainTarget u 64 →
                ((∀ h y, ¬ (targetHas tg 8 h y ∧ targetHas u 64 h y)) → t.holdsAt tg (leBytes 8 (i + 1).toNat))
                ∧ ∀ h y, ¬ targetHas tg 8 h y → ¬ targetHas u 64 h y → (t.memory h).latest y = (s.memory h).latest y))))

/-! ### Traps -/

/-- R142, R329-R331, R343: TRAP takes the explicit trap: TCAUSE, TINFO and TLINE say which, the handler record keeps C's resume
point, C starts at line TRAPV, and the trapping engine resumes after TRAP with its token pushes due. With TRAPV = 0 the cell halts
with the trap's record; a trap in the handler is a double trap and the cell halts with the first trap's; its queue is HALTED with
EVT[1], and one record of TYPE 2 is posted. That the token pushes stay due until the engine resumes (log 20), and that P, ENTRY, KHEAD, KIND and ACC of that record are 0
(log 28), are the model's choices. -/
def Obligations.TrapEntry : Prop :=
  (
    ∀ (s : State) (c : BitVec 16), s.core.canTrap →
      let x := (s.core.ctx s.eng).past s.issue
      ∃ t, exec (.trap c) s = .next t ∧ s.OnlyCore t
        ∧ s.core.Trapped t.core s.eng 0x0E (c.setWidth 64)
            (BitVec.ofBool (s.core.ctx s.eng).pend.isSome ++ engNum s.eng ++ BitVec.ofNat 3 s.issue.lane ++ (s.core.ctx s.eng).line)
            { x with pushes := if s.issue.pushes.isEmpty then x.pushes else x.pushes ++ [((s.issue.line, s.issue.lane), s.issue.pushes)] })
  ∧ (
    ∀ (s : State) (c : BitVec 16) (cl : Cell) (h : HaltInfo), s.core.cell = some cl → s.core.halted = none →
      ((s.core.handler = none ∧ s.core.trapv = 0
          ∧ h = { code := 0x0E, eng := s.eng, info := c.setWidth 64, tline := tlineOf (s.core.ctx s.eng) s.eng s.issue.lane })
        ∨ ∃ f, s.core.handler = some f ∧ h = { code := 0x11, eng := f.eng, info := f.info, tline := f.tline }) →
      ∃ t, exec (.trap c) s = .next t ∧ s.core.Halted t.core h
        ∧ (t.queue cl.queue).state = .halted ∧ (t.queue cl.queue).evt = (s.queue cl.queue).evt ||| 2
        ∧ t.mgmt.fqHeld ++ t.mgmt.fqWaiting = s.mgmt.fqHeld ++ s.mgmt.fqWaiting ++
            [recordBytes 2 h.code.toNat cl.ctx s.turn.core.val (engNum h.eng).toNat 0xFF 0 0 0 0 0 0 0 h.info (h.tline.setWidth 64)]
        ∧ t.hbm = s.hbm ∧ t.host = s.host ∧ ∀ x, x ≠ s.turn.core → t.coreAt x = s.coreAt x)

/-- R331: RETT ends the handler: C continues at its saved point with its return stack as it now is (the manual does not say that
the entries below are restored: the model's choice, log 44), the stall counter at zero; a changed stack depth is a double trap;
a cause whose resume action is Halt halts the cell. -/
def Obligations.ReturnFromHandler : Prop :=
  ∀ (s : State) (h : Handler), s.eng = .c → s.core.handler = some h →
    let resumes : Bool := [0x01, 0x09, 0x0C, 0x0D, 0x0E, 0x10].contains h.code.toNat
    (s.core.ec.stack.length = h.depth → resumes = true →
      ∃ t, exec .rett s = .next t ∧ s.Left t .c { s.core with
        handler := none, stall := 0, ec := { h.saved with stack := s.core.ec.stack, outq := s.core.ec.outq } })
    ∧ (s.core.ec.stack.length ≠ h.depth →
      ∃ t, exec .rett s = .next t ∧ s.core.Halted t.core { code := 0x11, eng := h.eng, info := h.info, tline := h.tline })
    ∧ (s.core.ec.stack.length = h.depth → resumes = false →
      ∃ t, exec .rett s = .next t ∧ s.core.Halted t.core { code := h.code, eng := h.eng, info := h.info, tline := h.tline })

/-- R47, R48, R69, R137, R145, R155, R289-R291, R331: conditions under which C's and the followers' control instructions trap,
with no effect of their own. -/
def Obligations.ControlTraps : Prop :=
  ∀ (s : State), s.core.canTrap →
    let x := s.core.ctx s.eng
    -- a head of another kind: outcome mismatch, the outcome stays
    (∀ i kind k2 taken target rest, brfKindOf i = some kind → x.outq = .branch k2 taken target :: rest → k2 ≠ kind →
      ∃ t, exec i s = .next t ∧ s.TrapsAt t s.eng 0x06 (match k2 with | .jump => 0 | .call => 1 | .ret => 2))
    -- the stack's two ends
    ∧ (∀ target rest, x.outq = .branch .call true target :: rest → 8 ≤ x.stack.length →
      ∃ t, exec .brfCall s = .next t ∧ s.TrapsAt t s.eng 0x07 0)
    ∧ (∀ target rest, x.outq = .branch .ret true target :: rest → x.stack = [] →
      ∃ t, exec .brfRet s = .next t ∧ s.TrapsAt t s.eng 0x08 0)
    ∧ (∀ b m, s.eng = .c → 8 ≤ s.core.ec.stack.length →
      ∃ t, exec (.callUncond b m) s = .next t ∧ s.TrapsAt t .c 0x07 0)
    ∧ (∀ m, s.eng = .c → s.core.ec.stack = [] → ∃ t, exec (.retUncond m) s = .next t ∧ s.TrapsAt t .c 0x08 0)
    -- routines
    ∧ (∀ target rest, x.outq = .routine target :: rest → 8 ≤ x.stack.length →
      ∃ t, exec .rfjoin s = .next t ∧ s.TrapsAt t s.eng 0x07 0)
    ∧ (x.stack = [] → ∃ t, exec .rfret s = .next t ∧ s.TrapsAt t s.eng 0x0F s.wordInfo)
    ∧ (s.core.ref.pc ≠ .idle → ∃ t, exec .endEngine s = .next t ∧ s.TrapsAt t s.eng 0x0F s.wordInfo)
    -- rendezvous points
    ∧ (∀ r p part q tm cl, s.team = some (part, q, tm, cl) →
      (24 ≤ p.toNat ∨ (tm.point p.toNat).count ≠ none ∨ s.src r = 0 ∨ 65535 < (s.src r).toNat) →
      ∃ t, exec (.binit r p) s = .next t ∧ s.TrapsAt t s.eng 0x0A (p.setWidth 64))

/-! ### A -/

/-- R62, R158-R163: MVX queues a chain whose head is the register's offset with its low six bits cleared, and waits while four are
queued; MVQ reads the status word; MVW reads it once the stream is IDLE with nothing queued, and waits before. TDEF sets BASE and
LEN of a tile no command holds, TSET its state, TGET reads its word; the first two wait while a command holds it. -/
def Obligations.AInstructions : Prop :=
  (
    ∀ (s : State) (r : Reg) (n : BitVec 2), s.eng = .a →
      let x := s.core.stream n.toNat
      let status : W := BitVec.ofNat 64 (x.pos.toNat * 2 ^ 32 + x.entry.toNat * 2 ^ 8 + (if x.flt then 128 else 0)
        + x.queued.length * 16 + (if x.waiting then 8 else 0)
        + (match x.state with | .idle => 0 | .active => 1 | .suspended => 2 | .aborting => 3))
      (x.queued.length < 4 → ∃ t ch, exec (.mvx r n) s = .next t
        ∧ s.Done t .a { s.core with streams := vset s.core.streams n.toNat { x with queued := x.queued ++ [ch] } }
        ∧ ch.khead.toNat = (s.src r).toNat % 2 ^ 23 / 64 * 64 ∧ ch.cell = (s.core.cell.map (·.id)).getD 0)
      ∧ (4 ≤ x.queued.length → ∃ t, exec (.mvx r n) s = .next t ∧ s.Waits t .a (.streamFull n.toNat))
      ∧ (∃ t, exec (.mvq r n) s = .next t ∧ s.Done t .a (s.core.setS .a r status))
      ∧ (x.state = .idle → x.queued = [] → ∃ t, exec (.mvw r n) s = .next t ∧ s.Done t .a (s.core.setS .a r status))
      ∧ ((x.state ≠ .idle ∨ x.queued ≠ []) → ∃ t, exec (.mvw r n) s = .next t ∧ s.Waits t .a (.streamBusy n.toNat)))
  ∧ (
    ∀ (s : State) (b e l d : Reg) (i : BitVec 8) (c : BitVec 2), s.eng = .a →
      let n := ((s.src e).toNat + i.toNat) % 256
      let x := vget s.core.tiles n {}
      (x.held = none → ∃ t, exec (.tdef b e i l) s = .next t ∧ s.Done t .a { s.core with
        tiles := vset s.core.tiles n { x with base := (s.src b).setWidth 23, len := min (s.src l).toNat (2 ^ 23) } })
      ∧ (x.held = none → ∃ t, exec (.tset e i c) s = .next t ∧ s.Done t .a { s.core with
        tiles := vset s.core.tiles n { x with state := match c.toNat with
          | 0 => .empty | 1 => .filling | 2 => .ready | _ => .draining } })
      ∧ (x.held ≠ none → (∃ t, exec (.tdef b e i l) s = .next t ∧ s.Waits t .a (.tileHeld n))
          ∧ ∃ t, exec (.tset e i c) s = .next t ∧ s.Waits t .a (.tileHeld n))
      ∧ (∃ t, exec (.tget d e i) s = .next t ∧ s.Done t .a (s.core.setS .a d (BitVec.ofNat 64
          ((if x.held.isSome then 2 ^ 58 else 0)
            + (match x.state with | .empty => 0 | .filling => 1 | .ready => 2 | .draining => 3) * 2 ^ 56
            + x.len * 2 ^ 32 + x.base.toNat)))))

/-- R62, R161, R198, R200, R327: MVA stops the stream's command and drops its chains: the stream is IDLE with nothing queued, bands
it owned are released, tiles it was filling become EMPTY and tiles it was draining READY, and the status word before it goes to
the register; an idle stream with nothing queued only answers its status word. That MVA on an idle stream with queued chains discards
them, and that the tiles and bands of commands still completing go back too, is the model's choice (log 68). A stream-control word that names a suspended stream of the right context
and count of faults resumes it where it stood, or aborts it as MVA does; any other word does nothing. -/
def Obligations.StreamsStopAndResume : Prop :=
  (
    ∀ (s : State) (r : Reg) (n : BitVec 2), s.eng = .a → (s.core.stream n.toNat).inAtomic = false →
      let x := s.core.stream n.toNat
      (x.state = .idle → x.queued = [] →
        ∃ t, exec (.mva r n) s = .next t ∧ s.Done t .a (s.core.setS .a r (statusWord x)))
      ∧ ((x.state ≠ .idle ∨ x.queued ≠ []) →
        ∃ t, ∃ k : Core, exec (.mva r n) s = .next t ∧ s.Done t .a (k.setS .a r (statusWord { x with
            state := if x.state = .aborting then .active else x.state }))
          ∧ (k.stream n.toNat).state = .idle ∧ (k.stream n.toNat).queued = [] ∧ (k.stream n.toNat).cmd = none
          ∧ (k.stream n.toNat).chain = none ∧ (k.stream n.toNat).pos = x.pos ∧ (k.stream n.toNat).entry = x.entry
          ∧ (∀ m, m ≠ n → k.stream m.toNat = s.core.stream m.toNat)
          ∧ (∀ o ∈ k.cist.own, o.stream.val ≠ n.toNat) ∧ (∀ o ∈ s.core.cist.own, o.stream.val ≠ n.toNat → o ∈ k.cist.own)
          ∧ (∀ e, e < 256 → (s.core.tile e).held.map (·.val) ≠ some n.toNat → k.tile e = s.core.tile e)
          ∧ (∀ e, e < 256 → (s.core.tile e).held.map (·.val) = some n.toNat →
              (k.tile e).held = none ∧ ((s.core.tile e).state = .filling → (k.tile e).state = .empty)
              ∧ ((s.core.tile e).state = .draining → (k.tile e).state = .ready))
          ∧ k.regs = s.core.regs ∧ k.csr = s.core.csr ∧ k.well = s.core.well ∧ k.urs = s.core.urs))
  ∧ (
    ∀ (s : State) (c : Fin 128) (n seq : Nat) (ctx : BitVec 12), n < 4 → seq < 2 ^ 30 →
      let word (op : Nat) : W := BitVec.ofNat 64 (op * 2 ^ 62 + ctx.toNat * 2 ^ 40 + c.val * 2 ^ 33 + seq * 2 ^ 2 + n)
      let x := (s.coreAt c).stream n
      let right : Prop := x.state = .suspended ∧ x.flt = true ∧ (s.coreAt c).lastCtx = some ctx ∧ x.faults % 2 ^ 30 = seq
      (right → (∃ t, exec (.resume (word 1)) s = .next t ∧ (t.coreAt c).stream n = { x with state := .active, flt := false }
            ∧ (∀ m, m < 4 → m ≠ n → (t.coreAt c).stream m = (s.coreAt c).stream m) ∧ (t.coreAt c).regs = (s.coreAt c).regs
            ∧ (∀ d, d ≠ c → t.coreAt d = s.coreAt d) ∧ t.hbm = s.hbm)
          ∧ ∃ t, exec (.abort (word 2)) s = .next t ∧ ((t.coreAt c).stream n).state = .idle ∧ ((t.coreAt c).stream n).queued = []
            ∧ ((t.coreAt c).stream n).cmd = none ∧ ((t.coreAt c).stream n).chain = none
            ∧ (∀ o ∈ (t.coreAt c).cist.own, o.stream.val ≠ n)
            ∧ (∀ m, m < 4 → m ≠ n → (t.coreAt c).stream m = (s.coreAt c).stream m) ∧ (t.coreAt c).regs = (s.coreAt c).regs
            ∧ (∀ d, d ≠ c → t.coreAt d = s.coreAt d) ∧ t.hbm = s.hbm)
      ∧ (¬ right → exec (.resume (word 1)) s = .next s ∧ exec (.abort (word 2)) s = .next s))

/-! ### V -/

/-- R209-R212, R216, R217, R224-R238, R241, R245: every V-specific instruction that computes vector registers issues: VSRC has
advanced by the elements it draws for, the busy slots of f64 and widening arithmetic follow, and its result, of one register or its
group's, is in flight for its class's latency; it goes to the latch of its class in latch mode, else to the bypass alone for register
63, else to registers from d up. Nothing else changes. Lane by lane the result and its flags are: the floating sums, products,
multiply-adds, minima and special functions rounded once, comparisons, selections, conversions, block scales, cross-lane reads,
scans, bit networks and grouped dot products. The model's choices are: that saturation sets IX too (log 72), that EQ and NE set IV on a
signalling NaN and ABS and NEG do not flush (log 51), the precision of VEXP2 and VLOG2 (log 5), and the sign of an exact zero sum
(log 77). -/
def Obligations.VectorResults : Prop :=
  ∀ (s : State) (i : Instr) (d : Reg) (cls g n : Nat) (busy : Bool), s.sound → vectorShape i = some (d, cls, g, n, busy) →
    ∃ t parts fl, exec i s = .next t ∧ parts.length = g ∧ (∀ r, laneRule s i = some r → r.Holds s parts fl)
      ∧ s.Done t .v ({ s.core with
          csr := { s.core.csr with vsrc := s.core.csr.vsrc + BitVec.ofNat 64 n }
          vp := { s.core.vp with busy := busy || s.core.vp.busy } }.withFlight (latency cls)
            (vectorDest s.core s.tick cls d parts) fl s.issue)
      ∧ (s.core.csr.vmode.getLsbD 1 = true → ∃ ps, vectorDest s.core s.tick cls d parts = .latch cls ps ∧ ps.length = g)
      ∧ (s.core.csr.vmode.getLsbD 1 = false → d = 63 →
          ∃ ps, vectorDest s.core s.tick cls d parts = .transient ps ∧ ps.length = g)
      ∧ (s.core.csr.vmode.getLsbD 1 = false → d ≠ 63 → vectorDest s.core s.tick cls d parts = .vec d.toNat parts)

/-- R79, R207, R224, R225: lanes of the integer and bitwise instructions: each active lane holds the exact value modulo its
width, or for VADDS and VSUBS the nearest value of the type, with OF and IX when a value moved; an inactive lane keeps its old value,
or is zero under Z. That IX is set too (log 72), and that VSRA shifts zeros into an unsigned type (log 9), are the model's choices. -/
def Obligations.IntegerLanes : Prop :=
  ∀ (s : State) (i : Instr) (d : Reg) (ty : BitVec 4) (sat : Bool) (f : Nat → Int), s.sound →
    laneValue s i = some (d, ty, sat, f) →
    let cls := match i with | .vmul .. => 1 | _ => 0
    let fit (j : Nat) : Int := if sat then max (laneMin ty) (min (laneMax ty) (f j)) else f j
    let moved : Bool := (List.range (typeCount ty)).any (fun j => s.laneOn j && decide (fit j ≠ f j))
    ∃ t v m, exec i s = .next t
      ∧ s.Done t .v (s.core.withFlight (latency cls) (vectorDest s.core s.tick cls d [(v, m)]) (if moved then 20 else 0) s.issue)
      ∧ ∀ j, j < typeCount ty →
          (s.laneOn j = true → v.extractLsb' (j * typeWidth ty) (typeWidth ty) = BitVec.ofInt (typeWidth ty) (fit j))
          ∧ (s.laneOn j = false → s.laneZero = true → v.extractLsb' (j * typeWidth ty) (typeWidth ty) = 0)
          ∧ (m.extractLsb' (j * typeWidth ty) (typeWidth ty)
              = if s.laneOn j || s.laneZero then BitVec.allOnes (typeWidth ty) else 0)

/-- R224, R237, R239: VMOVS, VRED and VVOTE issue a 64-bit result for scalar register d (to the latch in latch mode): the
element that i names, extended by its type; of an integer type the exact sum of the active elements modulo 2^64, the largest or smallest,
or their bitwise AND, OR or XOR (an identity where none is active), extended; of a floating type the rounded sum, maximum or minimum of
the lanes in the fixed pairwise tree, in FP32 or FP64, an inactive lane counting as the identity, with the flags of its steps; whether
an active element is nonzero, or all are. The sign of an exact zero sum is the model's choice (log 77). -/
def Obligations.VectorToScalar : Prop :=
  ∀ (s : State) (d a r : Reg) (ty o : BitVec 4), s.sound →
    let n := typeCount ty
    let goes (cls : Nat) (x : W) : VDest := if s.core.csr.vmode.getLsbD 1 then .latch cls [x.setWidth 4096] else .scalar d x
    let on := (List.range n).filter (fun j => s.laneOn j)
    (∃ t, exec (.vmovs d a r ty) s = .next t ∧ s.Done t .v (s.core.withFlight 2 (goes 0
        (if typeInt ty then BitVec.ofInt 64 (s.lane a ty ((s.src r).toNat % n)) else BitVec.ofNat 64 (s.code a ty ((s.src r).toNat % n))))
        0 s.issue))
    ∧ (typeInt ty = true → o = 0 → ∃ t, exec (.vred d a ty o) s = .next t
        ∧ s.Done t .v (s.core.withFlight 6 (goes 7 (BitVec.ofInt 64 ((on.map (s.lane a ty)).sum))) 0 s.issue))
    ∧ (typeInt ty = true → o = 1 → ∃ t, exec (.vred d a ty o) s = .next t
        ∧ s.Done t .v (s.core.withFlight 6 (goes 7 (BitVec.ofInt 64 ((on.map (s.lane a ty)).foldl max (laneMin ty)))) 0 s.issue))
    ∧ (typeInt ty = true → o = 2 → ∃ t, exec (.vred d a ty o) s = .next t
        ∧ s.Done t .v (s.core.withFlight 6 (goes 7 (BitVec.ofInt 64 ((on.map (s.lane a ty)).foldl min (laneMax ty)))) 0 s.issue))
    ∧ (typeInt ty = true → ∀ f u, (o = 3 ∧ f = Nat.land ∧ u = 2 ^ typeWidth ty - 1) ∨ (o = 4 ∧ f = Nat.lor ∧ u = 0)
        ∨ (o = 5 ∧ f = Nat.xor ∧ u = 0) →
        let bits := (on.map (s.code a ty)).foldl f u
        ∃ t, exec (.vred d a ty o) s = .next t ∧ s.Done t .v (s.core.withFlight 6 (goes 7
          (if ty.toNat ∈ [0, 2, 4, 6, 7] then (BitVec.ofNat (typeWidth ty) bits).signExtend 64 else BitVec.ofNat 64 bits)) 0 s.issue))
    ∧ (ty.toNat ∈ [8, 9, 10, 11] → o.toNat < 3 →
        let ft : BitVec 4 := if ty = 11 then 11 else 10
        let leaf (j : Nat) : Nat × Flags := if s.laneOn j then wideOf ty (s.fcode a ty j) else (scanIdF ft o.toNat, 0)
        let r := pairTree (fun x y : Nat × Flags => let z := scanOpF ft o.toNat x.1 y.1; (z.1, z.2 ||| x.2 ||| y.2)) (Nat.log2 n) leaf
        ∃ t, exec (.vred d a ty o) s = .next t ∧ s.Done t .v (s.core.withFlight 6 (goes 7 (BitVec.ofNat 64 r.1)) r.2 s.issue))
    ∧ (∃ t x fl, exec (.vred d a ty o) s = .next t ∧ s.Done t .v (s.core.withFlight 6 (goes 7 x) fl s.issue))
    ∧ (∃ t, exec (.vvoteAny d a ty) s = .next t
        ∧ s.Done t .v (s.core.withFlight 2 (goes 0 (if on.any (fun j => s.code a ty j != 0) then 1 else 0)) 0 s.issue))
    ∧ (∃ t, exec (.vvoteAll d a ty) s = .next t
        ∧ s.Done t .v (s.core.withFlight 2 (goes 0 (if on.all (fun j => s.code a ty j != 0) then 1 else 0)) 0 s.issue))

/-- R207, R221-R223: VLD and VLDT put the well's bytes at their address, as path V reads them, in flight (a byte past the tile's
length reads as zero); VST and VSTT write the active bytes (none past the tile's length) for path V alone; a tile that is not READY
is waited for. Addresses lie at multiples of 64, tile rows at multiples of 512 from the tile's base. -/
def Obligations.VectorLoadsStores : Prop :=
  ∀ (s : State) (d b : Reg) (im : BitVec 14) (e : BitVec 8), s.sound →
    let a := ((s.src b).toNat + 64 * im.toNat) % 2 ^ 23 / 64 * 64
    let x := s.core.tile e.toNat
    let o := (s.src b).toNat * 512 % 2 ^ 23
    let loads (i : Instr) (byte : Nat → Byte) : Prop := ∃ t v m, exec i s = .next t
      ∧ s.Done t .v (s.core.withFlight 6 (vectorDest s.core s.tick 6 d [(v, m)]) 0 s.issue)
      ∧ ∀ j, j < 512 → (s.laneOn j = true → v.extractLsb' (j * 8) 8 = byte j)
          ∧ (s.laneOn j = false → s.laneZero = true → v.extractLsb' (j * 8) 8 = 0)
          ∧ m.extractLsb' (j * 8) 8 = if s.laneOn j || s.laneZero then 255 else 0
    let stores (i : Instr) (base : Nat) (room : Nat → Prop) : Prop := ∃ t w, exec i s = .next t
      ∧ s.Done t .v { s.core with well := w }
      ∧ (∀ o, o < 137 → o ≠ pathOf .v → ∀ y, w.get o y = s.core.well.get o y)
      ∧ (∀ j, j < 512 → s.laneOn j = true → room j →
          w.get (pathOf .v) ((base + j) % 2 ^ 23) = (s.core.vreg d).extractLsb' (j * 8) 8)
      ∧ (∀ y, (∀ j, j < 512 → s.laneOn j = true → room j → y ≠ (base + j) % 2 ^ 23) →
          w.get (pathOf .v) y = s.core.well.get (pathOf .v) y)
    loads (.vld d b im) (fun j => s.core.well.get (pathOf .v) ((a + j) % 2 ^ 23))
    ∧ stores (.vst d b im) a (fun _ => True)
    ∧ (x.state = .ready → loads (.vldt d b e) (fun j => if o + j < x.len then
          s.core.well.get (pathOf .v) ((x.base.toNat + o + j) % 2 ^ 23) else 0)
        ∧ stores (.vstt d b e) (x.base.toNat + o) (fun j => o + j < x.len))
    ∧ (x.state ≠ .ready → (∃ t, exec (.vldt d b e) s = .next t ∧ s.Waits t .v (.tiles [e.toNat]))
        ∧ ∃ t, exec (.vstt d b e) s = .next t ∧ s.Waits t .v (.tiles [e.toNat]))

/-- R216, R218, R240: VBPAT reads 512 entries of ten bits, one from each 16-bit word at its address, for pattern p (in latch mode
the 1,024 bytes for the load latch, as two registers: the model's choice, log 22); VMVL moves part p of a latch to register d in either mode, and sets the latched flags the first
time. -/
def Obligations.PatternsAndLatches : Prop :=
  ∀ (s : State) (p b d : Reg) (im : BitVec 14) (h : Reg) (u : BitVec 4), s.sound →
    let a := ((s.src b).toNat + 64 * im.toNat) % 2 ^ 23 / 64 * 64
    let byte (j : Nat) : Nat := (s.core.well.get (pathOf .v) ((a + j) % 2 ^ 23)).toNat
    let l := vget s.core.vp.latches u.toNat {}
    (s.core.csr.vmode.getLsbD 1 = false → ∃ t pat, exec (.vbpat h b im) s = .next t
      ∧ s.Done t .v (s.core.withFlight 6 (.pattern h.toNat pat) 0 s.issue)
      ∧ ∀ j, j < 512 → (pat.extractLsb' (10 * j) 10).toNat = (byte (2 * j) + 256 * byte (2 * j + 1)) % 1024)
    ∧ (s.core.csr.vmode.getLsbD 1 = true → ∃ t v w, exec (.vbpat h b im) s = .next t
      ∧ s.Done t .v (s.core.withFlight 6 (.latch 6 [v, w]) 0 s.issue)
      ∧ ∀ j, j < 512 → (v.extractLsb' (8 * j) 8).toNat = byte j ∧ (w.extractLsb' (8 * j) 8).toNat = byte (512 + j))
    ∧ ∃ t, exec (.vmvl d p u) s = .next t ∧ s.Done t .v ({ s.core with
        csr := { s.core.csr with vflg := s.core.csr.vflg ||| l.flags }
        vp := { s.core.vp with latches := vset s.core.vp.latches u.toNat { l with flags := 0 } } }.withFlight 2
          (if d = 63 then .transient [l.parts.getD p.toNat 0] else .vec d.toNat [(l.parts.getD p.toNat 0, BitVec.allOnes 4096)])
          0 s.issue)

/-- R242, R243: VCHAIN reads its descriptor at its address; a well-formed one is taken, with its fields and VMODE.DAZ, and V works
through it element by element, any other writes nothing and sets IV. An element is read, put through the operations in order, each with
its element of SRC1 or its constant, and written for path V alone, with the flags of the operations; after the last the chain is over.
That ABS and NEG do not flush (log 51) and the sign of an exact zero sum (log 77) are the model's choices. -/
def Obligations.ChainElements : Prop :=
  ∀ (s : State), s.sound →
    (∀ (b : Reg) (im : BitVec 14),
      let a := ((s.src b).toNat + 64 * im.toNat) % 2 ^ 23 / 64 * 64
      let bs := (List.range 64).map (fun j => s.core.well.get (pathOf .v) ((a + j) % 2 ^ 23))
      (readChain (s.core.csr.vmode.getLsbD 0) bs s.issue = none → ∃ t, exec (.vchain b im) s = .next t
        ∧ s.Done t .v { s.core with csr := { s.core.csr with vflg := s.core.csr.vflg ||| 1 } })
      ∧ ∀ c, readChain (s.core.csr.vmode.getLsbD 0) bs s.issue = some c →
          (c.src0.toNat = field bs 0 4 ∧ c.src1.toNat = field bs 4 4 ∧ c.dst.toNat = field bs 8 4 ∧ c.n = field bs 0xC 4
            ∧ 1 ≤ c.n ∧ c.n ≤ 2 ^ 20 ∧ c.typ.toNat = field bs 0x10 1 ∧ 1 ≤ c.nops ∧ c.nops ≤ 8 ∧ c.e = 0
            ∧ c.typ.toNat ∈ [4, 8, 9, 10] ∧ c.nops = field bs 0x11 1 ∧ c.rm.toNat = field bs 0x12 1 ∧ c.rm.toNat < 4
            ∧ c.k0.toNat = field bs 0x18 8 ∧ c.k1.toNat = field bs 0x20 8 ∧ c.ops = (bs.drop 0x28).take 8
            ∧ c.daz = s.core.csr.vmode.getLsbD 0)
          ∧ ∃ t, exec (.vchain b im) s = .next t
            ∧ s.Left t .v ({ s.core with vp := { s.core.vp with chain := some c } }.modCtx .v (fun x => x.past s.issue)))
    ∧ ∀ c, s.core.vp.chain = some c → c.typ.toNat ∈ [4, 8, 9, 10] → c.rm.toNat < 4 →
        let n := typeWidth c.typ / 8
        let at_ (o : Off) (j : Nat) : Nat := (o.toNat + c.e * n + j) % 2 ^ 23
        let rd (o : Off) : Nat := leNat ((List.range n).map (fun j => s.core.well.get (pathOf .v) (at_ o j)))
        let operand (b : Byte) : Nat := match b.toNat / 16 % 4 with
          | 0 => rd c.src1
          | 1 => c.k0.toNat % 2 ^ (8 * n)
          | 2 => c.k1.toNat % 2 ^ (8 * n)
          | _ => 0
        let r := (c.ops.take c.nops).foldl (fun (st : Nat × Flags) b =>
          let z := chainOp c (b.toNat % 16) st.1 (operand b)
          (z.1, st.2 ||| z.2)) (rd c.src0, 0)
        ∃ t w x fl, exec .vchainElement s = .next t ∧ x = r.1 ∧ fl = r.2
          ∧ s.Left t .v ({ s.core with
              well := w, csr := { s.core.csr with vflg := s.core.csr.vflg ||| fl }
              vp := { s.core.vp with chain := if c.e + 1 < c.n then some { c with e := c.e + 1 } else none } }.modCtx .v
                (fun x => if c.e + 1 < c.n then x else x.owe c.issue.place c.issue.pushes))
          ∧ (∀ o, o < 137 → o ≠ pathOf .v → ∀ y, w.get o y = s.core.well.get o y)
          ∧ (∀ j, j < n → w.get (pathOf .v) (at_ c.dst j) = BitVec.ofNat 8 (x / 2 ^ (8 * j)))
          ∧ (∀ y, (∀ j, j < n → y ≠ at_ c.dst j) → w.get (pathOf .v) y = s.core.well.get (pathOf .v) y)

/-- R209, R211, R212, R214-R216: in a slot in which one result is due it lands and every other comes one slot nearer: a scalar
register, a pattern, a latch with the flags it will set, the bypass, or a vector register, whose bits outside the result keep their
old values and which only path V reads anew; a result other than a latched one sets its flags. With nothing due, only slots
pass. -/
def Obligations.ResultLands : Prop :=
  ∀ (s : State),
    let k := s.core
    (∀ f rest, k.vp.flights = f :: rest → f.rem = 0 → (∀ g ∈ rest, g.rem ≠ 0) →
      let p := { k.vp with flights := rest.map (fun g => { g with rem := g.rem - 1 }), busy := false }
      let k1 : Core := { k.modCtx .v (fun x => x.owe (0, 0) f.pushes) with
        vp := p, csr := { k.csr with vflg := k.csr.vflg ||| f.flags } }
      (∀ r x, f.dest = .scalar r x → ∃ t, exec .vResultLanding s = .next t ∧ s.Left t .v (k1.setS .v r x))
      ∧ (∀ q bits, f.dest = .pattern q bits → ∃ t, exec .vResultLanding s = .next t
          ∧ s.Left t .v { k1 with vp := { p with patterns := vset p.patterns q bits } })
      ∧ (∀ c parts, f.dest = .latch c parts → ∃ t, exec .vResultLanding s = .next t ∧ s.Left t .v { k1 with
          csr := k.csr, vp := { p with latches := vset p.latches c { parts := parts, flags := f.flags } } })
      ∧ (∀ v, f.dest = .transient [v] → ∃ t, exec .vResultLanding s = .next t
          ∧ s.Left t .v { k1 with vp := { p with bp0 := v, bp1 := p.bp0, bp2 := p.bp1 } })
      ∧ (∀ d v m, f.dest = .vec d [(v, m)] → ∃ t u x, exec .vResultLanding s = .next t
          ∧ s.Left t .v { k1 with urs := u, vp := { p with bp0 := x, bp1 := p.bp0, bp2 := p.bp1 } }
          ∧ (∀ o, o < 137 → o ≠ pathOf .v → ∀ a, u.get o a = k.urs.get o a)
          ∧ (∀ a, (∀ j, j < 512 → a ≠ (k.viewv + 512 * d + j) % 2 ^ 18) → u.get (pathOf .v) a = k.urs.get (pathOf .v) a)
          ∧ (∀ j, j < 512 → x.extractLsb' (8 * j) 8 = u.get (pathOf .v) ((k.viewv + 512 * d + j) % 2 ^ 18))
          ∧ (∀ b, b < 4096 → x.getLsbD b = if m.getLsbD b then v.getLsbD b
              else (k.urs.get (pathOf .v) ((k.viewv + 512 * d + b / 8) % 2 ^ 18)).getLsbD (b % 8))))
    ∧ ((∀ g ∈ k.vp.flights, g.rem ≠ 0) → ∃ t, exec .vResultLanding s = .next t ∧ s.Left t .v { k with
        vp := { k.vp with flights := k.vp.flights.map (fun g => { g with rem := g.rem - 1 }), busy := false } })

/-! ### M -/

/-- R4, R154, R254, R261, R268, R270, R273: MCFG reads an entry of the active bank, a position counter or NSTEP, and its shadow form
an entry of the shadow bank; MSRD and MSWR read and write a sampling register; a zero field reads as zero; ASTAT and CSTAT read status words as they stood
before, the forms of ASTAT then set VALID and clear DIRTY, or clear DIRTY, and that of CSTAT clears UNB. -/
def Obligations.MatrixRegisters : Prop :=
  ∀ (s : State) (d n : Reg) (i : BitVec 11) (j : BitVec 12),
    let k := s.core
    let reads (x : Instr) (k1 : Core) (y : W) : Prop := ∃ t, exec x s = .next t ∧ s.Done t .m (k1.setS .m d y)
    let a : Fin 8 := aregOf n
    let h : Fin 64 := handleOf n
    let held (tg : MTarget) : Bool := match k.mx.held with
      | some x => x.tgt == tg
      | none => false
    let status : W := BitVec.ofNat 64 ((if k.mx.valid.getLsbD a.val then 1 else 0) + (if k.mx.dirty.getLsbD a.val then 2 else 0)
      + (if held (.areg a) then 4 else 0))
    (i.toNat < 0x40 → reads (.mcfg d i) k (vget k.mx.active i.toNat 0 &&& bankBits i.toNat)
        ∧ reads (.mcfgSh d i) k (vget k.mx.shadow i.toNat 0 &&& bankBits i.toNat))
    ∧ (∀ l, l < 6 → i.toNat = 0x40 + l → reads (.mcfg d i) k ((vget k.mx.pos l 0).setWidth 64))
    ∧ (i = 0x46 → reads (.mcfg d i) k k.mx.nstep)
    ∧ (0x100 ≤ j.toNat → reads (.msrd d j) k (vget k.samp (j.toNat - 0x100) 0 &&& samplingBits (j.toNat - 0x100))
        ∧ ∃ t, exec (.mswr n j) s = .next t
          ∧ s.Done t .m { k with samp := vset k.samp (j.toNat - 0x100) (k.getS .m n) })
    ∧ reads (.astat d n) k status
    ∧ reads (.astatVal d n) { k with mx := { k.mx with
        valid := k.mx.valid ||| 1#8 <<< a.val, dirty := k.mx.dirty &&& ~~~(1#8 <<< a.val) } } status
    ∧ reads (.astatCln d n) { k with mx := { k.mx with dirty := k.mx.dirty &&& ~~~(1#8 <<< a.val) } } status
    ∧ ∃ y : W, reads (.cstat d n) k y ∧ reads (.cstatClr d n) { k with cist := { k.cist with unb := false } } y
        ∧ y.getLsbD 6 = (k.bankOf k.cellId h).isSome ∧ y.getLsbD 7 = held (.handle h) ∧ y.getLsbD 32 = k.cist.unb
        ∧ (k.cist.free.length < 128 → y.toNat / 2 ^ 40 % 128 = k.cist.free.length)
        ∧ (k.bankOf k.cellId h = none → y.toNat % 64 = 0 ∧ y.toNat / 256 % 16 = 0)
        ∧ ∀ b, k.bankOf k.cellId h = some b → y.toNat % 64 = b.val
            ∧ ∀ q, q < 4 → y.getLsbD (8 + q) = k.cist.own.any (fun o => o.of == .bank b && decide (o.lo ≤ q) && decide (q ≤ o.hi))

/-- R58, R261, R262, R268, R270: AZERO zeroes the a-register's 4,096 elements and sets VALID and DIRTY, AREL clears both, and
either discards sums held for it; CREL unbinds a bound handle, whose bank is free again unless a stream owns a band of it or a
handle still names it; on an unbound handle it traps cistern misuse. -/
def Obligations.AccumulatorsReleased : Prop :=
  ∀ (s : State) (n : Reg),
    let k := s.core
    let a : Fin 8 := aregOf n
    let h : Fin 64 := handleOf n
    let drop (tg : MTarget) (x : MState) : Prop := x = { k.mx with held := x.held, valid := x.valid, dirty := x.dirty }
      ∧ x.held = match k.mx.held with
        | some y => if y.tgt = tg then none else some y
        | none => none
    (∃ t u x, exec (.azero n) s = .next t ∧ s.Done t .m { k with urs := u, mx := x } ∧ drop (.areg a) x
      ∧ x.valid = k.mx.valid ||| 1#8 <<< a.val ∧ x.dirty = k.mx.dirty ||| 1#8 <<< a.val
      ∧ (∀ j, j < 16384 → u.get (pathOf .m) ((k.viewa + 16384 * a.val + j) % 2 ^ 18) = 0)
      ∧ (∀ y, (∀ j, j < 16384 → y ≠ (k.viewa + 16384 * a.val + j) % 2 ^ 18) → u.get (pathOf .m) y = k.urs.get (pathOf .m) y)
      ∧ ∀ o, o < 137 → o ≠ pathOf .m → ∀ y, u.get o y = k.urs.get o y)
    ∧ (∃ t x, exec (.arel n) s = .next t ∧ s.Done t .m { k with mx := x } ∧ drop (.areg a) x
      ∧ x.valid = k.mx.valid &&& ~~~(1#8 <<< a.val) ∧ x.dirty = k.mx.dirty &&& ~~~(1#8 <<< a.val))
    ∧ (∀ b, k.bankOf k.cellId h = some b → ∃ t x c, exec (.crel n) s = .next t ∧ s.Done t .m { k with mx := x, cist := c }
      ∧ drop (.handle h) x ∧ x.valid = k.mx.valid ∧ x.dirty = k.mx.dirty
      ∧ { k with cist := c }.bankOf k.cellId h = none
      ∧ (∀ q g, (q ≠ k.cellId ∨ g ≠ h) → { k with cist := c }.bankOf q g = k.bankOf q g)
      ∧ c.data = k.cist.data ∧ c.own = k.cist.own ∧ c.unb = k.cist.unb ∧ (∀ f ∈ k.cist.free, f ∈ c.free)
      ∧ (k.bankOwned b = false → (c.sets.any (fun t => t.binds.toList.contains (some b))) = false → b ∈ c.free))
    ∧ (k.bankOf k.cellId h = none → k.canTrap → ∃ t, exec (.crel n) s = .next t ∧ s.TrapsAt t .m 0x0B (BitVec.ofNat 64 h.val))

/-- R59, R61, R93, R261, R262, R269: ACPY moves or adds all 4,096 elements between an a-register and a handle whose bank no stream
owns: the destination's elements are the source's, the rounded sums or the saturated i32 sums, whose flags it sets; an a-register written
is valid and dirty, one copied out is clean; an unbound source reads as zeros and sets UNB; a write to an unbound handle binds a bank;
with none left and no owner to wait for it traps cistern exhausted; while a stream owns a band of the bank it waits. A held target that
it names is written back first, and the copy is of the stores as they then are. The sign of an exact zero sum is the model's choice
(log 77). -/
def Obligations.AccumulatorCopy : Prop :=
  ∀ (s : State) (i : Instr) (into add i32 : Bool) (hr ar : Reg), s.allSound →
    acpyOperands i = some (into, add, i32, hr, ar) →
    let h : Fin 64 := handleOf hr
    let n : Fin 8 := aregOf ar
    let named : Prop := ∃ x, s.core.mx.held = some x ∧ (x.tgt = .handle h ∨ x.tgt = .areg n)
    let flags (dst src : Nat → W32) : Flags := (List.range 4096).foldl (fun f e => f ||| acpyFlags add i32 (dst e) (src e)) 0
    (∀ x k, named → s.core.mx.held = some x → s.core.writeBack s.tick s.nextId = .done k → s.core.WroteBack k x) ∧
    ∀ k, (named → s.core.writeBack s.tick s.nextId = .done k) → (¬ named → k = s.core) →
    (∀ b, k.bankOf k.cellId h = some b → k.bankOwned b = false →
      (into = true → ∃ t d fl, exec i s = .next t ∧ s.Done t .m { k with
          cist := { k.cist with data := d }, mx := { k.mx with dirty := k.mx.dirty &&& ~~~(1#8 <<< n.val) }
          csr := { k.csr with mflg := k.csr.mflg ||| fl } }
        ∧ fl = flags (k.cElem b.val) (k.aElem n.val)
        ∧ (∀ e, e < 4096 → { k with cist := { k.cist with data := d } }.cElem b.val e
            = acpyValue add i32 (k.cElem b.val e) (k.aElem n.val e))
        ∧ (∀ y, (y < 16384 * b.val ∨ 16384 * (b.val + 1) ≤ y) → d.get (pathOf .m) y = k.cist.data.get (pathOf .m) y)
        ∧ (∀ o, o < 137 → o ≠ pathOf .m → ∀ y, d.get o y = k.cist.data.get o y))
      ∧ (into = false → ∃ t u fl, exec i s = .next t ∧ s.Done t .m { k with
          urs := u
          mx := { k.mx with valid := k.mx.valid ||| 1#8 <<< n.val, dirty := k.mx.dirty ||| 1#8 <<< n.val }
          csr := { k.csr with mflg := k.csr.mflg ||| fl } }
        ∧ fl = flags (k.aElem n.val) (k.cElem b.val)
        ∧ (∀ e, e < 4096 → { k with urs := u }.aElem n.val e = acpyValue add i32 (k.aElem n.val e) (k.cElem b.val e))
        ∧ k.OnlyAreg { k with urs := u } n.val
        ∧ (∀ o, o < 137 → o ≠ pathOf .m → ∀ y, u.get o y = k.urs.get o y)))
    ∧ (k.bankOf k.cellId h = none → into = false → ∃ t u fl, exec i s = .next t ∧ s.Done t .m { k.setUnb with
          urs := u
          mx := { k.mx with valid := k.mx.valid ||| 1#8 <<< n.val, dirty := k.mx.dirty ||| 1#8 <<< n.val }
          csr := { k.csr with mflg := k.csr.mflg ||| fl } }
        ∧ fl = flags (k.aElem n.val) (fun _ => 0)
        ∧ (∀ e, e < 4096 → { k with urs := u }.aElem n.val e = acpyValue add i32 (k.aElem n.val e) 0)
        ∧ k.OnlyAreg { k with urs := u } n.val ∧ (∀ o, o < 137 → o ≠ pathOf .m → ∀ y, u.get o y = k.urs.get o y))
    ∧ (k.bankOf k.cellId h = none → into = true → k.handleOwned k.cellId h = false → k.cist.free ≠ [] →
        ∃ t, ∃ b ∈ k.cist.free, exec i s = .next t ∧ s.OnlyCore t ∧ t.core.bankOf k.cellId h = some b ∧ b ∉ t.core.cist.free
          ∧ (∀ e, e < 4096 → t.core.cElem b.val e = acpyValue add i32 0 (k.aElem n.val e))
          ∧ t.core.regs = k.regs ∧ t.core.urs = k.urs ∧ (add = true → k.cell ≠ none → t.core.cist.unb = true)
          ∧ t.core.csr = { k.csr with mflg := k.csr.mflg ||| flags (fun _ => 0) (k.aElem n.val) })
    ∧ (¬ named → k.canTrap → k.bankOf k.cellId h = none → into = true → k.cist.own = [] → k.cist.free = [] →
        ∃ t, exec i s = .next t ∧ s.TrapsAt t .m 0x0C (BitVec.ofNat 64 h.val))
    ∧ (∀ b, k.bankOf k.cellId h = some b → k.bankOwned b = true →
        ∃ t, exec i s = .next t ∧ s.Left t .m (k.stallOn .m (.bands true b.val)))

/-- R257, R262, R266: MGO takes the shadow bank and MGO.KEEP the active one; a valid bank's nest starts, after a held target is
written back, at position 0 with NSTEP 0, the banks exchanged by MGO; an invalid bank traps illegal instruction, as it does for
MMA, and nothing is exchanged. -/
def Obligations.NestStarts : Prop :=
  ∀ (s : State) (swap : Bool),
    let i : Instr := if swap then .mgo else .mgoKeep
    let bank := if swap then s.core.mx.shadow else s.core.mx.active
    let illegal (j : Instr) : Prop := ∃ t, exec j s = .next t ∧ s.OnlyCore t
      ∧ s.core.Trapped t.core .m 0x01 (s.issue.cont ++ s.issue.word) (tlineOf s.core.em .m s.issue.lane) (s.core.em.past s.issue)
    (s.core.mx.held = none → s.core.writeBack s.tick s.nextId = .done s.core)
    ∧ (bankOk bank = true → ∀ k, s.core.writeBack s.tick s.nextId = .done k →
      ∃ t x y, exec i s = .next t ∧ s.Left t .m ({ k with mx := { k.mx with
          active := bank, shadow := if swap then k.mx.active else k.mx.shadow, pos := Vector.replicate 6 0, nstep := 0
          run := .nest false .start x y 0 s.issue } }.modCtx .m (fun c => { c with wait := none }))
        ∧ (s.issue.mask = none → x = BitVec.allOnes 64 ∧ y = BitVec.allOnes 64))
    ∧ (bankOk bank = false → s.core.canTrap → illegal i)
    ∧ (bankOk s.core.mx.active = false → s.core.canTrap → illegal .mma ∧ illegal .mmaRst)

/-- R63, R157, R251, R258, R259, R266, R267: a step of the nest in progress, MMA's step at the current position and MMA.RST's at
position 0; each leaves the sums of the step held, or in its target's elements and nowhere else. While a tile that it names is not
READY the step waits and nothing changes; while another target is held that target is written back first. That a step which writes
back no active element binds no bank, and that the position is 0 after the nest, are the model's choices (log 52). -/
def Obligations.MatrixSteps : Prop :=
  ∀ (s : State), s.allSound →
    -- of a step to be made by `i` from `k`: `go k1` when it can be made from `k1`
    let steps (i : Instr) (k : Core) (go : Core → Prop) : Prop :=
      (k.stepReady → go k)
      ∧ (∀ h k1, k.mx.held = some h → h.tgt ≠ targetAt k.mx.active (sigC k.mx.active k.mx.pos) →
          (∀ e ∈ stepTiles k.mx.active k.mx.pos, (k.tile e).state = .ready) → k.writeBack s.tick s.nextId = .done k1 →
          k.WroteBack k1 h ∧ (k1.writable (targetAt k.mx.active (sigC k.mx.active k.mx.pos)) → go k1))
      ∧ ((∃ e ∈ stepTiles k.mx.active k.mx.pos, (k.tile e).state ≠ .ready) →
          ∃ t, exec i s = .next t ∧ s.Waits t .m (.tiles (stepTiles k.mx.active k.mx.pos)))
    let single (i : Instr) (k : Core) : Prop := steps i k (fun k1 => ∃ t x y, exec i s = .next t ∧ s.OnlyCore t
      ∧ k1.Stepped t.core true x y 0 s.issue ∧ (s.issue.mask = none → x = BitVec.allOnes 64 ∧ y = BitVec.allOnes 64))
    (∀ h, s.core.mx.held = some h → s.core.writable h.tgt → ∃ k1, s.core.writeBack s.tick s.nextId = .done k1)
    ∧ (∀ mma x y fl i, s.core.mx.run = .nest mma .start x y fl i →
      steps .mStep s.core (fun k1 => ∃ t, exec .mStep s = .next t ∧ s.OnlyCore t ∧ k1.Stepped t.core mma x y fl i))
    ∧ (bankOk s.core.mx.active = true → single .mma s.core
      ∧ single .mmaRst { s.core with mx := { s.core.mx with pos := Vector.replicate 6 0, nstep := 0 } })

/-- R92, R93, R250, R258, R259: the sums of a step. Of an integer one: each element within the limits and active under the mask gains
the exact sum of products group by group, each group added with saturation. Of a floating one: such an element gains GroupSum by
GroupSum the products of its elements, each under the E8M0 scale of its block of 32 where its side is scaled; the flags are those of
these elements. Every other element keeps its value. -/
def Obligations.IntegerProducts : Prop :=
  (∀ (k : Core) (b : Bank) (h0 : Held) (tgt : MTarget) (x y : BitVec 64), k.mx.held = some h0 → h0.tgt = tgt →
    h0.acc.length = 4096 → Bank.isInt b = false → typeWidth (Bank.atype b) = typeWidth (Bank.btype b) →
    typeWidth (Bank.atype b) ∈ [4, 8, 16] →
    let pos := k.mx.pos
    let w := typeWidth (Bank.atype b)
    let klim := limitK b (roleAt b pos 3 true)
    -- the scale of element q of a row: the byte of its block, counted along element offsets, in the well (R250)
    let scale (on : Bool) (base : Nat) (sum pitch : Int) (row q : Nat) : Nat :=
      if on then (k.well.get (pathOf .m) (((base : Int) + ((sum + row * pitch) * 8 / w + q) / 32) % 2 ^ 23).toNat).toNat else 127
    let by_ (sc : Nat) (v : Fp) : Fp := if sc = 255 then .nan false else fpScale v ((sc : Int) - 127)
    let va (m q : Nat) : Fp := by_ (scale (Bank.sca b) (Bank.fld b 7 0 23) (sigA b pos) (Bank.s32 b 3) m q)
      (decode (typeFmt (Bank.atype b)) (elemA k b pos m q))
    let vb (n q : Nat) : Fp := by_ (scale (Bank.scb b) (Bank.fld b 8 0 23) (sigB b pos) (if Bank.bsrc b then Bank.s32 b 5 else 192) n q)
      (decode (typeFmt (Bank.btype b)) (elemB k b (sigB b pos) (if Bank.btile b then some (tileB b pos) else none) n q))
    let on (m n : Nat) : Bool := decide (m < limitM b (roleAt b pos 1 true)) && decide (n < limitN b (roleAt b pos 2 true))
      && x.getLsbD m && y.getLsbD n
    let sums (m n : Nat) : Nat × Flags := (List.range 12).foldl (fun st g =>
      let ks := (List.range klim).filter (fun q => q / (128 / w) = g)
      if ks = [] then st else
      let r := groupSum st.1 (ks.map (fun q => fpMul (va m q) (vb n q)))
      (r.1, st.2 ||| r.2)) ((h0.acc.getD (64 * m + n) 0).toNat, 0)
    klim ≤ 1536 / w →
    (∀ m n, m < 64 → n < 64 → (k.stepArith b tgt x y).1.acc.getD (64 * m + n) 0
      = if on m n then BitVec.ofNat 32 (sums m n).1 else h0.acc.getD (64 * m + n) 0)
    ∧ (k.stepArith b tgt x y).2
      = (List.range 4096).foldl (fun f e => if on (e / 64) (e % 64) then f ||| (sums (e / 64) (e % 64)).2 else f) 0)
  ∧ ∀ (k : Core) (b : Bank) (h0 : Held) (tgt : MTarget) (x y : BitVec 64), k.mx.held = some h0 → h0.tgt = tgt →
    h0.acc.length = 4096 → Bank.atype b = Bank.btype b → (Bank.atype b = 0 ∨ Bank.atype b = 7) →
    let pos := k.mx.pos
    let w := typeWidth (Bank.atype b)
    let klim := limitK b (roleAt b pos 3 true)
    let va (m q : Nat) : Int := signed w (elemA k b pos m q)
    let vb (n q : Nat) : Int := signed w (elemB k b (sigB b pos) (if Bank.btile b then some (tileB b pos) else none) n q)
    klim ≤ 1536 / w →
    ∀ m n, m < 64 → n < 64 →
      ((k.stepArith b tgt x y).1.acc.getD (64 * m + n) 0).toInt =
        if m < limitM b (roleAt b pos 1 true) ∧ n < limitN b (roleAt b pos 2 true) ∧ x.getLsbD m = true ∧ y.getLsbD n = true then
          (List.range 12).foldl (fun acc g => sat32 (acc
            + (((List.range klim).filter (fun q => q / (128 / w) = g)).map (fun q => va m q * vb n q)).sum)) (h0.acc.getD (64 * m + n) 0).toInt
        else (h0.acc.getD (64 * m + n) 0).toInt

/-- R277, R278, R280, R282-R285: MALIAS settles the sum of the roots of the norm products and a status, 2 when a root is NaN or
infinite (with IV), else 1 when the sum is zero, else 0 with the table; then it writes the table, for path M alone, 64-byte chunk by
chunk, and at the end the two registers and the flags: that all norms are read in its first step, and one aligned chunk is written in
each further one, is the model's choice (log 90). MSAMP clears its counters and starts with zero sums, or with exit 4 or 3 by
the table's status writes zeros to its target. A group draws one step's depth, from SCTR on, and adds its products to the held sums;
then N and the variance are known; MSAMP goes on, or with exit 1 (SMIN draws and a small variance) or 2 (SMAX draws) writes back the
sums divided by the number of draws. A target held before is written back first (R259). Ill-formed registers trap illegal instruction. -/
def Obligations.Sampling : Prop :=
  ∀ (s : State), s.allSound →
    let k := s.core
    let c : Sregs := k.samp
    let b : Bank := k.mx.active
    let illegal (j : Instr) : Prop := ∃ t, exec j s = .next t ∧ s.OnlyCore t
      ∧ k.Trapped t.core .m 0x01 (s.issue.cont ++ s.issue.word) (tlineOf k.em .m s.issue.lane) (k.em.past s.issue)
    let back (k1 : Core) : Prop := k.writeBack s.tick s.nextId = .done k1
    let go (x : MState) : Core := { k with mx := x }.modCtx .m (fun x => { x with wait := none })
    let left (k1 : Core) (i : Issue) : Core := k1.modCtx .m (fun x => (x.past i).owe i.place i.pushes)
    let kk := (vget c 1 0).toNat
    let a2 := (vget c 2 0).toNat % 2 ^ 23 / 4 * 4
    let a3 := (vget c 3 0).toNat % 2 ^ 23 / 4 * 4
    let word (a : Nat) : Nat := leNat ((List.range 4).map (fun j => k.well.get (pathOf .m) ((a + j) % 2 ^ 23)))
    let roots := (List.range kk).map (fun j => normRoot (word (a2 + 4 * j)) (word (a3 + 4 * j)))
    let z := roots.foldl (fun z x => (convFp .f64 (fpAdd (decode .f64 z) (decode .f32 x) .rne).1 .rne 0).1) 0
    let st : Nat := if roots.any (fun x => (decode .f32 x).isNan || (decode .f32 x).isInf) then 2
      else if (decode .f64 z).isZero then 1 else 0
    let zero : Held := {
      tgt := targetAt b 0, acc := List.replicate 4096 0, mlim := limitM b true, nlim := limitN b true
      actM := BitVec.allOnes 64, actN := BitVec.allOnes 64 }
    (k.mx.run = .idle → aliasOk c = true → ∃ t, exec .malias s = .next t ∧ s.Left t .m (go { k.mx with
        run := .table ((vget c 4 0).toNat % 2 ^ 23 / 8 * 8) (if st = 0 then (aliasTable z roots).1 else []) (BitVec.ofNat 64 z)
          (BitVec.ofNat 64 st) (if st = 0 then (aliasTable z roots).2 else if st = 2 then 1 else 0) none s.issue }))
    ∧ (∀ a w ws sz ss fl i, k.mx.run = .table a (w :: ws) sz ss fl none i →
      let n := 8 - a % 64 / 8
      ∃ t v, exec .malias s = .next t ∧ s.Left t .m { k with
          well := v, mx := { k.mx with run := .table (a + 8 * n) ((w :: ws).drop n) sz ss fl none i } }
        ∧ (∀ j q, j < n → j < (w :: ws).length → q < 8 →
            v.get (pathOf .m) ((a + 8 * j + q) % 2 ^ 23) = BitVec.ofNat 8 ((w :: ws).getD j 0 / 2 ^ (8 * q)))
        ∧ (∀ y, (∀ j, j < 8 * min n (w :: ws).length → y ≠ (a + j) % 2 ^ 23) →
            v.get (pathOf .m) y = k.well.get (pathOf .m) y)
        ∧ ∀ o, o < 137 → o ≠ pathOf .m → ∀ y, v.get o y = k.well.get o y)
    ∧ (∀ a sz ss fl i, k.mx.run = .table a [] sz ss fl none i → ∃ t, exec .malias s = .next t
      ∧ s.Left t .m (left { k with
        samp := vset (vset c 0x10 sz) 0x11 ss, csr := { k.csr with mflg := k.csr.mflg ||| fl }
        mx := { k.mx with run := .idle } } i))
    ∧ (k.mx.run = .idle → aliasOk c = false → k.canTrap → illegal .malias)
    ∧ (sampOk c b = false → k.canTrap → illegal .msamp)
    ∧ (k.mx.held = none → back k) ∧ (∀ h, k.mx.held = some h → k.writable h.tgt → ∃ k1, back k1)
    ∧ (∀ h k1, k.mx.held = some h → back k1 → k.WroteBack k1 h)
    ∧ (sampOk c b = true → ∀ k1, back k1 → (vget c 0x11 0).toNat % 4 = 0 →
        ∃ t, exec .msamp s = .next t
          ∧ s.Left t .m { { k1 with mx := { k1.mx with held := some zero, run := .samp c false 0 s.issue } }.modCtx .m
              (fun x => { x with wait := none }) with samp := vset (vset c 0x15 0) 0x12 0 })
    ∧ (sampOk c b = true → ∀ k1, back k1 → (vget c 0x11 0).toNat % 4 ≠ 0 → k1.writable zero.tgt →
        ∃ t u x ci, exec .msamp s = .next t ∧ s.Done t .m { k1 with
            urs := u, mx := x, cist := ci
            samp := vset (vset (vset c 0x15 0) 0x12 0) 0x15 (if (vget c 0x11 0).getLsbD 1 then 4 else 3) }
          ∧ x.run = .idle ∧ x.pos = k.mx.pos ∧ x.nstep = k.mx.nstep ∧ k1.WroteBack { k1 with urs := u, mx := x, cist := ci } zero)
    ∧ (∀ c0 fl i h, k.mx.run = .samp c0 false fl i → k.mx.held = some h →
        let g := 1536 / typeWidth (Bank.atype b)
        let cnt0 := (vget c 0x12 0).toNat
        let cnt := cnt0 + g
        let r := k.draws c0 (s.nextId + 4096) cnt0 g 0
        let sums := sampSums r.1 b r.2 h
        let h1 : Held := { h with acc := sums.1 }
        let var := sampVar (vget c0 0x10 0).toNat cnt (norm2 h1)
        let stop : Bool := decide ((vget c0 0xA 0).toNat ≤ cnt) && varStop var (vget c0 0xC 0).toNat
        let regs (c1 : Sregs) : Prop := vget c1 6 0 = vget c 6 0 + BitVec.ofNat 64 g ∧ vget c1 0x12 0 = BitVec.ofNat 64 cnt
          ∧ vget c1 0x13 0 = BitVec.ofNat 64 var ∧ vget c1 0x14 0 = BitVec.ofNat 64 (norm2 h1)
          ∧ ∀ j, j ≠ 6 → j ≠ 0x12 → j ≠ 0x13 → j ≠ 0x14 → j ≠ 0x15 → vget c1 j 0 = vget c j 0
        let drawn (w : VMem) : Prop := ((vget c0 0 0).getLsbD 1 = false → w = k.well)
          ∧ ((vget c0 0 0).getLsbD 1 = true → ∀ d j, d < g → j < 4 →
            w.get (pathOf .m) (((vget c0 9 0).toNat % 2 ^ 23 / 4 * 4 + 4 * (cnt0 + d) + j) % 2 ^ 23)
              = BitVec.ofNat 8 ((r.2.getD d (0, 0)).1 / 2 ^ (8 * j)))
          ∧ (∀ y, (∀ d j, d < g → j < 4 → y ≠ ((vget c0 9 0).toNat % 2 ^ 23 / 4 * 4 + 4 * (cnt0 + d) + j) % 2 ^ 23) →
            w.get (pathOf .m) y = k.well.get (pathOf .m) y)
          ∧ ∀ o, o < 137 → o ≠ pathOf .m → ∀ y, w.get o y = k.well.get o y
        (stop = false → cnt < (vget c0 0xB 0).toNat →
          ∃ t c1 w, exec .msampGroup s = .next t ∧ s.Left t .m { k with
              samp := c1, well := w, mx := { k.mx with held := some h1, run := .samp c0 false (fl ||| sums.2) i } }
            ∧ regs c1 ∧ vget c1 0x15 0 = vget c 0x15 0 ∧ drawn w)
        ∧ (stop = true ∨ (vget c0 0xB 0).toNat ≤ cnt → k.writable h.tgt →
          let mean := sampMean h1 cnt
          (∀ e, e < 4096 → e / 64 < h.mlim → e % 64 < h.nlim → mean.1.getD e 0
            = BitVec.ofNat 32 (fin1 .f32 (fpDiv (decode .f32 (h1.acc.getD e 0).toNat) (fpOfInt cnt)) .rne 0).1)
          ∧ ∃ t c1 w u x ci, exec .msampGroup s = .next t
            ∧ s.Left t .m (left { k with
                samp := c1, well := w, urs := u, mx := x, cist := ci
                csr := { k.csr with mflg := k.csr.mflg ||| (fl ||| sums.2 ||| mean.2) } } i)
            ∧ regs c1 ∧ vget c1 0x15 0 = (if stop then 1 else 2) ∧ drawn w
            ∧ x.run = .idle ∧ x.pos = k.mx.pos ∧ x.nstep = k.mx.nstep
            ∧ k.WroteBack { k with urs := u, mx := x, cist := ci } { h1 with acc := mean.1 }))

/-- R40, R290, R292, R293: a call pushes the routine's outcome to A, V and M, keeps C's place on its return stack and moves C to the
routine's line, or waits for room; the norm of b has been computed before the first call, also where that call waits. The norm test computes the two norms, η and its class; with
none it goes on with SOLVE; an escalation goes on with the next rung's FACTOR; any other exit writes the block's result fields for
path M and releases all four engines, as soon as each outcome queue has room, to the line after REFINE (text overrun when that is
4,096) or to the branch register's line, or takes the refinement trap exit after REFINE's lane. That a transfer pending in REFINE's line
is dropped (log 95), that a NaN under a norm sets no flag (log 78), and what TINFO and TLINE hold at line 4,096 (log 17), are the
model's choices. -/
def Obligations.RefineSequence : Prop :=
  ∀ (s : State), s.sound →
    let k := s.core
    let r := k.ref
    let room : Prop := ∀ e, e ≠ .c → (k.ctx e).outq.length < k.slipw
    let moved (ref : Refine) (o : Outc) (c : EngineCtx) : Core := { k with
      ref := ref, ec := c, ea := { k.ea with outq := k.ea.outq ++ [o] }, ev := { k.ev with outq := k.ev.outq ++ [o] }
      em := { k.em with outq := k.em.outq ++ [o] } }
    let r0 := if r.normed then r else { r with bn := BitVec.ofNat 64 (k.largest r.boff.toNat r.n), normed := true }
    let calls (rt : Routine) (l : Line) : Prop :=
      (room → ∃ t, exec .refineCall s = .next t ∧ s.Left t .c { k with
          ref := { r0 with routine := rt, pc := .inRoutine }
          ec := { k.ec with
            line := l, lane := 0, wait := none, pend := none, inDelay := false, seqNext := none, rfret := false
            stack := .ctrl k.ec.line k.ec.lane :: k.ec.stack }
          ea := { k.ea with outq := k.ea.outq ++ [.routine l], rfret := false }
          ev := { k.ev with outq := k.ev.outq ++ [.routine l], rfret := false }
          em := { k.em with outq := k.em.outq ++ [.routine l], rfret := false } })
      ∧ (¬ room → ∃ t, exec .refineCall s = .next t ∧ s.Left t .c ({ k with ref := r0 }.stallOn .c (.outFull [.a, .v, .m])))
    let e := etaRule r (k.largest r.roff.toNat r.n) (k.largest r.xoff.toNat r.n)
    let cls := exitClass r e.1
    let act := actionOf r.act cls
    let csr := { k.csr with mflg := k.csr.mflg ||| e.2 }
    let at_ (j : Nat) : Nat := (r.off.toNat + 0x40 + j) % 2 ^ 23
    let wrote (w : VMem) : Prop :=
      (List.range 24).map (fun j => w.get (pathOf .m) (at_ j)) = leBytes 4 r.k.toNat
          ++ [BitVec.ofNat 8 cls, BitVec.ofNat 8 r.rung, BitVec.ofNat 8 r.nesc, 0] ++ leBytes 8 e.1.toNat ++ leBytes 8 r.bn.toNat
      ∧ (∀ o, o < 137 → o ≠ pathOf .m → ∀ y, w.get o y = k.well.get o y)
      ∧ (∀ y, (∀ j, j < 24 → y ≠ at_ j) → w.get (pathOf .m) y = k.well.get (pathOf .m) y)
    let leaves (ex : Nat) (eta : W) (w : VMem) (c : Csr) : Prop :=
      let a := actionOf r.act ex
      let goal : LineIx := if a.1 = 1 then (vget k.regs.b a.2 0).setWidth 13 else r.issue.line.setWidth 13 + 1
      let done := { r with eta := eta, exit := ex, pc := .idle }
      let c1 : EngineCtx := { k.ec with line := BitVec.ofNat 12 goal.toNat, lane := 0, pend := none, inDelay := false, seqNext := none }
      (a.1 ≠ 3 → goal.toNat < 4096 → ∃ t, exec .refineNormTest s = .next t
        ∧ s.Left t .c { moved done (.release goal) ({ c1 with wait := none }.owe r.issue.place r.issue.pushes) with well := w, csr := c })
      ∧ (a.1 ≠ 3 → 4096 ≤ goal.toNat → k.canTrap → ∃ t, exec .refineNormTest s = .next t ∧ s.OnlyCore t
        ∧ Core.Trapped { moved done (.release goal) k.ec with well := w, csr := c } t.core .c 0x03 (BitVec.ofNat 64 goal.toNat)
            (tlineOf c1 .c 0) ({ c1 with wait := none }.owe r.issue.place r.issue.pushes))
      ∧ (a.1 = 3 → k.canTrap → ∃ t, exec .refineNormTest s = .next t ∧ s.OnlyCore t
        ∧ Core.Trapped { moved done (.release goal) k.ec with well := w, csr := c } t.core .c 0x10 (BitVec.ofNat 64 ex)
            (tlineOf k.ec .c r.issue.lane) ((k.ec.past r.issue).owe r.issue.place r.issue.pushes))
    (r.pc = .callFactor → calls .factor r.factor)
    ∧ (r.pc = .callResid → calls .resid r.resid)
    ∧ (r.pc = .callSolve → calls .solve r.solve)
    ∧ (r.pc = .test → cls = 0 → ∃ t, exec .refineNormTest s = .next t ∧ s.Left t .c { k with
        csr := csr, ref := { r with eta := e.1, hist := e.1 :: r.hist, pc := .callSolve } })
    ∧ (r.pc = .test → cls ≠ 0 → act.1 = 2 → r.rung < r.rung1 → ∃ t, exec .refineNormTest s = .next t ∧ s.Left t .c { k with
        csr := csr
        ref := { r with eta := e.1, rung := r.rung + 1, nesc := r.nesc + 1, hist := [], esc := true, pc := .callFactor } })
    ∧ (r.pc = .test → cls ≠ 0 → (act.1 = 2 → r.rung1 ≤ r.rung) → ∃ w, wrote w
        ∧ (room → leaves cls e.1 w csr)
        ∧ (¬ room → ∃ t, exec .refineNormTest s = .next t ∧ s.Left t .c { k with
            well := w, csr := csr, ref := { r with eta := e.1, exit := cls, pc := .release }
            ec := { k.ec with wait := some (.outFull [.a, .v, .m]) } }))
    ∧ (r.pc = .release → (room → leaves r.exit r.eta k.well k.csr)
        ∧ (¬ room → ∃ t, exec .refineNormTest s = .next t ∧ s.Waits t .c (.outFull [.a, .v, .m])))

/-- R73, R74: the stall counter grows by the aclk in which every engine is stalled or ended, is held at zero while an engine can
go on, a stream works or an engine waits at BWT, and at 2^24 the cell takes the trap stall watchdog: TINFO names the engines
stalled and TLINE the first of them, with the line and lane of the instruction it is stalled on: the one whose token pushes are due, or
the next of its own past prefixes. It stands still while the handler runs. -/
def Obligations.StallCounter : Prop :=
  ∀ (s : State) (n : Nat),
    let k := s.core
    let stuck (e : Engine) : Bool := k.blocked s e
    let bit (e : Engine) : Nat := if stuck e then 1 else 0
    k.cell ≠ none → k.halted = none →
    (k.handler ≠ none → ∃ t, exec (.stallWatchdog n) s = .next t ∧ s.Left t .c k)
    ∧ (k.handler = none → k.ref.pc ≠ .test →
      ((∃ j, j < 4 ∧ (k.stream j).state ≠ .idle) ∨ (∃ e p x, (k.ctx e).wait = some (.bwt p x))
          ∨ (∃ e, (k.ctx e).ended = false ∧ stuck e = false) →
        ∃ t, exec (.stallWatchdog n) s = .next t ∧ s.Left t .c { k with stall := 0 })
      ∧ ((∀ j, j < 4 → (k.stream j).state = .idle) → (∀ e p x, (k.ctx e).wait ≠ some (.bwt p x)) →
          (∀ e, (k.ctx e).ended = true ∨ stuck e = true) →
        (k.stall + n < 2 ^ 24 → ∃ t, exec (.stallWatchdog n) s = .next t ∧ s.Left t .c { k with stall := k.stall + n })
        ∧ (2 ^ 24 ≤ k.stall + n → k.canTrap → ∀ e, [Engine.c, .a, .v, .m].find? stuck = some e →
          let x := k.ctx e
          let own (j : Nat) : Prop := tagAt (k.lane x.line.toNat 0) j = (engNum e).toNat ∧ isPfx (k.lane x.line.toNat j) = false
          ∃ t l lane, exec (.stallWatchdog n) s = .next t ∧ s.OnlyCore t
            ∧ Core.Trapped { k with stall := 0 } t.core e 0x09
                (BitVec.ofNat 64 (8 * bit .c + 4 * bit .a + 2 * bit .v + bit .m)) (tlineOf { x with line := l } e lane) { x with wait := none }
            ∧ (∀ p, x.pushes.find? (fun p => p.1.2 != 0) = some p → p.1 = (l, lane))
            ∧ (x.pushes.find? (fun p => p.1.2 != 0) = none → l = x.line ∧ (x.lane = 0 → lane = 0)
              ∧ ∀ j, 1 ≤ x.lane → x.lane ≤ j → j ≤ 7 → own j → (∀ q, x.lane ≤ q → q < j → ¬ own q) → lane = j))))

/-! ### Cells and the scheduler -/

/-- R32-R34, R369: when the core's earlier cell has retired, the next cell of its plan (a LAUNCH) starts: engines at ENTRY, queues
empty, the g-registers of R34 (argument offset, linear index and the index of each loop level, the highest-numbered level of a kind
fastest, from the superstep, and from the wave and the core's place in the partition) and every other scalar and control register zero but for SEMOVF and UNB held since, no
accumulator valid, the URS, banks, well, tiles and streams as they were; the plan of that core moves on, and no other core
changes. -/
def Obligations.CellStarts : Prop :=
  ∀ (s : State) (p : Nat) (q : BitVec 10) (ss : SStep) (w : Work) (wave lin : Nat) (rest : List (Nat × Nat)) (c : Fin 128),
    c = s.turn.core → partOf s c = some p → (s.part p).run = some (q, ss) → (s.queue q).work = some w → ss.started = true →
    ss.plan.find? (fun e => e.core == c) = some { core := c, waves := (wave, lin) :: rest } → s.core.cell = none →
    (∀ k, (s.queue q).pkt = some k → k.typ ≠ 2) →
    let k := s.core
    let dies := (s.part p).dies
    let ctx0 : EngineCtx := { line := w.kern.entry }
    ∃ t, exec .cellStart s = .next t ∧ (∀ x, x ≠ c → t.coreAt x = s.coreAt x) ∧ t.hbm = s.hbm ∧ t.host = s.host
      ∧ (t.part p).run = some (q, ss.advance (fun x => x == c)) ∧ t.queues = s.queues
      ∧ (∃ cl, t.core.cell = some cl ∧ cl.linear = lin ∧ cl.wave = wave ∧ cl.sstep = ss.index ∧ cl.queue = q ∧ cl.kern = w.kern
          ∧ cl.ctx = (s.queue q).ctx.setWidth 12
          ∧ (∀ j, j < 6 → vget t.core.regs.g (58 + j) 0 = BitVec.ofNat 64 (cl.idx.getD j 0))
          ∧ ∀ pdie pos, placeOf dies c = some (pdie, pos) → ∀ j, j < 6 → cl.idx.getD j 0
            = levelIndex w.kern.levels j ss.index (wave % ((w.kern.cn + 15) / 16) * 16 + pos)
                (wave / ((w.kern.cn + 15) / 16) * dies.length + pdie))
      ∧ vget t.core.regs.g 56 0 = BitVec.ofNat 64 w.kern.argoff ∧ vget t.core.regs.g 57 0 = BitVec.ofNat 64 lin
      ∧ (∀ j, j < 56 → vget t.core.regs.g j 0 = 0) ∧ t.core.regs.k = Vector.replicate 32 0
      ∧ t.core.regs.s = Vector.replicate 32 0 ∧ t.core.regs.n = Vector.replicate 16 0 ∧ t.core.regs.b = Vector.replicate 8 0
      ∧ t.core.ec = ctx0 ∧ t.core.ea = ctx0 ∧ t.core.ev = ctx0 ∧ t.core.em = ctx0
      ∧ t.core.tok = Vector.replicate 16 0 ∧ t.core.vals = Vector.replicate 16 []
      ∧ t.core.csr = { xflg := if k.heldOvf then 4 else 0 } ∧ t.core.cist = { k.cist with unb := k.heldUnb }
      ∧ t.core.mx.valid = 0 ∧ t.core.mx.dirty = 0 ∧ t.core.mx.held = none ∧ t.core.ref = {} ∧ t.core.handler = none
      ∧ t.core.urs = k.urs ∧ t.core.well = k.well ∧ t.core.tiles = k.tiles ∧ t.core.streams = k.streams

/-- R36, R341, R342, R344-R346: when every cell of the superstep has retired and its chains have completed, its queue pays ⌈t / 1 µs⌉
times its stride and the partition is free: the kernel's next superstep is due; or after its last the next operator of the chain, whose
record sets the shadow bank of every core of the partition, exchanges the banks and writes its argument block, if it names one; or
after the last operator the packet completes with the kernel off its cores, its status is in its status word and its signal in its
signal word, written or added. A record or argument block that cannot be used completes the packet with its status. That the record
acts on every core of the partition is log 29, that a front end's write is performed everywhere at once log 8. -/
def Obligations.SuperstepEnds : Prop :=
  ∀ (s : State) (p : BitVec 3) (q : BitVec 10) (ss : SStep) (w : Work), (s.part p.toNat).run = some (q, ss) →
    superstepDone s ss = true → (s.queue q).work = some w →
    let x := s.queue q
    let ctx : BitVec 12 := x.ctx.setWidth 12
    let paid : W := x.pass + BitVec.ofNat 64 (2 ^ 20 / x.tickets.toNat * max 1 ((s.now - (s.part p.toNat).chargeFrom + 999) / 1000))
    -- the packet completes with a status
    let completes (t : State) (pk : Packet) (st : Nat) : Prop :=
      let s1 := s.statusWrite ctx pk.statva st
      let s2 := s1.releaseCores (x.ran ++ (s.part x.part.toNat).dies)
      let add := pk.flags.getLsbD 1
      (t.part p.toNat).run = none ∧ (t.part p.toNat).resident = none
        ∧ (t.queue q).work = none ∧ (t.queue q).pkt = none ∧ (t.queue q).pass = paid ∧ (∀ r, r ≠ q → t.queue r = s.queue r)
        ∧ (∀ e ∈ ss.plan, (t.coreAt e.core).kern = none) ∧ (∀ c, (t.coreAt c).regs = (s.coreAt c).regs)
        ∧ (pk.flags.getLsbD 0 = true → x.vec.toNat ∈ t.irqs)
        ∧ (pk.statva = 0 → pk.sigva = 0 → t.hbm = s.hbm)
        ∧ (∀ pa pte, pk.statva ≠ 0 → pk.sigva = 0 → translate s ctx pk.statva .write = .ok (.hbm pa pte) → Pte.key pte = 0 →
            pa + 8 ≤ 2 ^ 52 → t.holdsAt (.hbm pa pte) (leBytes 8 st)
              ∧ ∀ o y, (y < pa ∨ pa + 8 ≤ y) → t.hbm.get o y = s.hbm.get o y)
        ∧ (∀ pa pte, pk.sigva ≠ 0 → translate s2 ctx pk.sigva (if add then .rmw else .write) = .ok (.hbm pa pte) → Pte.key pte = 0 →
            pa + 8 ≤ 2 ^ 52 → s.poisoned .hbm pa 8 = false →
            t.holdsAt (.hbm pa pte) (leBytes 8 (if add then
              (leNat ((List.range 8).map (fun j => s1.hbm.latest (pa + j))) + pk.sigv.toNat) % 2 ^ 64 else pk.sigv.toNat))
              ∧ ∀ y, (y < pa ∨ pa + 8 ≤ y) → t.hbm.latest y = s1.hbm.latest y)
    -- the argument block of a record
    let args (rec : OpRec) : Except Nat (Option (List Byte)) :=
      if rec.argva = 0 then .ok none else (feRead s ctx rec.argva w.kern.argsz).map some
    (w.sstep + 1 < w.kern.supersteps → ∃ t, exec (.superstepEnd p) s = .next t ∧ t.cores = s.cores ∧ t.hbm = s.hbm
      ∧ (t.part p.toNat).run = none ∧ (t.part p.toNat).resident = some q
      ∧ t.queue q = { x with pass := paid, work := some { w with sstep := w.sstep + 1 } } ∧ ∀ r, r ≠ q → t.queue r = s.queue r)
    ∧ (w.kern.supersteps ≤ w.sstep + 1 → ∀ pk, x.pkt = some pk →
      (w.nops ≤ w.op + 1 → ∃ t, exec (.superstepEnd p) s = .next t ∧ completes t pk 0)
      ∧ (w.op + 1 < w.nops →
        (∀ st, readOpRec s ctx pk.f28 (w.op + 1) = .error st → ∃ t, exec (.superstepEnd p) s = .next t ∧ completes t pk st)
        ∧ ∀ rec, readOpRec s ctx pk.f28 (w.op + 1) = .ok rec →
          (∀ st, args rec = .error st → ∃ t, exec (.superstepEnd p) s = .next t ∧ completes t pk st)
          ∧ ∀ bs, args rec = .ok bs → ∃ t, exec (.superstepEnd p) s = .next t ∧ t.hbm = s.hbm
            ∧ (t.part p.toNat).run = none ∧ (t.part p.toNat).resident = some q
            ∧ t.queue q = { x with pass := paid, work := some { w with op := w.op + 1, sstep := 0, oprec := rec } }
            ∧ (∀ r, r ≠ q → t.queue r = s.queue r)
            ∧ ∀ c, let k := s.coreAt c
              (c.val / 16 ∉ (s.part p.toNat).dies → t.coreAt c = k)
              ∧ (c.val / 16 ∈ (s.part p.toNat).dies → ∃ v, t.coreAt c = { k with
                  well := v, mx := { k.mx with active := cfgBank (mcfgBank w.kern) rec.cfg, shadow := k.mx.active } }
                ∧ (bs = none → v = k.well)
                ∧ ∀ a, bs = some a → ∀ o, (∀ j, j < a.length → j < 2 ^ 23 → some (v.get o ((w.kern.argoff + j) % 2 ^ 23)) = a[j]?)
                  ∧ ∀ y, (∀ j, j < a.length → y ≠ (w.kern.argoff + j) % 2 ^ 23) → v.get o y = k.well.get o y)))

/-- R346, R347: the scheduler starts, in a partition with nothing running, a superstep of a ready queue: of the urgent class while
its cap allows and it has one, of least PASS, the lowest queue number among equals; that the choice is among the queues READY to run
now, of those that R346 calls runnable, is the model's choice (log 84); nothing on any core changes when that queue's
kernel is on the cores or none is. -/
def Obligations.SchedulerChooses : Prop :=
  ∀ (s : State) (p : BitVec 3),
    (∀ q, chosenQueue s p.toNat = some q →
      let urgentOn : Bool := underCap s p.toNat && (allQueues.any (fun r => (s.queue r).ready p.toNat && (s.queue r).cls.getLsbD 0))
      (s.queue q).ready p.toNat = true ∧ (urgentOn = true → (s.queue q).cls.getLsbD 0 = true)
      ∧ ∀ r, (s.queue r).ready p.toNat = true → (urgentOn = true → (s.queue r).cls.getLsbD 0 = true) →
          (s.queue q).pass < (s.queue r).pass ∨ ((s.queue q).pass = (s.queue r).pass ∧ q ≤ r))
    ∧ (chosenQueue s p.toNat = none → (s.part p.toNat).run = none → exec (.schedulerChoice p) s = .next s)
    ∧ ∀ q w, (s.part p.toNat).run = none → chosenQueue s p.toNat = some q → (s.queue q).work = some w → w.saved = none →
        w.parked = [] → ((s.part p.toNat).resident = none ∨ (s.part p.toNat).resident = some q) →
        ∃ t, exec (.schedulerChoice p) s = .next t ∧ t.cores = s.cores ∧ t.queues = s.queues ∧ t.hbm = s.hbm
          ∧ (t.part p.toNat).resident = some q ∧ (t.part p.toNat).since = s.now ∧ (t.part p.toNat).sliceFrom = s.now
          ∧ ∃ ss, (t.part p.toNat).run = some (q, ss) ∧ ss.index = w.sstep ∧ ss.started = false ∧ ss.halted = false
              ∧ ss.plan = w.kern.plan (s.part p.toNat).dies w.sstep

/-- R195, R199, R332, R346, R347: at the end of its timeslice a superstep runs on for another when no other queue is runnable (what
that is follows log 37); otherwise it is saved: its queue pays, its cores hold no cell, no bound bank, no chain and no request at an
atomic engine, and the saved superstep waits in its queue with the images of the plan's cores in the plan's order (log 29). Before the end nothing happens. -/
def Obligations.TimesliceExpires : Prop :=
  ∀ (s : State) (p : BitVec 3) (q : BitVec 10) (ss : SStep) (w : Work), (s.part p.toNat).run = some (q, ss) →
    ss.started = true → ss.halted = false → (s.queue q).work = some w →
    let pt := s.part p.toNat
    let other : Prop := ∃ r, r ≠ q ∧ isRunnable s p.toNat r = true
    (s.now < pt.sliceFrom + pt.tslice * 1000 → exec (.timesliceExpiry p) s = .next s)
    ∧ (pt.sliceFrom + pt.tslice * 1000 ≤ s.now → ¬ other →
        exec (.timesliceExpiry p) s = .next (s.setPart p.toNat { pt with sliceFrom := s.now }))
    ∧ (pt.sliceFrom + pt.tslice * 1000 ≤ s.now → other →
      ∃ t, exec (.timesliceExpiry p) s = .next t ∧ (t.part p.toNat).run = none
        ∧ (∃ images ok, (t.queue q).work = some { w with saved := some (ss, images), saveOk := ok }
            ∧ images.map (·.1) = ss.plan.map (·.core))
        ∧ (t.queue q).pass = (s.queue q).pass
            + BitVec.ofNat 64 (2 ^ 20 / (s.queue q).tickets.toNat * max 1 ((s.now - pt.chargeFrom + 999) / 1000))
        ∧ (∀ e ∈ ss.plan, (t.coreAt e.core).cell = none ∧ (t.coreAt e.core).kern = none
            ∧ (t.coreAt e.core).streams = Vector.replicate 4 {} ∧ (t.coreAt e.core).cist.sets = []
            ∧ (t.coreAt e.core).cist.own = [])
        ∧ (∀ r ∈ t.atomics, ∀ e ∈ ss.plan, r.core ≠ e.core))

/-! ### Chains and data commands -/

/-- R160, R164, R165, R175-R177, R179: a queued chain starts at its head; LOOP opens a loop of n passes; ENDL goes back or
closes the loop; IFSEM skips n entries when the count is too low and WAITS goes on or waits, here with no write to the count
pending; JMP goes to its entry; END ends the
chain when every command has completed. A fifth LOOP and an ENDL with no loop suspend the stream as malformed. -/
def Obligations.ChainControl : Prop :=
  ∀ (s : State) (n sk off : W32) (ds dd dx : W) (a : Off),
    let t := s.str
    let run := { t with entry := entryIndex t }
    let count := leNat ((List.range 4).map (fun j => s.core.well.get pathP (a.toNat / 8 * 8 + j)))
    let settled : Prop := s.core.settledAt a
    (∀ c rest, t.state = .idle → t.queued = c :: rest → ∃ u, exec .chainStart s = .next u ∧ s.StreamIs u { t with
        state := .active, chain := some c, queued := rest, cur := c.khead, entry := 0, loops := [], early := []
        readIds := (t.readIds ++ c.inherit_).dedup })
    ∧ (t.state = .active → t.cmd = none →
      (n ≠ 0 → t.loops.length < 4 → ∃ u, exec (.loop n ds dd dx) s = .next u ∧ s.StreamIs u { run with
          cur := t.cur + 64, loops := { start := t.cur + 64, n := n, i := 0, ds := ds, dd := dd, dx := dx } :: t.loops })
      ∧ (4 ≤ t.loops.length → ∃ u, exec (.loop n ds dd dx) s = .next u ∧ s.Suspended u 6 0xFF 4 0 0)
      ∧ (n = 0 → t.loops.length < 4 → s.poisoned (.well s.turn.core) (t.cur + 64).toNat 64 = false →
          s.core.settledOn (t.cur + 64).toNat 64 → (entByte (s.core.entryAt (t.cur + 64)) 0).toNat = 0x21 →
          ∃ u, exec (.loop n ds dd dx) s = .next u ∧ s.StreamIs u { run with cur := t.cur + 128 })
      ∧ (∀ l rest, t.loops = l :: rest →
          (l.i + 1 < l.n → ∃ u, exec .endl s = .next u
            ∧ s.StreamIs u { run with cur := l.start, loops := { l with i := l.i + 1 } :: rest })
          ∧ (¬ l.i + 1 < l.n → ∃ u, exec .endl s = .next u ∧ s.StreamIs u { run with cur := t.cur + 64, loops := rest }))
      ∧ (t.loops = [] → ∃ u, exec .endl s = .next u ∧ s.Suspended u 6 0xFF 4 0 0)
      ∧ (settled → n.toNat ≤ count →
          (∃ u, exec (.ifsem a n sk) s = .next u ∧ s.StreamIs u { run with cur := t.cur + 64, early := [] })
          ∧ ∃ u, exec (.waits a n) s = .next u
            ∧ s.StreamIs u { run with cur := t.cur + 64, waits := none, waiting := false, early := [] })
      ∧ (settled → count < n.toNat →
          (∃ u, exec (.ifsem a n sk) s = .next u
            ∧ s.StreamIs u { run with cur := t.cur + BitVec.ofNat 23 (64 * (sk.toNat + 1)), early := [] })
          ∧ ∃ u, exec (.waits a n) s = .next u ∧ s.StreamIs u { run with waits := some (a, n), waiting := true })
      ∧ (∃ u, exec (.jmp off) s = .next u ∧ s.StreamIs u { run with cur := t.cur + BitVec.ofInt 23 (64 * off.toInt) })
      ∧ (t.completing = [] → ∃ u, exec .chainEnd s = .next u ∧ s.OnlyCore u
          ∧ u.core.stream s.turn.stream.val = { run with state := .idle, chain := none, loops := [] }
          ∧ (∀ m, m < 4 → m ≠ s.turn.stream.val → u.core.stream m = s.core.stream m)
          ∧ u.core.regs = s.core.regs ∧ u.core.tiles = s.core.tiles ∧ u.core.urs = s.core.urs)
      ∧ (t.completing ≠ [] → ∃ u, exec .chainEnd s = .next u ∧ s.Left u .a s.core))

/-- R165, R166, R175, R192, R193, R196: a data entry becomes the stream's command, at position 0 with the sums of the open loops'
deltas. One with no element has none to take tiles or bands for: it goes on at once to complete, and the chain to its next entry
(log 23). -/
def Obligations.DataEntriesBegin : Prop :=
  ∀ (s : State) (i : Instr), isDataEntry i = true → s.str.state = .active → s.str.cmd = none →
    let t := s.str
    ∃ c u, exec i s = .next u ∧ s.NewCmd i c ∧ ({ s with nextId := s.nextId + 1 } : State).StreamIs u
      (if entCount i = 0 ∧ isPref i = false then { t with
          entry := entryIndex t, pos := 0, waiting := false, cur := t.cur + 64, completing := t.completing ++ [c] }
        else { t with entry := entryIndex t, pos := 0, waiting := false, cmd := some c })

/-- R62, R64, R167, R170-R173, R180-R194: the home pump serves the next ready stream after the one it served last: one that runs a
data command and waits for no condition, no page walk and no atomic engine. With no write pending anywhere, a started command writes the
parts of its next element where they belong in the well, HBM and the cistern, then its NORM tap, and no other byte; P of the stream moves
past the element, the per-m posts then due are made, and a command whose last element is written goes on to complete. An ATOM or a SEMPR,
and an accumulate of RED to HBM, sends its request to the atomic engine of its location; FLIPV writes its region's register; PREF asks
for the walk of its next page. That a transfer unit is one element (log 21), and the order of the parts of one element where they share
a byte (log 116), and the sign of an exact zero sum (log 77) are the model's choices. -/
def Obligations.PumpMovesElements : Prop :=
  ∀ (s : State),
    let k := s.core
    let ready (n : Nat) : Prop := (k.stream n).state = .active ∧ (k.stream n).cmd ≠ none ∧ (k.stream n).waiting = false
      ∧ (k.stream n).walk = none ∧ (k.stream n).inAtomic = false
    ((∀ n, n < 4 → ¬ ready n) → ∃ t, exec .pumpTransferUnit s = .next t ∧ s.Left t .a k)
    ∧ ∀ (n d : Nat) (c : Cmd), d < 4 → n = (k.lastServed + 1 + d) % 4 → ready n → (∀ m, m < d → ¬ ready ((k.lastServed + 1 + m) % 4)) →
      (∀ p ∈ s.poison, p.1 ≠ .well s.turn.core ∧ p.1 ≠ .cist s.turn.core ∧ p.1 ≠ .hbm) → k.waiters = [] →
      s.hbm.pend = [] → s.host.pend = [] → (∀ x, (s.coreAt x).well.pend = []) →
      (k.stream n).early = [] → (k.stream n).cmd = some c → (c.started = true ∨ isPref c.entry = true) →
      (c.pos < entCount c.entry ∨ isPref c.entry = true) →
      let h := entHdr c.entry
      let total := entCount c.entry
      -- every other stream, every register and host memory stay
      let others (t : State) : Prop := (∀ m, m < 4 → m ≠ n → t.core.stream m = { k.stream m with early := (t.core.stream m).early })
        ∧ t.core.lastServed = n ∧ t.core.regs = k.regs ∧ t.core.tiles = k.tiles ∧ t.core.cist.own = k.cist.own ∧ t.host = s.host
      -- the bytes at the end of the coherence order, and path P's of the cistern
      let holds (t : State) (m : Nat × Nat → Byte) (p : Nat → Bool) : Prop := (∀ y, y < 2 ^ 23 → p y = true → t.core.well.latest y = m (1, y))
        ∧ (∀ y, t.hbm.latest y = m (0, y)) ∧ ∀ y, y < 2 ^ 20 → t.core.cist.data.get pathP y = m (2, y)
      -- the command at position `e`, as `c1` but for the writes it has made; past its last element it goes on to complete
      let moved (t : State) (c1 : Cmd) (e : Nat) : Prop := ∃ c2 : Cmd, c2 = { c1 with pos := e, writes := c2.writes, landed := c2.landed }
        ∧ (let x := t.core.stream n
          let y := { k.stream n with early := x.early, pos := BitVec.ofNat 32 e }
          x = if e < total then { y with cmd := some c2 }
            else { y with cmd := none, completing := y.completing ++ [c2], cur := y.cur + 64 })
      (∀ r, elementRule s c = some r → ∀ spots, r.puts.mapM (fun w => s.spotOf c .write w.sp w.x w.o w.opnd w.bytes.length r.al) = some spots →
        let m1 := (spots.zip r.puts).foldl (fun m w => putBytes m w.1 w.2.bytes) s.bytesAt
        let m2 := if h.norm then r.taps.foldl (tapped h) m1 else m1
        let due := if h.post = true ∧ h.every ≠ 0 then min r.next (total - 1) / h.every.toNat - c.posts else 0
        let at_ := h.sem.toNat / 8 * 8
        ∃ t, exec .pumpTransferUnit s = .next t ∧ others t
          ∧ holds t m2 (fun y => due == 0 || decide (y < at_) || decide (at_ + 8 ≤ y))
          ∧ (0 < due → t.core.semCount h.sem
              = min (leNat ((List.range 4).map (fun j => m2 (1, at_ + j))) + due * h.cnt.toNat) (2 ^ 32 - 1))
          ∧ moved t { r.cmd with posts := c.posts + due } r.next)
      -- a request to an atomic engine
      ∧ (∀ op acc v al, atomicRule s c = some (op, acc, v, al) →
          ∀ p, s.spotOf c acc h.spD v.1 v.2 0 al al = some p →
          ∃ t, ∃ r : AtomicReq, exec .pumpTransferUnit s = .next t ∧ others t ∧ holds t s.bytesAt (fun _ => true)
            ∧ t.atomics = s.atomics ++ [r] ∧ r.op = op ∧ r.core = s.turn.core ∧ r.stream.val = n ∧ r.addr = p.2
            ∧ r.target = (if p.1 = 1 then some s.turn.core else none)
            ∧ r.eng.val = (if p.1 = 1 then 8 + s.turn.core.val / 4 else p.2 / 2 ^ 36 % 8)
            ∧ Pte.key r.pte = 0 ∧ r.rel = (h.rel && decide (total ≤ c.pos + 1))
            ∧ (t.core.stream n).inAtomic = true ∧ (∃ c2, (t.core.stream n).cmd = some c2 ∧ c2.pos = c.pos ∧ c2.entry = c.entry))
      -- FLIPV
      ∧ (∀ rg ver inc, c.entry = .flipv h rg ver inc →
          let r := vget s.regions rg.toNat {}
          r.vcnt ≠ 0 → r.ctx.setWidth 12 = k.ctxOf → r.malformed = false → (inc = false → ver.toNat < r.vcnt.toNat) →
          ∃ t, exec .pumpTransferUnit s = .next t ∧ others t ∧ holds t s.bytesAt (fun _ => true) ∧ moved t c 1
            ∧ t.regions = vset s.regions rg.toNat
                { r with cur := if inc then BitVec.ofNat 8 ((r.cur.toNat + 1) % r.vcnt.toNat) else ver })
      -- PREF
      ∧ (∀ d len, c.entry = .pref h d len → ∃ t, exec .pumpTransferUnit s = .next t ∧ others t ∧ holds t s.bytesAt (fun _ => true)
          ∧ (c.srcOff < len.toNat → (t.core.stream n) = { k.stream n with
              early := (t.core.stream n).early, walk := some { va := d + BitVec.ofInt 64 (c.dd + c.srcOff), acc := 0 } })
          ∧ (len.toNat ≤ c.srcOff → moved t c 0))

/-- R62, R64, R166, R171, R200: the oldest command whose elements are all committed completes and leaves the stream, its writes performed at
its destination: its FILL tile becomes READY and its DRAIN tile EMPTY, no longer held (one that is both is EMPTY; one of a command
with no element stays), its bands are free, and its post adds to its semaphore, saturating at 2^32 − 1; no other tile's state, band's owner, stream or register changes. While MVA stops the
stream none completes. The model performs the writes still pending in this step (log 21). -/
def Obligations.CommandsComplete : Prop :=
  ∀ (s : State) (c : Cmd) (rest : List Cmd), s.str.completing = c :: rest → s.core.waiters = [] →
    (s.str.state = .aborting → ∃ t, exec .commandCompletion s = .next t ∧ s.StreamIs t s.str) ∧ (s.str.state ≠ .aborting →
    let h := entHdr c.entry
    let tiles : Prop := 0 < entCount c.entry
    let count := ((s.landWrites s.turn.core c.writes).coreAt s.turn.core).semCount h.sem
    ∃ t, exec .commandCompletion s = .next t
      ∧ (t.core.stream s.turn.stream.val).completing = rest ∧ (t.core.stream s.turn.stream.val).cur = s.str.cur
      ∧ (∀ m, m < 4 → m ≠ s.turn.stream.val → t.core.stream m = s.core.stream m)
      ∧ (tiles → h.fill = true → (h.drain = true → h.dtile ≠ h.ftile) → t.core.tile h.ftile.toNat
          = { s.core.tile h.ftile.toNat with state := .ready, held := none })
      ∧ (tiles → h.drain = true → t.core.tile h.dtile.toNat = { s.core.tile h.dtile.toNat with state := .empty, held := none })
      ∧ (∀ e, e < 256 → (tiles → h.fill = true → e ≠ h.ftile.toNat) → (tiles → h.drain = true → e ≠ h.dtile.toNat) →
          t.core.tile e = s.core.tile e)
      ∧ (∀ o ∈ t.core.cist.own, o.cmd ≠ c.uid ∧ o ∈ s.core.cist.own)
      ∧ (∀ o ∈ s.core.cist.own, o.cmd ≠ c.uid → o ∈ t.core.cist.own)
      ∧ (∀ w ∈ t.hbm.pend, w.id ∈ c.writes → ∀ o, o < 128 → o / 16 = s.turn.core.val / 16 → w.seen.testBit o = true)
      ∧ (c.writes = [] → count = s.core.semCount h.sem)
      ∧ (h.post = true → t.core.semCount h.sem = min (count + h.cnt.toNat) (2 ^ 32 - 1))
      ∧ (h.post = false → t.core.semCount h.sem = count)
      ∧ t.core.regs = s.core.regs ∧ t.queues = s.queues ∧ t.mgmt = s.mgmt)

/-- R176, R178, R310-R312, R319-R321, R325: a WAITS in progress, with no write to the count pending, goes on once the count is
reached and changes nothing before; a page
walk that succeeds puts its leaf into the caches, where the stream's next access finds it, and one that fails suspends the stream
with the walk's cause and level; for a PREF either moves it past the page, with no fault (R192). A chain FENCE makes the stream's own
earlier writes performed at its scope (kind 2: those of all four streams, once none of them has a request at an atomic engine, nor
another gathers a chunk of a well, log 21), and the chain goes on to the next entry: with one such write
pending and no engine waiting at a semaphore (R65), the observers in the scope read its bytes there and what they read elsewhere
stays; those that a write into a well has when it arrives there are the model's choice (log 75). -/
def Obligations.WaitsAndFences : Prop :=
  (
    ∀ (s : State), s.str.state = .active →
      (∀ a m, s.str.waiting = true → s.str.waits = some (a, m) → s.core.settledAt a →
        let count := leNat ((List.range 4).map (fun j => s.core.well.get pathP (a.toNat / 8 * 8 + j)))
        (m.toNat ≤ count → ∃ t, exec .streamWaitSatisfied s = .next t
          ∧ s.StreamIs t { s.str with cur := s.str.cur + 64, waits := none, waiting := false, early := [] })
        ∧ (count < m.toNat → ∃ t, exec .streamWaitSatisfied s = .next t ∧ s.StreamIs t s.str))
      ∧ ∀ w c, s.str.walk = some w → s.str.cmd = some c → isPref c.entry = false →
        (∀ lvl pte, walk s s.core.ctxOf w.va = .ok (lvl, pte) → ∃ t, exec (.pageWalk w.va false) s = .next t
          ∧ (tlbHit t s.turn.core s.core.ctxOf w.va).map (fun e => (e.level, e.pte)) = some (lvl, pte)
          ∧ (t.core.stream s.turn.stream.val) = { s.str with walk := none }
          ∧ t.core.regs = s.core.regs ∧ t.hbm = s.hbm ∧ t.mgmt = s.mgmt)
        ∧ (∀ cause lvl, walk s s.core.ctxOf w.va = .error (cause, lvl) → ∃ t, exec (.pageWalk w.va false) s = .next t
          ∧ s.Suspended t cause lvl w.acc w.va s.str.pos))
  ∧ (
    ∀ (s : State) (w : Walk) (c : Cmd), s.str.state = .active → s.str.walk = some w → s.str.cmd = some c → isPref c.entry = true →
      let past (t : State) (size : Nat) : Prop := t.core.stream s.turn.stream.val = { s.str with
          walk := none, cmd := some { c with srcOff := c.srcOff + (size - w.va.toNat % size) } }
        ∧ t.core.regs = s.core.regs ∧ t.hbm = s.hbm ∧ t.mgmt = s.mgmt
      (∀ lvl pte, walk s s.core.ctxOf w.va = .ok (lvl, pte) → ∃ t, exec (.pageWalk w.va false) s = .next t
        ∧ (tlbHit t s.turn.core s.core.ctxOf w.va).map (fun e => (e.level, e.pte)) = some (lvl, pte) ∧ past t (pageSize lvl))
      ∧ ∀ e, walk s s.core.ctxOf w.va = .error e → ∃ t, exec (.pageWalk w.va false) s = .next t ∧ past t (2 ^ 16))
  ∧ (
    ∀ (s : State) (kind scope : Byte), s.str.state = .active → s.str.cmd = none →
      let n := s.turn.stream.val
      let c := s.turn.core
      let mine (w : PWrite) : Bool := w.core == c.val && (if kind = 2 then decide (w.stream < 4) else w.stream == n)
      let inScope (o : Nat) : Bool := (scopeMask scope.toNat c.val).testBit o
      (kind = 2 → ((∃ j, j < 4 ∧ (s.core.stream j).inAtomic = true) ∨ s.gathering c n = true) → ∃ u, exec (.chainFence kind scope) s = .next u
        ∧ s.StreamIs u { s.str with fence := some scope, entry := entryIndex s.str })
      ∧ ((kind = 2 → (∀ j, j < 4 → (s.core.stream j).inAtomic = false) ∧ s.gathering c n = false) → ∃ u, exec (.chainFence kind scope) s = .next u
        ∧ (let x := u.core.stream n
          x = { s.str with
            entry := entryIndex s.str, cur := s.str.cur + 64, fence := none, early := [], wrote := x.wrote, readIds := x.readIds })
        ∧ u.core.regs = s.core.regs ∧ u.core.csr = s.core.csr ∧ u.core.urs = s.core.urs ∧ u.mgmt = s.mgmt ∧ u.queues = s.queues
        ∧ (∀ w ∈ u.hbm.pend, mine w = true → ∀ o, o < 131 → inScope o = true → w.seen.testBit o = true)
        ∧ (∀ w ∈ u.host.pend, mine w = true → ∀ o, o < 131 → inScope o = true → w.seen.testBit o = true)
        ∧ ∀ w, mine w = true → w.deps = [] → w.mca = false →
          (s.hbm.pend = [w] → s.host.pend = [] → (∀ x, (s.coreAt x).well.pend = []) → s.hbm.Shows u.hbm 131 w inScope)
          ∧ (s.hbm.pend = [] → s.host.pend = [w] → (∀ x, (s.coreAt x).well.pend = []) → s.host.Shows u.host 131 w inScope)
          ∧ (∀ y, s.core.waiters = [] → s.hbm.pend = [] → s.host.pend = [] →
              (∀ x, (s.coreAt x).well.pend = if x = y then [w] else []) →
            (s.coreAt y).well.Shows (u.coreAt y).well 137 w
              (fun o => o == 4 || w.arrivesAt y.val o || (decide (8 ≤ o) && decide (o < 136) && inScope (o - 8))
                || (o == 136 && inScope 130)))))

/-! ### Memory -/

/-- R20, R299, R300, R302, R306: a pending write becomes performed with respect to the observer named, and a write through a window
arrives in its well for path P. With that write alone pending, the observer then reads its bytes; so do those who already did, and of
a write that arrives in a well path P, the core itself and, on the writer's own die, that die (log 75); every other read gives what
it gave. While the chunk of such a write is being filled it neither arrives nor becomes seen: for V and M as long as its command
executes, for the others while its stream gathers it (R12, R223, R246, R276; log 21). A release is performed only after what it carries. Without such a write nothing changes. -/
def Obligations.WritesPerformed : Prop :=
  ∀ (s : State) (id obs : Nat),
    let calm (t : State) : Prop := (∀ x, (t.coreAt x).regs = (s.coreAt x).regs ∧ (t.coreAt x).csr = (s.coreAt x).csr
      ∧ (t.coreAt x).tiles = (s.coreAt x).tiles ∧ (t.coreAt x).streams = (s.coreAt x).streams)
      ∧ t.queues = s.queues ∧ t.mgmt = s.mgmt
    let wells (y : Fin 128) (w : PWrite) : Prop := ∀ x, (s.coreAt x).well.pend = if x = y then [w] else []
    (∀ sp, ∃ t, exec (.writePerformed sp id obs) s = .next t ∧ calm t)
    ∧ (∃ t, exec (.windowAccess id) s = .next t ∧ calm t)
    ∧ ((∀ w ∈ s.hbm.pend, w.id ≠ id) → exec (.writePerformed .hbm id obs) s = .next s)
    ∧ ((∀ w ∈ s.host.pend, w.id ≠ id) → exec (.writePerformed .host id obs) s = .next s)
    ∧ (∀ c, (∀ w ∈ (s.coreAt c).well.pend, w.id ≠ id) → exec (.writePerformed (.well c) id obs) s = .next s)
    ∧ ((∀ w ∈ s.core.well.pend, w.id ≠ id) → exec (.windowAccess id) s = .next s)
    ∧ (obs < 131 → (∃ w ∈ s.hbm.pend, w.id = id) → ∃ t, exec (.writePerformed .hbm id obs) s = .next t
      ∧ (∀ w ∈ t.hbm.pend, w.id = id → w.seen.testBit obs = true)
      ∧ ∀ w ∈ s.hbm.pend, w.id = id → ∀ d ∈ t.hbm.pend, d.id ∈ w.deps → ∀ o, o < 131 → w.scope.testBit o = true →
          d.seen.testBit o = true)
    ∧ ∀ w, w.id = id → w.deps = [] → w.mca = false →
      (obs < 131 → s.hbm.pend = [w] → s.host.pend = [] → (∀ x, (s.coreAt x).well.pend = []) →
        ∃ t, exec (.writePerformed .hbm id obs) s = .next t ∧ s.hbm.Shows t.hbm 131 w (fun o => o == obs))
      ∧ (obs < 131 → s.hbm.pend = [] → s.host.pend = [w] → (∀ x, (s.coreAt x).well.pend = []) →
        ∃ t, exec (.writePerformed .host id obs) s = .next t ∧ s.host.Shows t.host 131 w (fun o => o == obs))
      ∧ (∀ c, s.hbm.pend = [] → s.host.pend = [] → wells c w →
        (obs < 5 → ¬ s.closedTo obs w →
          ∃ t, exec (.writePerformed (.well c) id obs) s = .next t ∧ (s.coreAt c).well.Shows (t.coreAt c).well 137 w
          (fun o => o == obs || (w.seen == 0 && (o == 4 || o == 8 + c.val || w.arrivesAt c.val o))))
        ∧ (s.closedTo obs w → exec (.writePerformed (.well c) id obs) s = .next s)
        ∧ (∀ j, j < 128 → obs = 8 + j → ¬ s.closedTo obs w → ∃ t, exec (.writePerformed (.well c) id obs) s = .next t
          ∧ (s.coreAt c).well.Shows (t.coreAt c).well 137 w (fun o => o == obs || o == 4 || w.arrivesAt c.val o))
        ∧ (c = s.turn.core → s.closedTo pathP w → exec (.windowAccess id) s = .next s)
        ∧ (c = s.turn.core → ¬ s.closedTo pathP w → ∃ t, exec (.windowAccess id) s = .next t
          ∧ (s.coreAt c).well.Shows (t.coreAt c).well 137 w (fun o => o == 4 || o == 8 + c.val || w.arrivesAt c.val o)))
      ∧ (∀ c, obs < 5 → (s.coreAt c).urs.pend = [w] → ∃ t, exec (.writePerformed (.urs c) id obs) s = .next t
        ∧ (s.coreAt c).urs.Shows (t.coreAt c).urs 137 w (fun o => o == obs))
      ∧ (∀ c, obs < 5 → (s.coreAt c).cist.data.pend = [w] → ∃ t, exec (.writePerformed (.cist c) id obs) s = .next t
        ∧ (s.coreAt c).cist.data.Shows (t.coreAt c).cist.data 137 w (fun o => o == obs))

/-- R64, R66, R187, R189, R190, R195, R313, R314: the engine performs the request it serves next, and the stream's element is committed.
An ATOM on HBM without a key, or on a well, leaves the new value as the last in coherence order and the old one, zero-extended, at its
result offset; an accumulate of RED on such HBM leaves its value, and its NORM tap adds it; a SEMPR adds to the semaphore, saturating
with SEMOVF. The sign of an exact zero sum is the model's choice (log 77). -/
def Obligations.AtomicEngines : Prop :=
  ∀ (s : State) (eng : Fin 40) (r : AtomicReq) (c : Cmd), nextAtomic s eng = some r →
    ((s.coreAt r.core).stream r.stream.val).cmd = some c → (entHdr c.entry).post = false →
    let served (t : State) : Prop := exec (.atomicOp eng) s = .next t ∧ t.atomics = s.atomics.erase r
      ∧ ((t.coreAt r.core).stream r.stream.val).inAtomic = false
      ∧ (c.pos + 1 < entCount c.entry → ∃ c1, ((t.coreAt r.core).stream r.stream.val).cmd = some c1 ∧ c1.pos = c.pos + 1)
      ∧ (entCount c.entry ≤ c.pos + 1 → ((t.coreAt r.core).stream r.stream.val).cmd = none)
      ∧ (∀ d, (t.coreAt d).regs = (s.coreAt d).regs) ∧ t.queues = s.queues
    let old (rd : Nat → Byte) (n : Nat) : Nat := leNat ((List.range n).map (fun j => rd (r.addr + j)))
    (∀ op w64 x y ret, r.op = .atom op w64 x y ret →
      let n := if w64 then 8 else 4
      let result (t : State) (v : Nat) : Prop :=
        (List.range 8).map (fun j => (t.coreAt r.core).well.latest (ret.toNat / 8 * 8 + j)) = leBytes 8 v
      (r.target = none → Pte.key r.pte = 0 → r.addr < 2 ^ 39 → ∃ t, served t ∧ result t (old s.hbm.latest n)
        ∧ old t.hbm.latest n = atomValue op n (old s.hbm.latest n) x.toNat y.toNat
        ∧ ∀ a, (a < r.addr ∨ r.addr + n ≤ a) → t.hbm.latest a = s.hbm.latest a)
      ∧ ∀ z, r.target = some z → (s.coreAt z).well.pend = [] → r.addr + n ≤ 2 ^ 23 →
        let at_ := ret.toNat / 8 * 8
        let v := old ((s.coreAt z).well.get pathP) n
        ∃ t, served t ∧ result t v
          ∧ (z ≠ r.core ∨ r.addr + n ≤ at_ ∨ at_ + 8 ≤ r.addr → old ((t.coreAt z).well.latest) n = atomValue op n v x.toNat y.toNat)
          ∧ ∀ a, a < r.addr ∨ r.addr + n ≤ a → z ≠ r.core ∨ a < at_ ∨ at_ + 8 ≤ a →
              (t.coreAt z).well.latest a = (s.coreAt z).well.get pathP a)
    ∧ (∀ op typ v, r.op = .red op typ v → r.target = none → Pte.key r.pte = 0 → r.addr < 2 ^ 39 →
        (s.coreAt r.core).well.pend = [] →
        let n := if typ = 1 then 2 else 4
        let new := redOver typ op (old s.hbm.latest n) v.toNat
        let m (p : Nat × Nat) : Byte := (s.coreAt r.core).well.get pathP p.2
        let h := entHdr c.entry
        ∃ t, served t ∧ old t.hbm.latest n = new % 2 ^ (8 * n)
          ∧ (∀ a, (a < r.addr ∨ r.addr + n ≤ a) → t.hbm.latest a = s.hbm.latest a)
          ∧ ∀ a, a < 2 ^ 23 → (t.coreAt r.core).well.latest a
              = if h.norm then tapped h m (0, c.pos, decode (if typ = 1 then .bf16 else .f32) new) (1, a) else m (1, a))
    ∧ ∀ amt z, r.op = .sempr amt → r.target = some z → (s.coreAt z).well.pend = [] → (s.coreAt z).waiters = [] →
        (s.coreAt z).cell.isSome = true →
        let off : Off := BitVec.ofNat 23 r.addr
        let v := (s.coreAt z).semCount off + amt.toNat
        ∃ t, served t ∧ (t.coreAt z).semCount off = min v (2 ^ 32 - 1)
          ∧ (t.coreAt z).csr = (if v < 2 ^ 32 then (s.coreAt z).csr else { (s.coreAt z).csr with xflg := (s.coreAt z).csr.xflg ||| 4 })

/-! ### Queues and packets -/

/-- R335, R336, R339, R346, R370: BIND makes an unbound queue with well-formed fields ACTIVE, with READ and PUB taken from
RESERVE, READ written back, and PASS the least of the other runnable queues of its partition, or unchanged where there is none; when
RESERVE cannot be read it stays UNBOUND with EVT[3], and with other fields it stays as it is. UNBIND and RESET discard the queue's
superstep, whose cores then hold no cell, and its packet; then READ and PUB are taken from RESERVE and the queue is UNBOUND, or ACTIVE;
when RESERVE cannot be read they keep their values, EVT[3] is set and it is UNBOUND, or FAULTED. RESERVE is what the index block holds
once the superstep is discarded and status 5 is written: what it held before, where the queue has no packet and no superstep on the
cores. A doorbell of an ACTIVE queue raises PUB; a value not above PUB, or one to any other queue, does nothing; one more than the
ring's size above READ makes the queue OVERRUN with EVT[0]. That RESET acts in one step is the model's choice (log 32). -/
def Obligations.QueueControl : Prop :=
  (
    ∀ (s : State) (q : BitVec 10),
      let x := s.queue q
      let word (op : Nat) : W := BitVec.ofNat 64 (op * 2 ^ 62 + q.toNat)
      let good : Prop := x.rbase.toNat % 4096 = 0 ∧ x.idxva.toNat % 64 = 0 ∧ x.saveva.toNat % 65536 = 0 ∧ x.ctx.toNat < 4096
        ∧ 4 ≤ x.logm.toNat ∧ x.logm.toNat ≤ 20 ∧ x.part.toNat ≤ 7 ∧ (s.part x.part.toNat).dies ≠ [] ∧ 1 ≤ x.tickets.toNat
        ∧ x.tickets.toNat ≤ 4096 ∧ x.cls.toNat ≤ 1
      (x.state = .unbound → good → ∀ bs, ringRead s x x.idxva 8 = some bs → ∃ t, exec (.queueBind (word 1)) s = .next t
        ∧ (t.queue q).state = .active ∧ (t.queue q).read = BitVec.ofNat 64 (leNat bs) ∧ (t.queue q).pub = (t.queue q).read
        ∧ (∀ r, r ≠ q → t.queue r = s.queue r) ∧ t.cores = s.cores ∧ t.parts = s.parts
        ∧ (∀ u, ringTarget s x (x.idxva + 8) .write = some u → plainTarget u 8 → t.holdsAt u (leBytes 8 (leNat bs)))
        ∧ (∀ r, r ≠ q → isRunnable s x.part.toNat r = true → (t.queue q).pass ≤ (s.queue r).pass)
        ∧ ((∃ r, r ≠ q ∧ isRunnable s x.part.toNat r = true) →
            ∃ r, r ≠ q ∧ isRunnable s x.part.toNat r = true ∧ (t.queue q).pass = (s.queue r).pass)
        ∧ ((∀ r, r ≠ q → isRunnable s x.part.toNat r = false) → (t.queue q).pass = x.pass))
      ∧ (x.state = .unbound → good → ringRead s x x.idxva 8 = none → exec (.queueBind (word 1)) s
          = .next { s.setQueue q { x with evt := x.evt ||| 8 } with irqs := s.irqs ++ [x.vec.toNat] })
      ∧ ((x.state ≠ .unbound ∨ ¬ good) → exec (.queueBind (word 1)) s = .next s)
      ∧ (x.state = .unbound → exec (.queueUnbind (word 2)) s = .next s ∧ exec (.queueReset (word 3)) s = .next s)
      ∧ (x.state ≠ .unbound →
        let pt := s.part x.part.toNat
        let onCores : Prop := pt.run.map (·.1) = some q ∨ pt.resident = some q
        -- the superstep is discarded, and status 5 written for the packet
        let s1 := match x.pkt with
          | some p => (s.discard q).statusWrite (x.ctx.setWidth 12) p.statva 5
          | none => s.discard q
        let cleared : Queue := { x with pkt := none, work := none, keep := none, checked := false, idxFault := false }
        let ends (i : Instr) (done late : QState) : Prop := ∃ t, exec i s = .next t
          ∧ (∀ r, r ≠ q → t.queue r = s.queue r)
          ∧ (∀ bs, ringRead s1 x x.idxva 8 = some bs → t.queue q = { cleared with
              state := done, read := BitVec.ofNat 64 (leNat bs), pub := BitVec.ofNat 64 (leNat bs) })
          ∧ (ringRead s1 x x.idxva 8 = none → t.queue q = { cleared with state := late, evt := x.evt ||| 8 }
              ∧ x.vec.toNat ∈ t.irqs)
          ∧ (onCores → (t.part x.part.toNat).run = none ∧ (t.part x.part.toNat).resident = none
              ∧ ∀ c : Fin 128, c.val / 16 ∈ pt.dies → (t.coreAt c).cell = none ∧ (t.coreAt c).streams.toList.all
                (fun y => y.state == .idle && y.queued.isEmpty) = true)
          ∧ (¬ onCores → ∀ p, p < 8 → t.part p = s.part p)
        (¬ onCores → (∀ p, x.pkt = some p → p.statva = 0) → ringRead s1 x x.idxva 8 = ringRead s x x.idxva 8)
        ∧ ends (.queueUnbind (word 2)) .unbound .unbound ∧ ends (.queueReset (word 3)) .active .faulted))
  ∧ (
    ∀ (s : State) (q : BitVec 10) (w : W),
      let x := s.queue q
      ((x.state ≠ .active ∨ w ≤ x.pub) → exec (.doorbell q w) s = .next s)
      ∧ (x.state = .active → x.pub < w → (w - x.read).toNat ≤ 2 ^ x.logm.toNat →
          exec (.doorbell q w) s = .next (s.setQueue q { x with pub := w }))
      ∧ (x.state = .active → x.pub < w → 2 ^ x.logm.toNat < (w - x.read).toNat → ∃ t, exec (.doorbell q w) s = .next t
          ∧ t.queue q = { x with state := .overrun, evt := x.evt ||| 1 } ∧ t.irqs = s.irqs ++ [x.vec.toNat]
          ∧ (∀ r, r ≠ q → t.queue r = s.queue r) ∧ t.cores = s.cores ∧ t.hbm = s.hbm))

/-- R28, R339-R342, R344: a packet is accepted when its header shows READ's low bits, and READ has moved on; a malformed one
completes with EVT[2]; while fetch is quiesced (R363; log 108) none is accepted. A LAUNCH whose kernel passes its checks waits for the
scheduler with that kernel at superstep 0, an OPCHAIN with its operators and operator 0's record; one that fails a check completes with
its status. WAITSIG completes once its word is at least WVAL, with status 4 when it cannot be read, and is polled until then; SIGNAL
and NOP complete. What completes leaves its status in its status word and its signal in its signal word, written or added. A front
end's access is performed everywhere at once, by the model's choice (log 8). -/
def Obligations.Packets : Prop :=
  ∀ (s : State) (q : BitVec 10),
    let x := s.queue q
    let ctx : BitVec 12 := x.ctx.setWidth 12
    let pd := (s.part x.part.toNat).dies.length
    (s.mgmt.upd = true ∨ s.mgmt.fetchHeld = true → exec (.packetHeaderPoll q) s = .next s)
    ∧ (∀ h body, x.state = .active → x.pkt = none → x.read < x.pub → s.mgmt.upd = false → s.mgmt.fetchHeld = false →
      ringRead s x (x.rbase + 64 * (x.read &&& BitVec.ofNat 64 (2 ^ x.logm.toNat - 1))) 8 = some h →
      field h 0 4 = x.read.toNat % 2 ^ 32 →
      ringRead s x (x.rbase + 64 * (x.read &&& BitVec.ofNat 64 (2 ^ x.logm.toNat - 1)) + 8) 56 = some body →
      let p := packetOf (h ++ body)
      ∃ t, exec (.packetHeaderPoll q) s = .next t ∧ (t.queue q).read = x.read + 1
        ∧ (packetOk p = true → (t.queue q).pkt = some p ∧ (t.queue q).state = .active ∧ (t.queue q).work = x.work)
        ∧ (packetOk p = false → (t.queue q).pkt = none ∧ (t.queue q).evt.getLsbD 2 = true)
        ∧ (∀ r, r ≠ q → t.queue r = s.queue r) ∧ t.parts = s.parts)
    ∧ ∀ p, x.pkt = some p → x.state = .active → x.work = none →
      (p.typ = 1 → (∀ k, readKernel s ctx p.f20 pd = .ok k → ∃ t w, exec (.launchPacket q) s = .next t
            ∧ (t.queue q).work = some w ∧ w.kern = k ∧ w.begun = false ∧ w.sstep = 0 ∧ w.op = 0 ∧ w.nops = 1 ∧ w.saved = none
            ∧ w.parked = [] ∧ (t.queue q).pkt = some p ∧ t.cores = s.cores ∧ t.hbm = s.hbm ∧ ∀ r, r ≠ q → t.queue r = s.queue r)
          ∧ ∀ e, readKernel s ctx p.f20 pd = .error e → ∃ t, exec (.launchPacket q) s = .next t ∧ s.PacketDone t q p e)
      ∧ (p.typ = 2 → (∀ e, readKernel s ctx p.f20 pd = .error e → ∃ t, exec (.opchain q) s = .next t ∧ s.PacketDone t q p e)
        ∧ ∀ k, readKernel s ctx p.f20 pd = .ok k →
          (∀ e, readOpRec s ctx p.f28 0 = .error e → ∃ t, exec (.opchain q) s = .next t ∧ s.PacketDone t q p e)
          ∧ ∀ rec, readOpRec s ctx p.f28 0 = .ok rec →
          ∃ t w, exec (.opchain q) s = .next t ∧ (t.queue q).work = some w ∧ w.kern = k ∧ w.nops = p.f30.toNat ∧ w.op = 0
            ∧ w.oprec = rec ∧ w.sstep = 0 ∧ (t.queue q).pkt = some p ∧ t.cores = s.cores ∧ t.hbm = s.hbm)
      ∧ (p.typ = 3 → ∀ e, readVA s ctx p.f20 8 = .error e →
          (x.checked = false → ∃ t, exec (.waitsig q) s = .next t ∧ s.PacketDone t q p 4)
          ∧ (x.checked = true → ∃ t, exec (.waitsigPoll q) s = .next t ∧ s.PacketDone t q p 4))
      ∧ (p.typ = 3 → ∀ bs, readVA s ctx p.f20 8 = .ok bs →
          (p.f28.toNat ≤ leNat bs → (x.checked = false → ∃ t, exec (.waitsig q) s = .next t ∧ s.PacketDone t q p 0)
            ∧ (x.checked = true → ∃ t, exec (.waitsigPoll q) s = .next t ∧ s.PacketDone t q p 0))
          ∧ (leNat bs < p.f28.toNat →
            (x.checked = false → exec (.waitsig q) s = .next (s.setQueue q { x with checked := true, keep := none }))
            ∧ (x.checked = true → exec (.waitsigPoll q) s = .next (s.setQueue q { x with checked := true, keep := none }))))
      ∧ (p.typ = 4 → ∃ t, exec (.signal q) s = .next t ∧ s.PacketDone t q p 0)
      ∧ (p.typ = 5 → ∃ t, exec (.nopPacket q) s = .next t ∧ s.PacketDone t q p 0)

/-! ### Management -/

/-- R322, R323, R325, R335, R347, R353-R357, R364: SHOOTDOWN takes a request unless one is at work, and its acknowledgement drops every
cached leaf it covers; the hub's oldest record goes to the fault queue while it has room and vector 0 is raised; the host reads and
writes HBM through its two windows, plain, within BAR2's size or HDMSIZE, all ones and no effect outside; a BAR0 register write has its
register's effect: QUEUECTL and STRMCTL act by their OP, FQBASE and FQLOG change while the ring is empty, FWSTATE's bits clear, a
scheduling register is clamped, an entry of the queue table takes the bytes of its writable fields, one of the context or region table
all its bytes; and one below 0x1000, past 0x3FFFF, not aligned or of another size than 4 or 8 bytes has none. That HBEAT keeps what the
host writes is R364's access. A peer's access is translated in the context of its routing entry: an unknown sender gets
a not-valid fault (the model's choice, log 62), a translation that fails is reported with its cause and level, and a read of HBM
without a key returns the bytes, or uncorrectable data when one of them has an error. That an access of the hub, the host or a peer is performed everywhere at once is the model's choice (log 8). -/
def Obligations.HostAndPeers : Prop :=
  (
    ∀ (s : State) (w : W),
      let m := s.mgmt
      (w.getLsbD 63 = true → m.sdBusy = false → exec (.shootdown w) s = .next { s with mgmt := { m with
        sdBusy := true, sdDone := false, sdctx := w.extractLsb' 0 12, sdall := w.getLsbD 12, sdReqBase := m.sdbase
        sdReqLen := m.sdlen } })
      ∧ (w.getLsbD 63 = true → m.sdBusy = true → exec (.shootdown w) s = .next s)
      ∧ (m.sdBusy = true → ∃ t, exec .shootdownAck s = .next t ∧ t.mgmt.sdBusy = false ∧ t.mgmt.sdDone = true
          ∧ (∀ e ∈ t.tlb1, sdCovers m e.2 = false ∧ e ∈ s.tlb1) ∧ (∀ e ∈ s.tlb1, sdCovers m e.2 = false → e ∈ t.tlb1)
          ∧ (∀ e ∈ t.tlb2, sdCovers m e.2 = false ∧ e ∈ s.tlb2) ∧ t.atomics = [] ∧ t.queues = s.queues)
      ∧ (∀ r rest, m.fqHeld = r :: rest → r.length = 64 → 6 ≤ m.fqlog → m.fqlog ≤ 16 →
          m.fqprod - m.fqcons ≠ BitVec.ofNat 64 (2 ^ m.fqlog) → m.fqbase.getLsbD 63 = false →
          let a := m.fqbase.toNat % 2 ^ 52 + 64 * (m.fqprod.toNat % 2 ^ m.fqlog)
          a + 64 ≤ 2 ^ 39 →
          ∃ t, exec .faultRecordPost s = .next t ∧ (∀ o, (List.range 64).map (fun j => t.hbm.get o (a + j)) = r)
            ∧ (∀ o y, (y < a ∨ a + 64 ≤ y) → t.hbm.get o y = s.hbm.get o y)
            ∧ t.mgmt.fqprod = m.fqprod + 1 ∧ t.mgmt.fqHeld ++ t.mgmt.fqWaiting = rest ++ m.fqWaiting
            ∧ t.irqs = s.irqs ++ [0] ∧ t.cores = s.cores ∧ t.queues = s.queues)
      ∧ (∀ (win : HostWin) (ad : W) (len : Nat) (bs : List Byte),
          let limit := match win with
            | .bar2 => 2 ^ 39
            | .hdm => min (2 ^ 39) m.cfg.hdmSize
          (m.boot = .ready → ad.toNat + len ≤ limit → exec (.hostMemoryAccess win ad len none) s
              = .next { s with reply := (List.range len).map (fun j => s.hbm.get 129 (ad.toNat + j)) })
          ∧ (m.boot = .ready → ad.toNat + bs.length ≤ limit →
            ∃ t, exec (.hostMemoryAccess win ad len (some bs)) s = .next t ∧ t.cores = s.cores ∧ t.reply = s.reply
              ∧ (∀ o j, j < bs.length → some (t.hbm.get o (ad.toNat + j)) = bs[j]?)
              ∧ (∀ o y, (y < ad.toNat ∨ ad.toNat + bs.length ≤ y) → t.hbm.get o y = s.hbm.get o y))
          ∧ (m.boot ≠ .ready ∨ limit < ad.toNat + len →
              exec (.hostMemoryAccess win ad len none) s = .next { s with reply := List.replicate len 255 })
          ∧ (m.boot ≠ .ready ∨ limit < ad.toNat + bs.length → exec (.hostMemoryAccess win ad len (some bs)) s = .next s))
      ∧ (m.boot = .ready →
          exec (.registerWrite 0x1010 8 w) s = .next { s with mgmt := { m with sdbase := w.setWidth 40 } }
          ∧ exec (.registerWrite 0x1018 8 w) s = .next { s with mgmt := { m with sdlen := w } }
          ∧ exec (.registerWrite 0x1020 8 w) s = exec (.shootdown w) s
          ∧ exec (.registerWrite 0x1058 8 w) s = .next { s with mgmt := { m with fqcons := w } }
          ∧ exec (.registerWrite 0x30000 8 w) s = exec (.mailboxRequest w) s
          ∧ exec (.registerWrite 0x1000 8 w) s = (match w.toNat / 2 ^ 62 with
            | 1 => exec (.queueBind w) s | 2 => exec (.queueUnbind w) s | 3 => exec (.queueReset w) s | _ => .next s)
          ∧ exec (.registerWrite 0x1008 8 w) s = (match w.toNat / 2 ^ 62 with
            | 1 => exec (.resume w) s | 2 => exec (.abort w) s | _ => .next s)
          ∧ (m.fqprod = m.fqcons → exec (.registerWrite 0x1040 8 w) s
              = .next { s with mgmt := { m with fqbase := w &&& 0x800FFFFFFFFFF000 } }
            ∧ (6 ≤ w.toNat → w.toNat ≤ 16 → exec (.registerWrite 0x1048 8 w) s = .next { s with mgmt := { m with fqlog := w.toNat } }))
          ∧ (m.fqprod ≠ m.fqcons → exec (.registerWrite 0x1040 8 w) s = .next s)
          ∧ (m.fqprod ≠ m.fqcons ∨ w.toNat < 6 ∨ 16 < w.toNat → exec (.registerWrite 0x1048 8 w) s = .next s)
          ∧ exec (.registerWrite 0x1080 8 w) s = .next { s with mgmt := { m with hbeat := w } }
          ∧ exec (.registerWrite 0x1088 8 w) s = .next { s with mgmt := { m with
              hbFailed := m.hbFailed && !w.getLsbD 1, rollback := m.rollback && !w.getLsbD 2 } }
          ∧ (∀ p : BitVec 3, exec (.registerWrite (BitVec.ofNat 20 (0x2000 + 8 * p.toNat)) 8 w) s = .next (s.setPart p.toNat
              { s.part p.toNat with
                ucap := min 256 (w.toNat / 2 ^ 32 % 512), tslice := max 100 (min 100000 (w.toNat % 2 ^ 17)) }))
          -- bytes `a` on of an entry of a table, of four or eight bytes, take those of the word
          ∧ (∀ (a size : Nat), a < 64 → (size = 4 ∨ size = 8) → a % size = 0 →
            let into (old : List Byte) (o n : Nat) : Nat := leNat ((List.range n).map (fun j =>
              if a ≤ o + j ∧ o + j < a + size then BitVec.ofNat 8 (w.toNat / 2 ^ (8 * (o + j - a))) else old.getD (o + j) 0))
            let hit (o : Nat) : Bool := decide (a ≤ o) && decide (o < a + size)
            (∀ q : BitVec 10,
              let x := s.queue q
              let f := into (queueRaw x)
              let x1 : Queue := if x.state = .unbound then { x with
                  rbase := BitVec.ofNat 64 (f 0 8), idxva := BitVec.ofNat 64 (f 8 8), saveva := BitVec.ofNat 64 (f 16 8)
                  ctx := BitVec.ofNat 16 (f 24 2), logm := BitVec.ofNat 8 (f 26 1), part := BitVec.ofNat 8 (f 27 1)
                  tickets := BitVec.ofNat 16 (f 28 2), cls := BitVec.ofNat 8 (f 30 1), vec := BitVec.ofNat 8 (f 31 1) }
                else { x with
                  tickets := if 1 ≤ f 28 2 ∧ f 28 2 ≤ 4096 then BitVec.ofNat 16 (f 28 2) else x.tickets
                  cls := if hit 30 then BitVec.ofNat 8 (f 30 1 % 2) else x.cls }
              exec (.registerWrite (BitVec.ofNat 20 (0x10000 + 64 * q.toNat + a)) size w) s = .next (s.setQueue q { x1 with
                evt := x.evt &&& ~~~(if hit 33 then BitVec.ofNat 4 (w.toNat / 2 ^ (8 * (33 - a))) else 0) }))
            ∧ (∀ r : BitVec 8,
              let f := into (regionRaw (vget s.regions r.toNat {}))
              exec (.registerWrite (BitVec.ofNat 20 (0x28000 + 64 * r.toNat + a)) size w) s = .next { s with
                regions := vset s.regions r.toNat {
                  ctx := BitVec.ofNat 16 (f 0 2), vcnt := BitVec.ofNat 8 (f 2 1), mode := BitVec.ofNat 8 (f 3 1)
                  cur := BitVec.ofNat 8 (f 4 1), zero5 := BitVec.ofNat 24 (f 5 3)
                  voff := Vector.ofFn (fun j => BitVec.ofNat 32 (f (8 + 4 * j.val) 4))
                  zero28 := Vector.ofFn (fun j => BitVec.ofNat 64 (f (40 + 8 * j.val) 8)) } })
            ∧ (∀ c : BitVec 12, a < 8 →
              exec (.registerWrite (BitVec.ofNat 20 (0x20000 + 8 * c.toNat + a)) size w) s = .next { s with
                ctxTable := vset s.ctxTable c.toNat (BitVec.ofNat 64 (into (leBytes 8 (vget s.ctxTable c.toNat 0).toNat) 0 8)) }))
          ∧ (∀ q : BitVec 10, exec (.registerWrite (BitVec.ofNat 20 (0x4000 + 8 * q.toNat)) 8 w) s = exec (.doorbell q w) s)
          ∧ (∀ c : BitVec 12, exec (.registerWrite (BitVec.ofNat 20 (0x20000 + 8 * c.toNat)) 8 w) s
              = .next { s with ctxTable := vset s.ctxTable c.toNat w }))
      ∧ (∀ (off : BitVec 20) (size : Nat), (off.toNat < 0x1000 ∨ 0x40000 ≤ off.toNat ∨ off.toNat % 4 ≠ 0 ∨ (size ≠ 4 ∧ size ≠ 8)) →
          exec (.registerWrite off size w) s = .next s))
  ∧ (
    ∀ (s : State) (pkg : BitVec 15) (va : W), s.mgmt.boot = .ready →
      (s.mgmt.cfg.routes.find? (fun r => r.1 == pkg.toNat) = none → ∀ op,
        exec (.peerAccess pkg va op) s = .next { s with peerFault := some (1, 3), reply := [] })
      ∧ ∀ r, s.mgmt.cfg.routes.find? (fun r => r.1 == pkg.toNat) = some r →
        (∀ n e, translate s (BitVec.ofNat 12 r.2.2) va .read = .error e →
          exec (.peerAccess pkg va (.read n)) s = .next { s with peerFault := some e, reply := [] })
        ∧ (∀ n pa pte, translate s (BitVec.ofNat 12 r.2.2) va .read = .ok (.hbm pa pte) → Pte.key pte = 0 →
          exec (.peerAccess pkg va (.read n)) s = .next (if s.poison.any (fun p => p.1 == .hbm && pa ≤ p.2 && p.2 < pa + n)
            then { s with peerFault := some (5, 255), reply := [] }
            else { s with peerFault := none, reply := (List.range n).map (fun j => s.hbm.get 130 (pa + j)) }))
        ∧ (∀ bs pa pte, translate s (BitVec.ofNat 12 r.2.2) va .write = .ok (.hbm pa pte) → Pte.key pte = 0 → pa + bs.length ≤ 2 ^ 39 →
          ∃ t, exec (.peerAccess pkg va (.write bs)) s = .next t ∧ t.peerFault = none ∧ t.cores = s.cores
            ∧ (∀ o j, j < bs.length → some (t.hbm.get o (pa + j)) = bs[j]?)
            ∧ (∀ o y, (y < pa ∨ pa + bs.length ≤ y) → t.hbm.get o y = s.hbm.get o y)))

/-- R358-R361: the mailbox takes a request with GO while it is not busy and later gives its response with DONE and vector 1: STATUS 1
for a malformed request, 2 for a secured message of no open session, 3 for a response that does not fit, else the response, which for
a secured message begins with its session ID. That STATUS 2 is that of a secured message of no open session, and that the zero bits
of MBCMD are not looked at, is the model's choice (log 39).
NEGOTIATE_ALGORITHMS selects the device's algorithms when the requester offers its LMS entry, and otherwise answers ERROR and ends
the connection (that a later one with the entry opens a new one, and that each transport has its own, is log 88). The responder signs
a measurement, a key exchange or a challenge, counting the signature, once the connection has negotiated and fewer than 2^20 are used,
and answers ERROR otherwise; an unsigned measurement needs no signature; a key exchange opens its session. When a session opens, and
that the hashes of a signature are free, are the model's choices (log 25). -/
def Obligations.Attestation : Prop :=
  ∀ (s : State) (w : W) (tr : Transport) (sess : BitVec 32),
    let m := s.mgmt
    let conn := m.conn tr
    (m.boot = .ready → w.getLsbD 63 = true → m.mbBusy = false →
      let len := (w.extractLsb' 0 16).toNat
      let cls := m.mbReq.get 0
      exec (.mailboxRequest w) s = .next { s with mgmt := { m with
        mbBusy := true, mbDone := false, mbLen := len, mbClass := cls, mbReply := .none
        mbPend := if len < 8 ∨ 28672 < len ∨ (List.range 7).any (fun j => m.mbReq.get (j + 1) != 0) ∨ cls.toNat = 0 ∨ 3 < cls.toNat
          then 1
          else if cls = 2 ∧ List.lookup (BitVec.ofNat 32 (leNat (m.mbReq.bytes 8 4))) (m.conn .mailbox).sessions = none then 2
          else 0 } })
    ∧ (m.mbBusy = true → (m.mbPend ≠ 0 ∨ m.mbReply ≠ .none) → ∃ t, exec .mailboxResponse s = .next t
      ∧ t.mgmt.mbBusy = false ∧ t.mgmt.mbDone = true ∧ t.irqs = s.irqs ++ [1] ∧ t.cores = s.cores
      ∧ (m.mbPend ≠ 0 → t.mgmt.mbRlen = 0 ∧ t.mgmt.mbStatus = m.mbPend ∧ t.mgmt.mbResp = m.mbResp)
      ∧ (m.mbPend = 0 → ∃ msg, (m.mbClass ≠ 2 → msg = replyBytes m.mbReply) ∧ (m.mbClass = 2 → msg.take 4 = m.mbReq.bytes 8 4) ∧
        let bs := m.mbClass :: List.replicate 7 0 ++ msg
        (bs.length ≤ 32768 → t.mgmt.mbStatus = 0 ∧ t.mgmt.mbRlen.toNat = bs.length
          ∧ ∀ j, j < bs.length → some (t.mgmt.mbResp.get j) = bs[j]?)
        ∧ (32768 < bs.length → t.mgmt.mbStatus = 3 ∧ t.mgmt.mbRlen = 0 ∧ t.mgmt.mbResp = m.mbResp)))
    ∧ (served s tr none = true →
      exec (.negotiateAlgorithms tr true) s = .next { s with
        mgmt := (m.setConn tr { conn with negotiated := true, ended := false }).replied tr
          (.algorithms { extReg := Config.extReg, extAlg := Config.extAlg }) }
      ∧ exec (.negotiateAlgorithms tr false) s = .next { s with
        mgmt := (m.setConn tr { negotiated := false, ended := true, sessions := [] }).replied tr .error }
      ∧ (conn.ended = false → conn.negotiated = true → m.sigused < 2 ^ 20 → ∃ sig ems, SignatureBy sig m.sigused
        ∧ exec (.keyExchange tr sess) s = .next { s with
            mgmt := ({ m with sigused := m.sigused + 1 }.setConn tr
              { conn with sessions := (sess, ems) :: conn.sessions.filter (fun x => x.1 != sess) }).replied tr
                (.signed "KEY_EXCHANGE_RSP" m.log sig) })
      ∧ ((conn.ended = true ∨ conn.negotiated = false ∨ 2 ^ 20 ≤ m.sigused) →
          exec (.keyExchange tr sess) s = .next { s with mgmt := m.replied tr .error }))
    ∧ ((served s tr none = true ∨ served s tr (some sess) = true) →
      (conn.ended = false → conn.negotiated = true → m.sigused < 2 ^ 20 → ∃ sig, SignatureBy sig m.sigused
        ∧ exec (.getMeasurements tr true) s = .next { s with
            mgmt := { m with sigused := m.sigused + 1 }.replied tr (.signed "MEASUREMENTS" m.log sig) }
        ∧ exec (.challenge tr) s = .next { s with
            mgmt := { m with sigused := m.sigused + 1 }.replied tr (.signed "CHALLENGE_AUTH" m.log sig) })
      ∧ ((conn.ended = true ∨ conn.negotiated = false ∨ 2 ^ 20 ≤ m.sigused) →
          exec (.getMeasurements tr true) s = .next { s with mgmt := m.replied tr .error }
          ∧ exec (.challenge tr) s = .next { s with mgmt := m.replied tr .error })
      ∧ (conn.ended = false → conn.negotiated = true →
          exec (.getMeasurements tr false) s = .next { s with mgmt := m.replied tr (.plain "MEASUREMENTS" m.log) })
      ∧ ((conn.ended = true ∨ conn.negotiated = false) →
          exec (.getMeasurements tr false) s = .next { s with mgmt := m.replied tr .error }))

/-- R324, R355, R358, R361-R363: KEYLOAD puts the unwrapped key into an empty slot of an open session, KEYCLEAR empties one; FWSTAGE
stores its bytes in the staging area; FWACTIVATE of a staged image that the boot ROM's checks accept starts the live update in the
other slot, which then runs, and one they do not accept leaves the old image running and the slots' SVNs; FWQUERY reports. Each
answers its RESULT: 1 for an unknown command or a malformed payload, 2 outside a session, 3 for a slot out of range or in use, 4 for a
key that does not unwrap; the order of these checks is the model's (log 41), and so is where a staged file holds the image (log 86). A policy request waiting in the mailbox, of sixteen bytes and in range, is handed to the running
firmware, which accepts or refuses it (log 59); the firmware's own writes then set TICKETS, CLASS and the scheduling registers, and
the partitions while nothing runs in them (log 89). FWSTAGE's bytes are performed everywhere at once (log 8). -/
def Obligations.KeysFirmwarePolicy : Prop :=
  (
    ∀ (s : State) (tr : Transport) (ses : BitVec 32) (slot : BitVec 16) (ems wrapped pay : List Byte) (z y r : List Byte),
      (s.mgmt.conn tr).ended = false →
      let m := s.mgmt
      let sessions := (m.conn tr).sessions
      -- the payload after CMD begins with Zero at 0x02; the fields of the command follow
      let zero := leBytes 2 0
      let num := leBytes 2 slot.toNat
      (served s tr (some ses) = true →
        ((z ++ y ++ r).length ≠ 78 → exec (.keyload tr (some ses) z y r) s = .next { s with mgmt := m.replied tr (vendorAnswer 1 1 []) })
        ∧ ((z ++ r).length ≠ 6 → exec (.keyclear tr (some ses) z r) s = .next { s with mgmt := m.replied tr (vendorAnswer 2 1 []) })
        ∧ (List.lookup ses sessions = some ems → wrapped.length = 72 →
          (1 ≤ slot.toNat → slot.toNat ≤ 1023 → vget m.keys slot.toNat none = none →
            (∀ k, keyUnwrap (hkdfExpand32 ems wrapInfo) wrapped = some k →
              exec (.keyload tr (some ses) zero num (zero ++ wrapped)) s = .next { s with
                mgmt := { m with keys := vset m.keys slot.toNat (some (k.take 32, (k.drop 32).take 32)) }.replied tr (vendorAnswer 1 0 []) })
            ∧ (keyUnwrap (hkdfExpand32 ems wrapInfo) wrapped = none →
              exec (.keyload tr (some ses) zero num (zero ++ wrapped)) s = .next { s with mgmt := m.replied tr (vendorAnswer 1 4 []) }))
          ∧ ((slot = 0 ∨ 1023 < slot.toNat ∨ vget m.keys slot.toNat none ≠ none) →
              exec (.keyload tr (some ses) zero num (zero ++ wrapped)) s = .next { s with mgmt := m.replied tr (vendorAnswer 1 3 []) })
          ∧ (1 ≤ slot.toNat → slot.toNat ≤ 1023 → ∃ t, exec (.keyclear tr (some ses) zero (num ++ zero)) s = .next t
              ∧ vget t.mgmt.keys slot.toNat none = none ∧ (∀ j, j ≠ slot.toNat → vget t.mgmt.keys j none = vget m.keys j none)
              ∧ t.mgmt = { m with keys := t.mgmt.keys }.replied tr (vendorAnswer 2 0 [])))
        ∧ (List.lookup ses sessions = none → wrapped.length = 72 →
            exec (.keyload tr (some ses) zero num (zero ++ wrapped)) s = .next { s with mgmt := m.replied tr (vendorAnswer 1 2 []) }
            ∧ exec (.keyclear tr (some ses) zero (num ++ zero)) s = .next { s with mgmt := m.replied tr (vendorAnswer 2 2 []) })
        ∧ (List.lookup ses sessions = some ems → m.boot = .ready → ∀ (off len : W32) (data : List Byte), data.length = len.toNat →
            1 ≤ len.toNat → len.toNat ≤ 16384 → off.toNat + len.toNat ≤ m.cfg.staging.2 → m.cfg.staging.1 + m.cfg.staging.2 ≤ 2 ^ 39 →
            ∃ t, exec (.fwstage tr (some ses) zero (leBytes 4 off.toNat) (leBytes 4 len.toNat ++ data)) s = .next t ∧ t.mgmt = m.replied tr (vendorAnswer 0x10 0 [])
              ∧ (∀ o j, j < data.length → some (t.hbm.get o (m.cfg.staging.1 + off.toNat + j)) = data[j]?)
              ∧ (∀ o y, (y < m.cfg.staging.1 + off.toNat ∨ m.cfg.staging.1 + off.toNat + data.length ≤ y) →
                  t.hbm.get o y = s.hbm.get o y) ∧ t.cores = s.cores)
        ∧ (List.lookup ses sessions = some ems → m.boot = .ready → ∀ (sl : Byte) (len : W32), sl.toNat ≤ 1 →
            m.upd = false → sl.toNat ≠ (if m.fwslot then 1 else 0) → len.toNat ≤ m.cfg.staging.2 →
            let staged := s.hbm.latestBytes m.cfg.staging.1 len.toNat
            let img := parseFile staged
            ∃ t, exec (.fwactivate tr (some ses) zero [sl] (leBytes 3 0) (leBytes 4 len.toNat) (sha256 staged)) s = .next t
              ∧ t.cores = s.cores ∧ t.queues = s.queues
              ∧ (imageAccepted img m.fuseKey → t.mgmt.upd = true ∧ t.mgmt.updImage = some img
                ∧ t.mgmt.fwRunning = false ∧ t.mgmt.updAt = s.now ∧ t.mgmt.fwslot = (sl != 0) ∧ t.mgmt.fwsvn = imageSvn img
                ∧ t.mgmt.log = m.log ++ [sha256 img.bytes, sha256 img.recBytes]
                ∧ t.mgmt = t.mgmt.replied tr (vendorAnswer 0x11 0 []))
              ∧ (¬ imageAccepted img m.fuseKey → t.mgmt = m.replied tr (vendorAnswer 0x11 0 []) ∧ t.hbm = s.hbm)))
      ∧ ((served s tr none = true ∨ served s tr (some ses) = true) → m.boot = .ready →
          exec (.fwquery (tr, zero)) s = .next { s with mgmt := m.replied tr (vendorAnswer 0x12 0
            (leBytes 1 (if m.fwslot then 1 else 0) ++ leBytes 3 0 ++ leBytes 8 m.slotSvn0.toNat ++ leBytes 8 m.slotSvn1.toNat
              ++ leBytes 8 ((if m.rollback then 4 else 0) + (if m.hbFailed then 2 else 0) + (if m.upd then 1 else 0)))) })
      ∧ ((served s tr none = true ∨ served s tr (some ses) = true) → pay.length ≠ 2 →
          exec (.fwquery (tr, pay)) s = .next { s with mgmt := m.replied tr (vendorAnswer 0x12 1 []) })
      ∧ (∀ cmd : BitVec 16, (served s tr none = true ∨ served s tr (some ses) = true) → m.stopped = false →
          s.turn.what = .spdm tr (some cmd) → cmd.toNat ∉ [1, 2, 0x10, 0x11, 0x12] →
          step s = .next (tickOver { s with mgmt := m.replied tr (vendorAnswer cmd.toNat 1 []) })))
  ∧ (
    ∀ (s : State) (q tk : BitVec 16) (cls : Byte),
      let m := s.mgmt
      (m.boot = .ready → m.mbBusy = true → m.mbPend = 0 → m.mbReply = .none → m.mbClass = 3 → m.fwRunning = true → m.mbLen = 16 →
        m.mbReq.bytes 8 8 = leBytes 2 1 ++ leBytes 2 q.toNat ++ leBytes 2 tk.toNat ++ [cls, 0] → q.toNat ≤ 1023 →
        1 ≤ tk.toNat → tk.toNat ≤ 4096 → cls.toNat ≤ 1 →
        ∃ t, exec (.policyRequest 1 q tk cls 0) s = .next t ∧ t.queues = s.queues
          ∧ ((t.mgmt.mbReply = .policy 0 ∧ t.mgmt.policy = some (q.setWidth 10, tk, cls)) ∨ t.mgmt.mbReply = .policy 2))
      ∧ ((m.boot = .starting ∨ m.boot = .ready) → m.stopped = false → ∀ (r : BitVec 10) (p : BitVec 3) (v : W) (ds : List (List Nat)),
        (1 ≤ tk.toNat → tk.toNat ≤ 4096 → exec (.firmwarePolicyWrite (.tickets r tk)) s
            = .next (s.setQueue r { s.queue r with tickets := tk }))
        ∧ (cls.toNat ≤ 1 → exec (.firmwarePolicyWrite (.cls r cls)) s = .next (s.setQueue r { s.queue r with cls := cls }))
        ∧ exec (.firmwarePolicyWrite (.sched p v)) s = .next (s.setPart p.toNat { s.part p.toNat with
            ucap := min 256 (v.toNat / 2 ^ 32 % 512), tslice := max 100 (min 100000 (v.toNat % 2 ^ 17)) })
        ∧ ((∀ j, j < 8 → (s.part j).run = none ∧ (s.part j).resident = none) → (∀ x, (s.queue x).work = none) →
            1 ≤ ds.length → ds.length ≤ 8 → (∀ l ∈ ds, l.length ∈ [1, 2, 4, 8] ∧ ∀ d ∈ l, d < 8) → ds.flatten.Nodup →
            ∃ t, exec (.firmwarePolicyWrite (.layout ds)) s = .next t ∧ t.queues = s.queues ∧ t.cores = s.cores ∧ t.mgmt = m
              ∧ ∀ j, j < 8 → t.part j = { s.part j with dies := (List.range 8).filter (fun d => (ds.getD j []).contains d) })))

/-- R355, R358, R362-R366: a device reset runs the boot ROM on the image: one whose key has the fused digest, whose signature verifies
and whose SVN the fuses allow is measured and started with its configuration, any other fails; while the ROM verifies, BOOTSTATE is 1.
The first heartbeat brings the package up, or completes a live update; a missing one rolls the update back to the other slot after 50
ms, or after 100 ms marks FAILED and raises vector 2. A heartbeat past its time counts as missed; that COUNT holds its value all the same is the model's
choice (log 107). The roll-back shows the old image's measurements again in the log (log 92), fetch resumes with that image's heartbeat (log 108), and the
100 ms count anew from a restart (log 110). A corrected error counts in its saturating counter; a link that goes down raises
vector 2 once; a droop or a throttle changes only timing; at 125 °C the package stops with BOOTSTATE failed and FAILCODE 1, after
which no engine, stream or event but a reset acts. BOOTSTATE at 125 °C (log 42) and what a device reset keeps (log 40) are the
model's choices. -/
def Obligations.BootErrorsHeat : Prop :=
  (
    ∀ (s : State) (img : BootImage) (v : W),
      let m := s.mgmt
      (imageAccepted img m.fuseKey → ∃ t, exec (.deviceReset img) s = .next t ∧ t.mgmt.boot = .starting ∧ t.mgmt.fwsvn = imageSvn img
        ∧ t.mgmt.cfg = recordOf img.recBytes ∧ t.mgmt.log = [sha256 img.bytes, sha256 img.recBytes] ∧ t.mgmt.sigused = m.sigused
        ∧ t.mgmt.fuseKey = m.fuseKey ∧ t.mgmt.fwslot = false
        ∧ t.cores = State.reset.cores ∧ t.queues = State.reset.queues ∧ t.hbm = State.reset.hbm ∧ t.host = s.host
        ∧ (∀ j, 1 ≤ j → j < 1024 → vget t.mgmt.keys j none = none)
        ∧ ∀ p, p < 8 → (t.part p).dies = (List.range 8).filter (fun d => ((recordOf img.recBytes).parts.getD p []).contains d))
      ∧ (¬ imageAccepted img m.fuseKey → ∃ t, exec (.deviceReset img) s = .next t ∧ t.mgmt.boot = .failed
        ∧ t.cores = State.reset.cores)
      ∧ (s.turn.what = .rom → m.stopped = false → m.boot = .rom →
          step s = .next (tickOver { s with mgmt := { m with boot := .verifying } }))
      ∧ (v ≠ m.hbeat → m.boot = .starting → exec (.hbeat v) s = .next { s with mgmt := { m with
          hbeat := v, boot := .ready, fwRunning := true, beatAt := s.now } })
      ∧ (∀ i, v ≠ m.hbeat → m.boot = .ready → m.updImage = some i → s.now < m.updAt + 50000000 →
          exec (.hbeat v) s = .next { s with mgmt := { m with
            hbeat := v, upd := false, updImage := none, fetchHeld := false, fwRunning := true, beatAt := s.now } })
      ∧ (∀ i, v ≠ m.hbeat → m.boot = .ready → m.updImage = some i → m.updAt + 50000000 ≤ s.now →
          exec (.hbeat v) s = .next { s with mgmt := { m with
            hbeat := v, fwslot := !m.fwslot, fwsvn := if m.fwslot then m.slotSvn0 else m.slotSvn1
            upd := false, updImage := none, rollback := true, fetchHeld := true, fwRunning := false, beatAt := s.now
            log := m.log ++ m.oldMeas, runMeas := m.oldMeas } })
      ∧ (v ≠ m.hbeat → m.boot = .ready → m.updImage = none → m.beatAt + 100000000 ≤ s.now →
          exec (.hbeat v) s = .next { s with
            mgmt := { m with hbeat := v, hbFailed := true, fwRunning := false, beatAt := s.now }, irqs := s.irqs ++ [2] })
      ∧ (v ≠ m.hbeat → m.boot = .ready → m.updImage = none → s.now < m.beatAt + 100000000 →
          exec (.hbeat v) s = .next { s with mgmt := { m with hbeat := v, fetchHeld := false, fwRunning := true, beatAt := s.now } })
      ∧ (m.updImage ≠ none → m.updAt + 50000000 ≤ s.now → exec .updateHbeatTimeout s = .next { s with mgmt := { m with
          fwslot := !m.fwslot, fwsvn := if m.fwslot then m.slotSvn0 else m.slotSvn1
          upd := false, updImage := none, rollback := true, fetchHeld := true, fwRunning := false, beatAt := s.now
          log := m.log ++ m.oldMeas, runMeas := m.oldMeas } })
      ∧ (m.boot = .ready → m.updImage = none → m.beatAt + 100000000 ≤ s.now →
          exec .heartbeatMissed s = .next { s with
            mgmt := { m with hbFailed := true, fwRunning := false, beatAt := s.now }, irqs := s.irqs ++ [2] })
      ∧ (s.now < m.updAt + 50000000 → exec .updateHbeatTimeout s = .next s)
      ∧ (s.now < m.beatAt + 100000000 → exec .heartbeatMissed s = .next s))
  ∧ (
    ∀ (s : State) (ctr : Fin 6) (link : Fin 36) (b : Nat),
      let m := s.mgmt
      let c := vget m.cecnt ctr.val 0
      exec (.correctedError ctr) s = .next { s with mgmt := { m with
        cecnt := vset m.cecnt ctr.val (if c.toNat = 2 ^ 32 - 1 then c else c + 1) } }
      ∧ (link.val ∉ m.linksDown → exec (.linkDown link) s = .next { s with
          mgmt := { m with linksDown := m.linksDown ++ [link.val] }, irqs := s.irqs ++ [2] })
      ∧ (link.val ∈ m.linksDown → exec (.linkDown link) s = .next s)
      ∧ exec (.supplyDroop b) s = .next s ∧ exec (.thermalThrottle b) s = .next s
      ∧ exec .thermalShutdown s = .next { s with mgmt := { m with stopped := true, boot := .failed, failcode := 1 } }
      ∧ (m.stopped = true → (s.turn.what = .engine ∨ s.turn.what = .stream ∨ ∃ i, s.turn.what = .event i ∧ ∀ img, i ≠ .deviceReset img) →
          step s = .next (tickOver s)))

/-! ### Lines, decoding, steps -/

/-- R37-R40, R46, R51, R328: an engine whose lanes are done goes to the next line of the text, which is a delay line while a transfer
is pending, or from a delay line to the pending target; a line reached that is in the text, carries no uncorrected error and
whose header is well formed for the engine is entered at lane 1; one with such an error is a storage data error of the engine (R328);
one whose header is not well formed traps with that word, and one past the text is a text overrun trap with its index. That a line past TEXTLEN which the instruction store still holds has its header checked first
is the model's choice (log 16). -/
def Obligations.LinesAdvance : Prop :=
  ∀ (s : State),
    let k := s.core
    let e := s.eng
    let x := k.ctx e
    let reach (l : Nat) (p : Option LineIx) : Prop :=
      let h := k.lane l 0
      let sound : Prop := s.poisoned (.istore s.turn.core) (32 * l) 32 = false
      (k.halted = none → l < k.textLen → l < 4096 → sound →
        lineBad k e l h false = false → isLb h = false → ∃ t, exec .lineAdvance s = .next t
          ∧ s.Left t e (k.setCtx e { x with
              line := BitVec.ofNat 12 l, lane := 1, wait := none, textErr := false, pend := p, inDelay := x.pend.isSome && p.isSome
              seqNext := none }))
      ∧ (k.canTrap → k.halted = none → l < 4096 → (l < k.textLen ∨ l < k.textLines) → ¬ sound →
          ∃ t, exec .lineAdvance s = .next t ∧ s.OnlyCore t
          ∧ t.core.csr.tcause = 0x0D ∧ t.core.csr.tinfo = BitVec.ofNat 64 (2 ^ 63 + 32 * l) ∧ t.core.ec.line = k.trapv
          ∧ t.core.regs = k.regs)
      ∧ (k.canTrap → k.halted = none → l < 4096 → (l < k.textLen ∨ l < k.textLines) → sound → lineBad k e l h false = true →
          ∃ t, exec .lineAdvance s = .next t ∧ s.OnlyCore t
          ∧ t.core.csr.tcause = 0x02 ∧ t.core.csr.tinfo = h.setWidth 64 ∧ t.core.ec.line = k.trapv ∧ t.core.regs = k.regs)
      ∧ (k.canTrap → k.halted = none → (4096 ≤ l ∨ (k.textLen ≤ l
          ∧ (k.textLines ≤ l ∨ (sound ∧ lineBad k e l h false = false ∧ isLb h = false)))) →
          ∃ t, exec .lineAdvance s = .next t ∧ s.OnlyCore t
          ∧ t.core.csr.tcause = 0x03 ∧ t.core.csr.tinfo = BitVec.ofNat 64 l ∧ t.core.ec.line = k.trapv ∧ t.core.regs = k.regs)
    -- the next line of the text, which is a delay line while a transfer is pending
    (x.loop = none → x.seqNext = none → x.lane ≠ 0 → x.inDelay = false → reach (x.line.toNat + 1) x.pend)
    -- the target of a pending transfer, after its delay line
    ∧ (∀ l, x.loop = none → x.seqNext = none → x.lane ≠ 0 → x.inDelay = true → x.pend = some l → reach l.toNat none)

/-- R38, R39, R101, R109, R110, R165: A STEP RUNS WHAT IT DECODES. At the turn of an engine that stands before an own lane of its
line whose word, with its continuation when it is a two-word instruction, decodes to i, the step is exec of i with that lane's issue
(and the next number for its writes), and what the step adds: the engine's stall counter and slot are settled, waiting engines are
served (R65), time passes and the next turn is chosen (logs 1 and 2). At the turn of a running stream between two entries whose entry,
as it stands in the well then (log 24), decodes to i, it is exec of i, after the read of the entry, which changes nothing where no
write to its bytes is pending (R300, R310); at an event's turn it is exec of the event. -/
def Obligations.StepRunsDecoded : Prop :=
  (∀ (s : State) (i : Instr) (c : W32), s.engineRuns →
    let k := s.core
    let e := s.eng
    let x := k.ctx e
    let h := k.lane x.line.toNat 0
    let w := k.lane x.line.toNat x.lane
    let iss : Issue := {
      line := x.line, lane := x.lane, nextLane := if isLong e w then x.lane + 2 else x.lane + 1, word := w, cont := c }
    1 ≤ x.lane → x.lane ≤ 7 → tagAt h x.lane = (engNum e).toNat → isPfx w = false →
    (isLong e w = true → x.lane < 7 ∧ tagAt h (x.lane + 1) = 14 ∧ c = k.lane x.line.toNat (x.lane + 1)) →
    (isLong e w = false → c = 0) → decodeInstr e w c = some i → x.inDelay = false → x.loop = none →
    (isLoopb i = true → isLb h = true) → (isRett i = true → k.handler ≠ none) →
    (e = .v → k.vp.flights = []) →
    ∃ t, exec i { s with issue := iss, nextId := s.nextId + idStep } = .next t
      ∧ step s = .next (tickOver (settleEngine s i t)))
  ∧ (∀ (s : State) (i : Instr), s.turn.what = .stream → s.mgmt.stopped = false → s.str.state = .active → s.str.cmd = none →
    s.str.waits = none → s.str.fence = none → s.str.walk = none → s.str.inAtomic = false → s.str.waiting = false →
    s.poisoned (.well s.turn.core) s.str.cur.toNat 64 = false →
    let s1 := s.readEntry s.str.cur
    decodeEntry ((List.range 64).map (fun j => s1.core.well.get pathP ((s.str.cur.toNat + j) % 2 ^ 23))) = some i →
    (i = .chainEnd → s.str.completing = []) →
    (∃ t, exec i s1 = .next t ∧ step s = .next (tickOver t)) ∧ (s.core.settledOn s.str.cur.toNat 64 → s1 = s))
  ∧ (∀ (s : State) (i : Instr), s.turn.what = .event i → s.mgmt.stopped = false → isEvent i = true → s.mgmt.boot = .ready →
    ∃ t, exec i s = .next t ∧ step s = .next (tickOver t))

/-- R103-R108, R144, R158, R168-R170, R188, R220, R265: words of each engine and entries of a chain, written out from the field
tables, decode to what they stand for, and words that no row spells are rejected. -/
def Obligations.DecodeWords : Prop :=
  -- ADD d=1 a=2 b=3: op 0x20, d, a, b, func 0
  decodeInstr .c 0b100000_000001_000010_000011_00000000#32 0 = some (.add 1 2 3)
  -- LI d=4: op 0x27, d, imm[51:32]; continuation imm[31:0]
  ∧ decodeInstr .a 0b100111_000100_00000000000000000001#32 0b00000000000000000000000000000010#32 = some (.li 4 0x100000002)
  -- LD d=5 b=6 z=3 i=9: op 0x2C
  ∧ decodeInstr .m 0b101100_000101_000110_11_000000001001#32 0 = some (.ld 5 6 3 9)
  -- SEMP b=2 off=7 n=1: op 0x39, immediate form
  ∧ decodeInstr .v 0b111001_000010_00000111_1_00000000001#32 0 = some (.semp 2 7 1)
  -- CALL of C: op 0x01, kind 1, b=3, g=5, i=63, sense 1, conditional, mask A and M
  ∧ decodeInstr .c 0b000001_01_011_000101_111111_1_0_101_0000#32 0 = some (.call 3 5 63 true 5)
  -- MVX k=7 stream 2 of A
  ∧ decodeInstr .a 0b000000_000111_10_000000000000000000#32 0 = some (.mvx 7 2)
  -- VADD d=1 a=2 b=3 in i32 (type 4), function 0
  ∧ decodeInstr .v 0b000101_000001_000010_000011_0100_0000#32 0 = some (.vadd 1 2 3 4)
  -- VFMA in f32 (type 10): c=4, t2=10, rm=1
  ∧ decodeInstr .v 0b000110_000001_000010_000011_1010_0000#32 0b000100_1010_0_001_000_000000000000000#32
      = some (.vfma 1 2 3 4 10 10 false 1)
  -- ACPY of M, cistern to a-register, adding in i32: func 7
  ∧ decodeInstr .m 0b000110_000011_000101_000000_00000111#32 0 = some (.acpyAddI32ACh 3 5)
  -- a register past the file of A, an unassigned major of M and an unassigned ALU function
  ∧ decodeInstr .a 0b100000_100000_000010_000011_00000000#32 0 = none
  ∧ decodeInstr .m 0b000111_000011_000000_000000_00000001#32 0 = none
  ∧ decodeInstr .c 0b100000_000001_000010_000011_00010110#32 0 = none
  -- FILL of 8-byte elements in the well: KIND 0x0A, SPD 1, ESZ 3, D 0x40, N 2, VAL 5
  ∧ decodeEntry ([0x0A, 0, 0x04, 3] ++ List.replicate 12 0 ++ List.replicate 8 0 ++ [0x40, 0, 0, 0, 0, 0, 0, 0]
      ++ [2, 0, 0, 0] ++ List.replicate 4 0 ++ [5, 0, 0, 0, 0, 0, 0, 0] ++ List.replicate 16 0)
      = some (.fill { spD := 1, esz := 3 } 0x40 2 5)
  -- END of a chain, and an unassigned KIND
  ∧ decodeEntry ([0x26] ++ List.replicate 63 0) = some .chainEnd
  ∧ decodeEntry ([0x0F] ++ List.replicate 63 0) = none

/-- R101, R103-R110, R168-R192: DECODE AND ENCODE AGREE, for every instruction of every engine with every operand that is legal
there, and for every well-formed entry of a chain: the words, or the 64 bytes, of an instruction decode to it. -/
def Obligations.DecodeOfEncode : Prop :=
  (∀ (e : Engine) (i : Instr), wellFormed e i = true →
    decodeInstr e ((encode i).getD 0 0) ((encode i).getD 1 0) = some i
      ∧ (encode i).length = (if isLong e ((encode i).getD 0 0) then 2 else 1))
  ∧ ∀ i : Instr, entryOk i = true → decodeEntry (encodeEntry i) = some i ∧ (encodeEntry i).length = 64

/-- The machine never stops of itself (R328, R330, R342, R365): every step, in any state, answers a next state. -/
def Obligations.EveryStepAnswers : Prop := ∀ s : State, ∃ t, step s = .next t

/-- R324, R325, R347, R354, R356, R359, R360: every step keeps the ranges of the management registers. -/
def Obligations.RangesKept : Prop := ∀ s t : State, s.InRange → step s = .next t → t.InRange

/-- Right after reset: no queue is bound (R335), translation has no context enabled (R317), TSLICE is 2,000 and UCAP 128 in every
partition (R347); and, where the manual states no device-reset value, the model's choices of log 11: no key slot is loaded, every
a-register is invalid, CECNT and FAILCODE are zero, the boot ROM runs, no core holds a cell or text. The ranges of the management
registers hold. -/
def Obligations.ResetState : Prop :=
  let s := State.reset
  s.InRange ∧ (∀ q, (s.queue q).state = .unbound ∧ (s.queue q).evt = 0) ∧ (∀ j, vget s.mgmt.keys j none = none)
    ∧ (∀ c, c < 4096 → vget s.ctxTable c 0 = 0)
    ∧ (∀ p, p < 8 → (s.part p).tslice = 2000 ∧ (s.part p).ucap = 128 ∧ (s.part p).run = none)
    ∧ s.mgmt.boot = .rom ∧ s.mgmt.failcode = 0 ∧ (∀ j, j < 8 → vget s.mgmt.cecnt j 0 = 0)
    ∧ (∀ c, (s.coreAt c).cell = none ∧ (s.coreAt c).mx.valid = 0 ∧ (s.coreAt c).textOk = false)


end
end

