-- ==== Sys2Proof/Laws/Mem.lean ====
section
/-! SUPPORT. Laws of byte memories and of pending writes: read after write, what a write leaves alone, and that every memory
operation keeps the canonical form (R12, R298-R303). -/

namespace Sys2Proof
namespace Machine

/-! ### One byte -/

theorem Memory.get_nil (a : Nat) : Memory.get [] a = 0 := rfl

theorem Memory.get_cons (x : Nat) (y : Byte) (r : Memory) (a : Nat) :
    Memory.get ((x, y) :: r) a = if a = x then y else Memory.get r a := by
  unfold Memory.get
  by_cases h : a = x
  · simp [h, List.lookup]
  · have : (a == x) = false := by simpa using h
    simp [h, List.lookup, this]

theorem Memory.get_filter (m : Memory) (p : Nat → Bool) (a : Nat) :
    Memory.get (m.filter (fun c => p c.1)) a = if p a then Memory.get m a else 0 := by
  induction m with
  | nil => simp [Memory.get_nil]
  | cons c r ih =>
    obtain ⟨x, y⟩ := c
    by_cases hx : p x
    · simp only [List.filter_cons, hx, if_true, Memory.get_cons, ih]
      by_cases h : a = x
      · subst h; simp [hx]
      · simp [h]
    · simp only [List.filter_cons, hx, if_false, Memory.get_cons, ih, Bool.false_eq_true]
      by_cases h : a = x
      · subst h; simp [hx]
      · simp [h]

theorem Memory.get_ins (m : Memory) (a : Nat) (b : Byte) (h : ∀ c ∈ m, c.1 ≠ a) (x : Nat) :
    (Memory.ins m a b).get x = if x = a then b else m.get x := by
  induction m with
  | nil =>
    by_cases hb : b = 0
    · by_cases hx : x = a <;> simp [Memory.ins, hb, Memory.get_nil]
    · rw [Memory.ins, if_neg hb, Memory.get_cons]
  | cons c r ih =>
    obtain ⟨u, v⟩ := c
    have hu : u ≠ a := h (u, v) (by simp)
    have hr : ∀ c ∈ r, c.1 ≠ a := fun c hc => h c (by simp [hc])
    have hg : ∀ q : Memory, (∀ c ∈ q, c.1 ≠ a) → q.get a = 0 := by
      intro q hq
      induction q with
      | nil => rfl
      | cons d s ihs =>
        obtain ⟨p, w⟩ := d
        have hp : a ≠ p := fun e => hq (p, w) (by simp) e.symm
        rw [Memory.get_cons, if_neg hp]
        exact ihs (fun c hc => hq c (by simp [hc]))
    unfold Memory.ins
    by_cases hb : b = 0
    · simp only [hb, if_true]
      by_cases hx : x = a
      · subst hx; simpa using hg _ h
      · simp [hx]
    · simp only [hb, if_false]
      by_cases hlt : a < u
      · simp only [hlt, if_true, Memory.get_cons]
      · simp only [hlt, if_false, Memory.get_cons, ih hr]
        by_cases hx : x = u
        · subst hx; simp [hu]
        · simp [hx]

/-- Read after write: the written byte, and every other byte as before. -/
theorem Memory.get_put (m : Memory) (a : Nat) (b : Byte) (x : Nat) :
    (m.put a b).get x = if x = a then b else m.get x := by
  unfold Memory.put
  rw [Memory.get_ins _ _ _ (by intro c hc; simpa using (List.mem_filter.mp hc).2)]
  by_cases hx : x = a
  · simp [hx]
  · rw [if_neg hx, if_neg hx, Memory.get_filter m (fun y => y != a) x]; simp [hx]

/-- Bytes written together: each address written reads its first byte, every other reads as before. -/
theorem Memory.get_putAll (cs : List (Nat × Byte)) (m : Memory) (x : Nat) :
    (m.putAll cs).get x = (List.lookup x cs).getD (m.get x) := by
  induction cs with
  | nil => rfl
  | cons c r ih =>
    obtain ⟨p, w⟩ := c
    show ((m.putAll r).put p w).get x = _
    rw [Memory.get_put, ih]
    by_cases hx : x = p
    · subst hx; simp [List.lookup]
    · have : (x == p) = false := by simpa using hx
      simp [List.lookup, this, hx]

theorem Memory.get_clear (m : Memory) (lo hi x : Nat) :
    (m.clear lo hi).get x = if lo ≤ x ∧ x < hi then 0 else m.get x := by
  unfold Memory.clear
  rw [Memory.get_filter m (fun y => y < lo || hi ≤ y) x]
  by_cases h : lo ≤ x ∧ x < hi
  · rw [if_pos h, if_neg]; simp; omega
  · rw [if_neg h, if_pos]; simp; omega

/-! ### The canonical form -/

/-- The canonical form as a property of the list: addresses rise strictly and no byte is zero. -/
theorem Memory.wf_iff (m : Memory) :
    m.wf = true ↔ List.Pairwise (fun a b => a.1 < b.1) m ∧ ∀ c ∈ m, c.2 ≠ 0 := by
  induction m with
  | nil => simp [Memory.wf]
  | cons c r ih =>
    obtain ⟨a, b⟩ := c
    cases r with
    | nil => simp [Memory.wf]
    | cons d s =>
      obtain ⟨x, y⟩ := d
      rw [Memory.wf, Bool.and_eq_true, Bool.and_eq_true, ih]
      constructor
      · rintro ⟨⟨hb, hlt⟩, hp, hz⟩
        have hlt : a < x := by simpa using hlt
        refine ⟨?_, ?_⟩
        · rw [List.pairwise_cons]
          refine ⟨?_, hp⟩
          intro q hq
          rcases List.mem_cons.mp hq with rfl | hq
          · exact hlt
          · exact lt_trans hlt ((List.pairwise_cons.mp hp).1 q hq)
        · intro q hq
          rcases List.mem_cons.mp hq with rfl | hq
          · simpa using hb
          · exact hz q hq
      · rintro ⟨hp, hz⟩
        have h1 := (List.pairwise_cons.mp hp)
        refine ⟨⟨?_, ?_⟩, h1.2, fun q hq => hz q (by simp [hq])⟩
        · simpa using hz (a, b) (by simp)
        · simpa using h1.1 (x, y) (by simp)

theorem Memory.wf_filter (m : Memory) (p : Nat × Byte → Bool) (h : m.wf = true) : Memory.wf (m.filter p) = true := by
  rw [Memory.wf_iff] at *
  exact ⟨h.1.filter _, fun c hc => h.2 c (List.mem_filter.mp hc).1⟩

theorem Memory.mem_ins (m : Memory) (a : Nat) (b : Byte) (c : Nat × Byte) (h : c ∈ Memory.ins m a b) :
    c ∈ m ∨ (c = (a, b) ∧ b ≠ 0) := by
  induction m with
  | nil =>
    by_cases hb : b = 0
    · simp [Memory.ins, hb] at h
    · rw [Memory.ins, if_neg hb] at h; exact .inr ⟨by simpa using h, hb⟩
  | cons d r ih =>
    obtain ⟨u, v⟩ := d
    unfold Memory.ins at h
    by_cases hb : b = 0
    · simp only [hb, if_true] at h; exact .inl h
    · simp only [hb, if_false] at h
      by_cases hlt : a < u
      · simp only [hlt, if_true, List.mem_cons] at h
        rcases h with rfl | h
        · exact .inr ⟨rfl, hb⟩
        · exact .inl (by simpa using h)
      · simp only [hlt, if_false, List.mem_cons] at h
        rcases h with rfl | h
        · exact .inl (by simp)
        · rcases ih h with h | h
          · exact .inl (by simp [h])
          · exact .inr h

theorem Memory.wf_ins (m : Memory) (a : Nat) (b : Byte) (h : m.wf = true) (ha : ∀ c ∈ m, c.1 ≠ a) :
    (Memory.ins m a b).wf = true := by
  rw [Memory.wf_iff]
  induction m with
  | nil =>
    by_cases hb : b = 0
    · simp [Memory.ins, hb]
    · rw [Memory.ins, if_neg hb]; simpa using hb
  | cons d r ih =>
    obtain ⟨u, v⟩ := d
    have hw := (Memory.wf_iff _).mp h
    have hr : Memory.wf r = true := (Memory.wf_iff _).mpr ⟨(List.pairwise_cons.mp hw.1).2, fun c hc => hw.2 c (by simp [hc])⟩
    have hu : u ≠ a := ha (u, v) (by simp)
    unfold Memory.ins
    by_cases hb : b = 0
    · simp only [hb, if_true]; exact hw
    · simp only [hb, if_false]
      by_cases hlt : a < u
      · simp only [hlt, if_true]
        refine ⟨?_, ?_⟩
        · rw [List.pairwise_cons]
          refine ⟨?_, hw.1⟩
          intro q hq
          rcases List.mem_cons.mp hq with rfl | hq
          · exact hlt
          · exact lt_trans hlt ((List.pairwise_cons.mp hw.1).1 q hq)
        · intro q hq
          rcases List.mem_cons.mp hq with rfl | hq
          · exact hb
          · exact hw.2 q hq
      · simp only [hlt, if_false]
        have h2 := ih hr (fun c hc => ha c (by simp [hc]))
        refine ⟨?_, ?_⟩
        · rw [List.pairwise_cons]
          refine ⟨?_, h2.1⟩
          intro q hq
          rcases Memory.mem_ins _ _ _ _ hq with hq | ⟨rfl, _⟩
          · exact (List.pairwise_cons.mp hw.1).1 q hq
          · show u < a; omega
        · intro q hq
          rcases List.mem_cons.mp hq with rfl | hq
          · exact hw.2 _ (by simp)
          · exact h2.2 q hq

/-- One byte written keeps the canonical form. -/
theorem Memory.wf_put (m : Memory) (a : Nat) (b : Byte) (h : m.wf = true) : (m.put a b).wf = true :=
  Memory.wf_ins _ _ _ (Memory.wf_filter _ _ h) (by intro c hc; simpa using (List.mem_filter.mp hc).2)

/-- Bytes written keep the canonical form. -/
theorem Memory.wf_putAll (cs : List (Nat × Byte)) (m : Memory) (h : m.wf = true) : (m.putAll cs).wf = true := by
  induction cs with
  | nil => exact h
  | cons c r ih => exact Memory.wf_put _ _ _ ih

/-- A range cleared keeps the canonical form. -/
theorem Memory.wf_clear (m : Memory) (lo hi : Nat) (h : m.wf = true) : (m.clear lo hi).wf = true := Memory.wf_filter _ _ h

/-- Two memories in the canonical form that read alike are equal. -/
theorem Memory.wf_ext (m n : Memory) (hm : m.wf = true) (hn : n.wf = true) (h : ∀ a, m.get a = n.get a) : m = n := by
  induction m generalizing n with
  | nil =>
    cases n with
    | nil => rfl
    | cons d s =>
      obtain ⟨x, y⟩ := d
      have hy := ((Memory.wf_iff _).mp hn).2 (x, y) (by simp)
      have := h x
      rw [Memory.get_nil, Memory.get_cons, if_pos rfl] at this
      exact absurd this.symm hy
  | cons c r ih =>
    obtain ⟨a, b⟩ := c
    have wm := (Memory.wf_iff _).mp hm
    have pm := List.pairwise_cons.mp wm.1
    have hb := wm.2 (a, b) (by simp)
    cases n with
    | nil =>
      have := h a
      rw [Memory.get_nil, Memory.get_cons, if_pos rfl] at this
      exact absurd this hb
    | cons d s =>
      obtain ⟨x, y⟩ := d
      have wn := (Memory.wf_iff _).mp hn
      have pn := List.pairwise_cons.mp wn.1
      have hy := wn.2 (x, y) (by simp)
      have low : ∀ (q : Memory) (t : Nat), (∀ c ∈ q, t < c.1) → q.get t = 0 := by
        intro q t hq
        induction q with
        | nil => rfl
        | cons e u ihu =>
          obtain ⟨p, w⟩ := e
          have hp : t ≠ p := by have := hq (p, w) (by simp); simp only at this; omega
          rw [Memory.get_cons, if_neg hp]
          exact ihu (fun c hc => hq c (by simp [hc]))
      have hax : a = x := by
        rcases Nat.lt_trichotomy a x with hlt | he | hgt
        · have := h a
          rw [Memory.get_cons, if_pos rfl, low ((x, y) :: s) a] at this
          · exact absurd this hb
          · intro c hc
            rcases List.mem_cons.mp hc with rfl | hc
            · exact hlt
            · exact lt_trans hlt (pn.1 c hc)
        · exact he
        · have := h x
          rw [Memory.get_cons x y s, if_pos rfl, low ((a, b) :: r) x] at this
          · exact absurd this.symm hy
          · intro c hc
            rcases List.mem_cons.mp hc with rfl | hc
            · exact hgt
            · exact lt_trans hgt (pm.1 c hc)
      subst hax
      have hby : b = y := by have := h a; simpa [Memory.get_cons] using this
      subst hby
      have hrs : r = s := by
        refine ih s ((Memory.wf_iff _).mpr ⟨pm.2, fun c hc => wm.2 c (by simp [hc])⟩)
          ((Memory.wf_iff _).mpr ⟨pn.2, fun c hc => wn.2 c (by simp [hc])⟩) ?_
        intro t
        by_cases ht : t = a
        · subst ht; rw [low r t pm.1, low s t pn.1]
        · have := h t; simpa [Memory.get_cons, ht] using this
      rw [hrs]

/-! ### Memories with pending writes -/

theorem settle_nil (full : Nat) (base : Memory) : settle full base [] = ⟨base, []⟩ := rfl

/-- Settling keeps the base in its canonical form. -/
theorem settle_wf (full : Nat) (base : Memory) (ws : List PWrite) (h : base.wf = true) :
    (settle full base ws).base.wf = true := by
  induction ws generalizing base with
  | nil => exact h
  | cons w r ih =>
    unfold settle
    by_cases hs : (full &&& w.seen == full) = true
    · simp only [hs, if_true]; exact ih _ (Memory.wf_putAll _ _ h)
    · simp only [hs, if_false, Bool.false_eq_true]; exact h

theorem VMem.push_wf (full : Nat) (v : VMem) (w : PWrite) (h : v.base.wf = true) : (v.push full w).base.wf = true :=
  settle_wf _ _ _ h
theorem VMem.show_wf (full : Nat) (v : VMem) (p : PWrite → Bool) (obs : Nat) (h : v.base.wf = true) :
    (v.show_ full p obs).base.wf = true := settle_wf _ _ _ h
theorem VMem.wipe_wf (v : VMem) (lo hi : Nat) (h : v.base.wf = true) : (v.wipe lo hi).base.wf = true :=
  Memory.wf_clear _ _ _ h
theorem VMem.store_wf (v : VMem) (cs : List (Nat × Byte)) (h : v.base.wf = true) : (v.store cs).base.wf = true :=
  Memory.wf_putAll _ _ h
theorem VMem.pathWrite_wf (v : VMem) (path id : Nat) (cs : List (Nat × Byte)) (h : v.base.wf = true) :
    (v.pathWrite path id cs).base.wf = true := by
  unfold VMem.pathWrite
  generalize chunksOf cs = l
  induction l generalizing v id with
  | nil => exact h
  | cons c r ih => exact ih _ _ (VMem.push_wf _ _ _ h)
theorem VMem.fence_wf (v : VMem) (f s : Nat) (h : v.base.wf = true) : (v.fence f s).base.wf = true :=
  VMem.show_wf _ _ _ _ h

/-- What one pending write does to the byte that observer `o` reads. -/
def PWrite.over (w : PWrite) (o a : Nat) (old : Byte) : Byte :=
  if w.seen.testBit o then (List.lookup a w.cells).getD old else old

theorem VMem.get_eq (v : VMem) (o a : Nat) : v.get o a = v.pend.foldl (fun acc w => w.over o a acc) (v.base.get a) := rfl

theorem testBit_of_and_eq {full seen o : Nat} (h : (full &&& seen == full) = true) (ho : full.testBit o = true) :
    seen.testBit o = true := by
  have h : full &&& seen = full := by simpa using h
  have := congrArg (fun n => n.testBit o) h
  simpa [Nat.testBit_and, ho] using this

/-- Settling changes nothing that an observer in `full` reads. -/
theorem settle_get (full : Nat) (ws : List PWrite) (base : Memory) (o a : Nat) (ho : full.testBit o = true) :
    (settle full base ws).get o a = ws.foldl (fun acc w => w.over o a acc) (base.get a) := by
  induction ws generalizing base with
  | nil => rfl
  | cons w r ih =>
    unfold settle
    by_cases hs : (full &&& w.seen == full) = true
    · simp only [hs, if_true]
      rw [ih, Memory.get_putAll, List.foldl_cons]
      simp [PWrite.over, testBit_of_and_eq hs ho]
    · simp only [hs, if_false, Bool.false_eq_true]; rfl

/-- Settling changes nothing at the end of the coherence order. -/
theorem settle_latest (full : Nat) (ws : List PWrite) (base : Memory) (a : Nat) :
    (settle full base ws).latest a = ws.foldl (fun acc w => (List.lookup a w.cells).getD acc) (base.get a) := by
  induction ws generalizing base with
  | nil => rfl
  | cons w r ih =>
    unfold settle
    by_cases hs : (full &&& w.seen == full) = true
    · simp only [hs, if_true]; rw [ih, Memory.get_putAll, List.foldl_cons]
    · simp only [hs, if_false, Bool.false_eq_true]; rfl

/-- A write appended is read by the observers that have seen it, and leaves every other byte and observer alone. -/
theorem VMem.push_get (full : Nat) (v : VMem) (w : PWrite) (o a : Nat) (ho : full.testBit o = true) :
    (v.push full w).get o a = w.over o a (v.get o a) := by
  rw [VMem.push, settle_get _ _ _ _ _ ho, List.foldl_append, VMem.get_eq]; rfl

theorem VMem.push_latest (full : Nat) (v : VMem) (w : PWrite) (a : Nat) :
    (v.push full w).latest a = (List.lookup a w.cells).getD (v.latest a) := by
  rw [VMem.push, settle_latest, List.foldl_append]; rfl

/-- Showing writes to observers changes nothing at the end of the coherence order. -/
theorem VMem.show_latest (full : Nat) (v : VMem) (p : PWrite → Bool) (obs a : Nat) :
    (v.show_ full p obs).latest a = v.latest a := by
  rw [VMem.show_, settle_latest, List.foldl_map]
  unfold VMem.latest
  congr 1
  funext acc w
  by_cases h : p w = true <;> simp [h]

/-- Showing writes to observers changes nothing that another observer reads. -/
theorem VMem.show_get (full : Nat) (v : VMem) (p : PWrite → Bool) (obs o a : Nat) (ho : full.testBit o = true)
    (hn : obs.testBit o = false) : (v.show_ full p obs).get o a = v.get o a := by
  rw [VMem.show_, settle_get _ _ _ _ _ ho, List.foldl_map, VMem.get_eq]
  congr 1
  funext acc w
  by_cases h : p w = true <;> simp [h, PWrite.over, Nat.testBit_or, hn]

theorem lookup_isSome_iff (cs : List (Nat × Byte)) (a : Nat) :
    (List.lookup a cs).isSome = cs.any (fun c => c.1 == a) := by
  induction cs with
  | nil => rfl
  | cons c r ih =>
    obtain ⟨p, w⟩ := c
    by_cases h : a = p
    · subst h; simp [List.lookup]
    · have h1 : (a == p) = false := by simpa using h
      have h2 : (p == a) = false := by simpa using fun e => h e.symm
      simp [List.lookup, h1, h2, ih]

theorem lookup_filter (cs : List (Nat × Byte)) (p : Nat → Bool) (a : Nat) :
    List.lookup a (cs.filter (fun c => !p c.1)) = if p a then none else List.lookup a cs := by
  induction cs with
  | nil => simp
  | cons c r ih =>
    obtain ⟨x, y⟩ := c
    by_cases hx : p x = true
    · simp only [List.filter_cons, hx, Bool.not_true, Bool.false_eq_true, if_false, ih]
      by_cases h : a = x
      · subst h; simp [hx]
      · have : (a == x) = false := by simpa using h
        simp [List.lookup, this]
    · have hx' : p x = false := by simpa using hx
      simp only [List.filter_cons, hx', Bool.not_false, if_true, List.lookup, ih]
      by_cases h : a = x
      · subst h; simp [hx']
      · have : (a == x) = false := by simpa using h
        simp [this]

theorem cover_foldl (ws : List PWrite) (p : Nat → Bool) (o a : Nat) (x : Byte) :
    (coverPend ws p).foldl (fun acc w => w.over o a acc) x
      = if p a then x else ws.foldl (fun acc w => w.over o a acc) x := by
  unfold coverPend
  rw [List.foldl_map]
  by_cases h : p a = true
  · simp only [h, if_true]
    induction ws with
    | nil => rfl
    | cons w r ih => rw [List.foldl_cons]; simpa [PWrite.over, lookup_filter, h] using ih
  · have h' : p a = false := by simpa using h
    simp [h', PWrite.over, lookup_filter]

/-- Bytes replaced for everyone: every observer reads them, and every other byte is as before. -/
theorem VMem.store_get (v : VMem) (cs : List (Nat × Byte)) (o a : Nat) :
    (v.store cs).get o a = (List.lookup a cs).getD (v.get o a) := by
  have hl := lookup_isSome_iff cs a
  rw [VMem.get_eq, VMem.store, cover_foldl, Memory.get_putAll]
  cases h : List.lookup a cs with
  | none => rw [h] at hl; simp [← hl, VMem.get_eq]
  | some b => rw [h] at hl; simp [← hl]

/-- A range wiped reads zero for every observer, and every other byte is as before. -/
theorem VMem.wipe_get (v : VMem) (lo hi o a : Nat) :
    (v.wipe lo hi).get o a = if lo ≤ a ∧ a < hi then 0 else v.get o a := by
  rw [VMem.get_eq, VMem.wipe, cover_foldl v.pend (fun a => decide (lo ≤ a) && decide (a < hi)), Memory.get_clear]
  by_cases h : lo ≤ a ∧ a < hi
  · simp [h.1, h.2]
  · have : (decide (lo ≤ a) && decide (a < hi)) = false := by simpa using h
    simp [h, this, VMem.get_eq]

end Machine
end Sys2Proof
end

