-- ==== Sys2Proof/Laws/Ops.lean ====
section
/-! SUPPORT. One law for each shared operation, saying once what it can do: contexts, scalar registers, token pushes, grants of
semaphores, completing an instruction, and replacing a core (R41-R43, R64-R66, R125). -/

namespace Sys2Proof
namespace Machine

/-! ### Vectors -/

@[simp] theorem vget_vset {α : Type} {n : Nat} (v : Vector α n) (i j : Nat) (x d : α) :
    vget (vset v i x) j d = if i = j ∧ j < n then x else vget v j d := by
  unfold vget vset
  by_cases h : i = j
  · subst h
    by_cases hn : i < n
    · simp [hn]
    · simp [hn]
  · simp [h]

theorem vget_set {α : Type} {n : Nat} (v : Vector α n) (i j : Nat) (h : i < n) (x d : α) :
    vget (v.set i x h) j d = if i = j then x else vget v j d := by
  unfold vget
  by_cases hij : i = j
  · subst hij; simp [h]
  · simp [hij]

theorem vget_lt {α : Type} {n : Nat} (v : Vector α n) (i : Nat) (h : i < n) (d : α) : vget v i d = v[i] := by
  simp [vget, h]

theorem vget_replicate {α : Type} (n i : Nat) (x : α) : vget (Vector.replicate n x) i x = x := by
  unfold vget
  by_cases h : i < n <;> simp [h]

/-! ### Contexts -/

@[simp] theorem Core.ctx_setCtx (k : Core) (e y : Engine) (x : EngineCtx) :
    (k.setCtx e x).ctx y = if y = e then x else k.ctx y := by
  cases e <;> cases y <;> rfl

@[simp] theorem Core.ctx_modCtx (k : Core) (e y : Engine) (f : EngineCtx → EngineCtx) :
    (k.modCtx e f).ctx y = if y = e then f (k.ctx e) else k.ctx y := by
  simp [Core.modCtx]

theorem Core.setCtx_eq (k : Core) (e : Engine) (x : EngineCtx) :
    k.setCtx e x = { k with ec := (k.setCtx e x).ec, ea := (k.setCtx e x).ea, ev := (k.setCtx e x).ev, em := (k.setCtx e x).em } := by
  cases e <;> rfl

/-- Everything of a core but the four engines' control states. -/
def Core.CtxOnly (k k' : Core) : Prop := k' = { k with ec := k'.ec, ea := k'.ea, ev := k'.ev, em := k'.em }

theorem Core.ctxOnly_modCtx (k : Core) (e : Engine) (f : EngineCtx → EngineCtx) : k.CtxOnly (k.modCtx e f) :=
  Core.setCtx_eq k e _

theorem Core.CtxOnly.refl (k : Core) : k.CtxOnly k := rfl

theorem Core.CtxOnly.trans {a b c : Core} (h : a.CtxOnly b) (h' : b.CtxOnly c) : a.CtxOnly c := by
  unfold Core.CtxOnly at *
  rw [h'] ; rw [h]

/-! ### `Core.Rest` -/

theorem Core.Rest.refl (k : Core) : k.Rest k := rfl

theorem Core.Rest.trans {a b c : Core} (h : a.Rest b) (h' : b.Rest c) : a.Rest c := by
  unfold Core.Rest at *
  rw [h', h]

theorem Core.CtxOnly.rest {a b : Core} (h : a.CtxOnly b) : a.Rest b := by
  unfold Core.CtxOnly at h
  unfold Core.Rest
  rw [h]

/-! ### Tokens -/

theorem Core.rest_tokPush (k : Core) (e : Engine) (ds : List Engine) : k.Rest (k.tokPush e ds) := rfl

/-- What making token pushes can do: token counts, and the pushes due of that engine. -/
structure Core.Pushed (k k' : Core) (e : Engine) : Prop where
  own : k'.ctx e = { k.ctx e with pushes := (k'.ctx e).pushes }
  others : ∀ y, y ≠ e → k'.ctx y = k.ctx y
  eq : k' = { k with ec := k'.ec, ea := k'.ea, ev := k'.ev, em := k'.em, tok := k'.tok }

theorem Core.Pushed.refl (k : Core) (e : Engine) : k.Pushed k e := ⟨rfl, fun _ _ => rfl, rfl⟩

theorem Core.Pushed.trans {a b c : Core} {e : Engine} (h : a.Pushed b e) (h' : b.Pushed c e) : a.Pushed c e := by
  refine ⟨?_, fun y hy => (h'.others y hy).trans (h.others y hy), ?_⟩
  · rw [h'.own, h.own]
  · rw [h'.eq, h.eq]

theorem Core.pushed_modCtx (k : Core) (e : Engine) (f : EngineCtx → EngineCtx)
    (hf : f (k.ctx e) = { k.ctx e with pushes := (f (k.ctx e)).pushes }) : k.Pushed (k.modCtx e f) e := by
  refine ⟨?_, fun y hy => ?_, ?_⟩
  · rw [Core.ctx_modCtx, if_pos rfl]; exact hf
  · rw [Core.ctx_modCtx, if_neg hy]
  · have := Core.setCtx_eq k e (f (k.ctx e))
    unfold Core.modCtx
    rw [this]

theorem Core.pushed_tokPush (k : Core) (e : Engine) (ds : List Engine) : k.Pushed (k.tokPush e ds) e :=
  ⟨by cases e <;> rfl, fun y _ => by cases y <;> rfl, rfl⟩

theorem Core.pushed_flush (k : Core) (e : Engine) : k.Pushed (k.flushPushes e) e := by
  unfold Core.flushPushes
  generalize (k.ctx e).pushes = l
  induction l generalizing k with
  | nil => exact .refl k e
  | cons d r ih =>
    rw [List.foldl_cons]
    split
    · exact ((Core.pushed_tokPush k e d.2).trans (Core.pushed_modCtx _ e _ rfl)).trans (ih _)
    · exact ih _

/-- A push set that becomes due changes token counts and the pushes due of that engine, nothing else (R42). -/
theorem EngineCtx.owe_eq (x : EngineCtx) (at_ : Line × Nat) (ds : List Engine) :
    x.owe at_ ds = { x with pushes := (x.owe at_ ds).pushes } := by
  unfold EngineCtx.owe; split <;> rfl

theorem Core.pushed_due (k : Core) (e : Engine) (at_ : Line × Nat) (ds : List Engine) : k.Pushed (k.duePush e at_ ds) e := by
  unfold Core.duePush
  split
  · exact .refl k e
  · exact (Core.pushed_modCtx k e _ (EngineCtx.owe_eq _ _ _)).trans (Core.pushed_flush _ e)

/-! ### Semaphores and grants (R64-R66) -/

theorem semAt_lt (off : Off) : semAt off + 8 ≤ wellSize := by
  have h := off.isLt
  unfold semAt wellSize
  omega

theorem leBytes_length (n x : Nat) : (leBytes n x).length = n := by
  induction n generalizing x with
  | zero => rfl
  | succ n ih => simp [leBytes, ih]

theorem lookup_cellsAt_none (size a : Nat) (bs : List Byte) (x : Nat) (hs : a + bs.length ≤ size)
    (h : x < a ∨ a + bs.length ≤ x) : List.lookup x (cellsAt size a bs) = none := by
  rw [List.lookup_eq_none_iff]
  intro c hc
  simp only [cellsAt, List.mem_map] at hc
  obtain ⟨p, hp, rfl⟩ := hc
  have h1 : p.1 < bs.length := by simpa using (List.of_mem_zip (a := p.1) (b := p.2) hp).1
  have : x ≠ (a + p.1) % size := by
    rw [Nat.mod_eq_of_lt (by omega)]; omega
  simpa using this

theorem wellAll_testBit {o : Nat} (ho : o < 137) : wellAll.testBit o = true := by
  rw [show wellAll = 2 ^ 137 - 1 from rfl, Nat.testBit_two_pow_sub_one]; simpa using ho

/-- A count written leaves every byte outside the semaphore alone. -/
theorem Core.semWrite_get (k : Core) (id : Nat) (off : Off) (n o a : Nat) (ho : o < 137)
    (h : ¬ (semAt off ≤ a ∧ a < semAt off + 8)) : (k.semWrite id off n).well.get o a = k.well.get o a := by
  have hb := wellAll_testBit ho
  show (VMem.push wellAll k.well _).get o a = _
  rw [VMem.push_get _ _ _ _ _ hb]
  unfold PWrite.over
  rw [lookup_cellsAt_none]
  · simp
  · rw [leBytes_length]; exact semAt_lt off
  · rw [leBytes_length]; omega

/-- What granting waiters can do. -/
structure Core.Granted (k k' : Core) (ws : List (Engine × Off × W32)) : Prop where
  bytes : ∀ o, o < 137 → ∀ a, (¬ ∃ w ∈ ws, semAt w.2.1 ≤ a ∧ a < semAt w.2.1 + 8) → k'.well.get o a = k.well.get o a
  ctxs : ∀ y, k'.ctx y = { k.ctx y with granted := (k'.ctx y).granted, wait := (k'.ctx y).wait }
  eq : k' = { k with ec := k'.ec, ea := k'.ea, ev := k'.ev, em := k'.em, well := k'.well, waiters := k'.waiters }
  /-- An engine's waiting condition is as it was or gone. -/
  why : ∀ y, (k'.ctx y).wait = (k.ctx y).wait ∨ (k'.ctx y).wait = none

theorem Core.granted_list (id : Nat) (ws : List (Engine × Off × W32)) (k : Core) :
    Core.Granted k (Core.grantList id ws k).2 ws := by
  induction ws generalizing k with
  | nil => exact ⟨fun _ _ _ _ => rfl, fun _ => rfl, rfl, fun _ => .inl rfl⟩
  | cons w r ih =>
    obtain ⟨e, off, n⟩ := w
    unfold Core.grantList
    split
    · have hc : ∀ z, (k.semWrite id off (k.semCount off - n.toNat)).ctx z = k.ctx z := fun z => by cases z <;> rfl
      have hk := ih ((k.semWrite id off (k.semCount off - n.toNat)).modCtx e EngineCtx.grant)
      have he := Core.ctxOnly_modCtx (k.semWrite id off (k.semCount off - n.toNat)) e EngineCtx.grant
      refine ⟨?_, ?_, ?_, ?_⟩
      · intro o ho a ha
        rw [hk.bytes o ho a (fun ⟨w, hw, h⟩ => ha ⟨w, by simp [hw], h⟩), he]
        exact Core.semWrite_get k id off _ o a ho (fun h => ha ⟨(e, off, n), by simp, h⟩)
      · intro y
        have h1 := hk.ctxs y
        rw [h1, Core.ctx_modCtx]
        by_cases hy : y = e
        · subst hy; simp [hc, EngineCtx.grant]
        · simp [hy, hc]
      · rw [hk.eq, he]; rfl
      · intro y
        have hw := hk.why y
        rw [Core.ctx_modCtx] at hw
        by_cases hy : y = e
        · subst hy; simp only [if_true] at hw; exact .inr (by simpa [EngineCtx.grant] using hw)
        · simpa [hy, hc] using hw
    · have h := ih k
      exact ⟨fun o ho a ha => h.bytes o ho a (fun ⟨w, hw, hh⟩ => ha ⟨w, by simp [hw], hh⟩), h.ctxs, h.eq, h.why⟩

/-- Testing the waiters (R65): only counts at which they wait, their grants and who still waits can change. -/
theorem Core.granted_grants (k : Core) (id : Nat) : Core.Granted k (k.grants id) k.waiters := by
  unfold Core.grants
  split
  · exact ⟨fun _ _ _ _ => rfl, fun _ => rfl, rfl, fun _ => .inl rfl⟩
  · have h := Core.granted_list id k.waiters k
    generalize Core.grantList id k.waiters k = t at h ⊢
    have hc : ∀ z, ({ t.2 with waiters := t.1 } : Core).ctx z = t.2.ctx z := fun z => by cases z <;> rfl
    refine ⟨h.bytes, fun y => ?_, ?_, fun y => ?_⟩
    · show ({ t.2 with waiters := t.1 } : Core).ctx y = {
        k.ctx y with granted := (({ t.2 with waiters := t.1 } : Core).ctx y).granted,
                     wait := (({ t.2 with waiters := t.1 } : Core).ctx y).wait }
      rw [hc]; exact h.ctxs y
    · show ({ t.2 with waiters := t.1 } : Core) = {
        k with ec := t.2.ec, ea := t.2.ea, ev := t.2.ev, em := t.2.em, well := t.2.well, waiters := t.1 }
      rw [h.eq]
    · show (({ t.2 with waiters := t.1 } : Core).ctx y).wait = _ ∨ (({ t.2 with waiters := t.1 } : Core).ctx y).wait = none
      rw [hc]; exact h.why y

/-! ### Replacing a core -/

theorem Core.grants_halted (k : Core) (id : Nat) : (k.grants id).halted = k.halted := by
  rw [(Core.granted_grants k id).eq]

theorem State.setCoreAt_coreAt (s : State) (c : Fin 128) (k : Core) : (s.setCoreAt c k).coreAt c = k := by
  simp [State.setCoreAt, State.coreAt]

theorem State.core_eq (s : State) : s.core = s.coreAt s.turn.core := rfl

/-- A core replaced by one that has not halted since: the waiters are tested and nothing else happens (R65). -/
theorem State.putCore_eq (s : State) (c : Fin 128) (k : Core) (h : k.halted = (s.coreAt c).halted) :
    s.putCore c k = { s.setCoreAt c (k.grants s.nextId) with nextId := s.nextId + idStep } := by
  unfold State.putCore
  have hh : (k.grants s.nextId).halted = (s.coreAt c).halted := by rw [Core.grants_halted, h]
  simp only [hh]
  cases (s.coreAt c).halted <;> rfl

/-- What a meaning within a core answers when the core has not halted in it. -/
theorem onCore_eq (s : State) (f : Core → Core) (h : (f s.core).halted = s.core.halted) :
    onCore s f = .next { s.setCoreAt s.turn.core ((f s.core).grants s.nextId) with nextId := s.nextId + idStep } := by
  unfold onCore
  rw [State.putCore_eq _ _ _ h]

/-! ### How a step leaves the core -/

theorem State.core_setCore (s : State) (k : Core) (n : Nat) :
    ({ s.setCoreAt s.turn.core k with nextId := n } : State).core = k := by simp [State.core, State.setCoreAt]

/-- A meaning within the core leaves the core as it computed it, but for grants (R65). -/
theorem onCore_left (s : State) (f : Core → Core) (e : Engine) (hh : (f s.core).halted = s.core.halted) :
    ∃ t, onCore s f = .next t ∧ s.Left t e (f s.core) ∧ t.core.tok = (f s.core).tok := by
  have hg := Core.granted_grants (f s.core) s.nextId
  have hc := State.core_setCore s ((f s.core).grants s.nextId) (s.nextId + idStep)
  refine ⟨_, onCore_eq s f hh, ⟨?_, ?_, ?_, ?_, ?_, ?_⟩, ?_⟩
  · unfold State.OnlyCore; rw [hc]
  · rw [hc]; exact ⟨by rw [hg.ctxs e], hg.why e⟩
  · intro x _; rw [hc]; exact ⟨hg.ctxs x, hg.why x⟩
  · rw [hc]; unfold Core.Rest; rw [hg.eq]
  · rw [hc]; exact hg.bytes
  · intro _ _; rw [hc, hg.eq]
  · rw [hc, hg.eq]

/-- Making token pushes leaves the core as it was but for them (R42). -/
theorem State.Left.pushed {s t : State} {e : Engine} {k k' : Core} (h : s.Left t e k') (hp : k.Pushed k' e)
    (ht : s.issue.pushes = [] → (k.ctx e).pushes = [] → t.core.tok = k.tok) : s.Left t e k := by
  refine ⟨h.outside, ⟨?_, ?_⟩, ?_, ?_, ?_, ht⟩
  · rw [h.own.1, hp.own]
  · have := h.own.2; rw [hp.own] at this; exact this
  · intro x hx; have := h.others x hx; rw [hp.others x hx] at this; exact this
  · have := h.rest; unfold Core.Rest at this ⊢; rw [this, hp.eq]
  · intro o ho a ha
    have hw : k'.waiters = k.waiters := by rw [hp.eq]
    have hl : k'.well = k.well := by rw [hp.eq]
    rw [h.bytes o ho a (by unfold Core.awaited; rw [hw]; exact ha), hl]

theorem Core.flush_nil (k : Core) (e : Engine) (h : (k.ctx e).pushes = []) : k.flushPushes e = k := by
  unfold Core.flushPushes; rw [h]; rfl

/-- A meaning within the core that ends in making its instruction's token pushes (R42). -/
theorem onCore_due (s : State) (f g : Core → Core) (e : Engine) (l : Line × Nat)
    (hf : f s.core = (g s.core).duePush e l s.issue.pushes)
    (hh : (g s.core).halted = s.core.halted) : ∃ t, onCore s f = .next t ∧ s.Left t e (g s.core) := by
  have hp := Core.pushed_due (g s.core) e l s.issue.pushes
  obtain ⟨t, h1, h2, h3⟩ := onCore_left s f e (by rw [hf, hp.eq]; exact hh)
  rw [hf] at h2 h3
  refine ⟨t, h1, h2.pushed hp ?_⟩
  intro hi hk
  rw [h3, hi]
  rfl

/-- A meaning within the core that ends in completing its instruction (R42). -/
theorem onCore_done (s : State) (f g : Core → Core) (e : Engine) (hf : f s.core = (g s.core).finish e s.issue)
    (hh : (g s.core).halted = s.core.halted) : ∃ t, onCore s f = .next t ∧ s.Done t e (g s.core) := by
  obtain ⟨t, h1, h2⟩ := onCore_due s f (fun k => (g k).modCtx e (fun x => x.past s.issue)) e s.issue.place hf (by
    have := Core.ctxOnly_modCtx (g s.core) e (fun x => x.past s.issue)
    rw [this]; exact hh)
  exact ⟨t, h1, h2⟩

/-- A meaning within the core that stalls (R73). -/
theorem onCore_waits (s : State) (f : Core → Core) (e : Engine) (w : Wait) (hf : f s.core = s.core.stallOn e w) :
    ∃ t, onCore s f = .next t ∧ s.Waits t e w := by
  obtain ⟨t, h1, h2, _⟩ := onCore_left s f e (by
    have := Core.ctxOnly_modCtx s.core e (fun x => { x with wait := some w })
    rw [hf]; unfold Core.stallOn; rw [this])
  rw [hf] at h2
  exact ⟨t, h1, h2⟩

/-! ### Scalar registers (R125) -/

theorem vget_oob {α : Type} {n : Nat} (v : Vector α n) (i : Nat) (h : n ≤ i) (d : α) : vget v i d = d := by
  unfold vget; simp [h]

/-- A register write is read back, register 0 stays zero, and no other register changes (R105, R125). -/
theorem Core.wrote_setS (k : Core) (e : Engine) (d : Reg) (x : W) (hd : sReg e d = true) : k.Wrote (k.setS e d x) e d x := by
  have hne : ∀ r : Reg, r ≠ d → d.toNat ≠ r.toNat := fun r h he => h (BitVec.eq_of_toNat_eq he.symm)
  by_cases h0 : d = 0
  · subst h0; exact ⟨fun y r => by simp [Core.setS], by simp [Core.setS]⟩
  · have hlt : d.toNat < scalarCount e := by simpa [sReg] using hd
    refine ⟨fun y r => ?_, ?_⟩
    · unfold Core.getS Core.setS
      by_cases hr : r = 0
      · subst hr; simp only [if_true]; rw [if_neg (fun h => h0 h.2.1.symm)]
      · by_cases hrd : r = d
        · subst hrd
          cases e <;> cases y <;> simp_all [scalarCount]
        · cases e <;> cases y <;> simp_all
    · unfold Core.setS; simp only [h0, if_false]; cases e <;> rfl

theorem Core.setS_rest (k : Core) (e : Engine) (d : Reg) (x : W) : k.setS e d x = { k with regs := (k.setS e d x).regs } := by
  unfold Core.setS; split
  · rfl
  · cases e <;> rfl

theorem Core.setDz_eq (k : Core) (e : Engine) : k.setDz e = { k with csr := (k.setDz e).csr } := by cases e <;> rfl

theorem Core.Wrote.congr {k k' l l' : Core} {e : Engine} {d : Reg} {x : W} (h : k.Wrote k' e d x)
    (hl : l.regs = k.regs) (hl' : l'.regs = k'.regs) : l.Wrote l' e d x := by
  obtain ⟨h1, h2⟩ := h
  refine ⟨fun y r => ?_, by rw [hl', hl]; exact h2⟩
  have := h1 y r
  simp only [Core.getS] at this ⊢
  rw [hl', hl]; exact this

/-- What a scalar result of C, A or M does to its core: the register, DZ, and completion (R125, R126). -/
theorem Core.put_eq (k : Core) (e : Engine) (i : Issue) (r : Reg) (x : W) (dz : Bool) (he : e ≠ .v) :
    k.put e i r x dz = ((if dz && r != 0 then k.setDz e else k).setS e r x).finish e i := by
  cases e <;> first | rfl | exact absurd rfl he

theorem Core.setS_halted (k : Core) (e : Engine) (r : Reg) (x : W) : (k.setS e r x).halted = k.halted := by
  rw [Core.setS_rest]
theorem Core.setDz_halted (k : Core) (e : Engine) : (k.setDz e).halted = k.halted := by rw [Core.setDz_eq]

/-- A scalar result of C, A or M: how the core is left (R125, R126). -/
theorem onCore_put (s : State) (g : Core → Core) (e : Engine) (d : Reg) (x : W) (dz : Bool) (he : e ≠ .v)
    (hh : (g s.core).halted = s.core.halted) :
    ∃ t, onCore s (fun k => (g k).put e s.issue d x dz) = .next t
      ∧ s.Done t e ((if dz && d != 0 then (g s.core).setDz e else g s.core).setS e d x) := by
  refine onCore_done s _ (fun k => (if dz && d != 0 then (g k).setDz e else g k).setS e d x) e ?_ ?_
  · exact Core.put_eq _ _ _ _ _ _ he
  · rw [Core.setS_halted]; split
    · rw [Core.setDz_halted]; exact hh
    · exact hh

/-- A scalar result of V: how the core is left, its result in flight (R125, R210). -/
theorem onCore_putV (s : State) (g : Core → Core) (d : Reg) (x : W) (dz : Bool) (hh : (g s.core).halted = s.core.halted) :
    ∃ t, onCore s (fun k => (g k).put .v s.issue d x dz) = .next t
      ∧ s.Done t .v ((g s.core).fly 2 (.scalar d x) (if dz && d != 0 then Flags.dz else 0) s.issue) := by
  obtain ⟨t, h1, h2, _⟩ := onCore_left s (fun k => (g k).put .v s.issue d x dz) .v (by
    show (((g s.core).fly 2 _ _ _).modCtx .v _).halted = _
    rw [Core.ctxOnly_modCtx]; exact hh)
  exact ⟨t, h1, h2⟩

end Machine
end Sys2Proof
end

