-- ==== Sys2Proof/Laws/Crypto.lean ====
section
/-! SUPPORT. Lengths of what the hashes and the signature scheme give. -/

namespace Sys2Proof
namespace Machine

theorem shaRound_length (h : List (BitVec 32)) (kw : BitVec 32 × BitVec 32) : (shaRound h kw).length = h.length := by
  unfold shaRound; split <;> simp

theorem foldl_shaRound_length (l : List (BitVec 32 × BitVec 32)) (h : List (BitVec 32)) : (l.foldl shaRound h).length = h.length := by
  induction l generalizing h with
  | nil => rfl
  | cons x l ih => rw [List.foldl_cons, ih, shaRound_length]

theorem shaBlock_length (h : List (BitVec 32)) (blk : List Byte) : (shaBlock h blk).length = h.length := by
  simp [shaBlock, foldl_shaRound_length]

theorem shaBlocks_length (n : Nat) (bs : List Byte) (h : List (BitVec 32)) : (shaBlocks n bs h).length = h.length := by
  induction n generalizing bs h with
  | zero => rfl
  | succ n ih => rw [shaBlocks, ih, shaBlock_length]

/-- A digest has 32 bytes. -/
theorem sha256_length (m : List Byte) : (sha256 m).length = 32 := by
  have h : ∀ l : List (BitVec 32), (l.flatMap (fun x => beBytes 4 x.toNat)).length = 4 * l.length := by
    intro l
    induction l with
    | nil => rfl
    | cons x l ih =>
      rw [List.flatMap_cons, List.length_append, ih, List.length_cons, beBytes, List.length_reverse, leBytes_length]; omega
  simp only [sha256, h, shaBlocks_length]
  rfl

theorem lmsClimb_length (id : List Byte) (n : Nat) (l : List (List Byte)) (x : List Byte) (hx : x.length = 32) :
    (lmsClimb id n l x).length = 32 := by
  induction l generalizing n x with
  | nil => exact hx
  | cons s r ih => exact ih _ _ (sha256_length _)

/-- The candidate for the root of a tree has 32 bytes. -/
theorem lmsCandidate_length (w p ls h : Nat) (id sig msg : List Byte) : (lmsCandidate w p ls h id sig msg).length = 32 :=
  lmsClimb_length _ _ _ _ (sha256_length _)

end Machine
end Sys2Proof
end

