-- ==== Sys2Proof/Laws/Encode.lean ====
section
/-! SUPPORT. The equations of the encoder and of the well-formedness checks, constructor by constructor, true by unfolding: a proof
rewrites with these and never unfolds a function over all rows. -/

namespace Sys2Proof

@[simp] theorem encode_add (d : Reg) (a : Reg) (b : Reg) : encode (.add d a b) = (eALU 0x00 d a b) := rfl
@[simp] theorem encode_sub (d : Reg) (a : Reg) (b : Reg) : encode (.sub d a b) = (eALU 0x01 d a b) := rfl
@[simp] theorem encode_and (d : Reg) (a : Reg) (b : Reg) : encode (.and d a b) = (eALU 0x02 d a b) := rfl
@[simp] theorem encode_or (d : Reg) (a : Reg) (b : Reg) : encode (.or d a b) = (eALU 0x03 d a b) := rfl
@[simp] theorem encode_xor (d : Reg) (a : Reg) (b : Reg) : encode (.xor d a b) = (eALU 0x04 d a b) := rfl
@[simp] theorem encode_shl (d : Reg) (a : Reg) (b : Reg) : encode (.shl d a b) = (eALU 0x05 d a b) := rfl
@[simp] theorem encode_shr (d : Reg) (a : Reg) (b : Reg) : encode (.shr d a b) = (eALU 0x06 d a b) := rfl
@[simp] theorem encode_sra (d : Reg) (a : Reg) (b : Reg) : encode (.sra d a b) = (eALU 0x07 d a b) := rfl
@[simp] theorem encode_min (d : Reg) (a : Reg) (b : Reg) : encode (.min d a b) = (eALU 0x08 d a b) := rfl
@[simp] theorem encode_max (d : Reg) (a : Reg) (b : Reg) : encode (.max d a b) = (eALU 0x09 d a b) := rfl
@[simp] theorem encode_minw (d : Reg) (a : Reg) (b : Reg) : encode (.minw d a b) = (eALU 0x0A d a b) := rfl
@[simp] theorem encode_maxw (d : Reg) (a : Reg) (b : Reg) : encode (.maxw d a b) = (eALU 0x0B d a b) := rfl
@[simp] theorem encode_mul (d : Reg) (a : Reg) (b : Reg) : encode (.mul d a b) = (eALU 0x0C d a b) := rfl
@[simp] theorem encode_mulh (d : Reg) (a : Reg) (b : Reg) : encode (.mulh d a b) = (eALU 0x0D d a b) := rfl
@[simp] theorem encode_mulhw (d : Reg) (a : Reg) (b : Reg) : encode (.mulhw d a b) = (eALU 0x0E d a b) := rfl
@[simp] theorem encode_div (d : Reg) (a : Reg) (b : Reg) : encode (.div d a b) = (eALU 0x0F d a b) := rfl
@[simp] theorem encode_divw (d : Reg) (a : Reg) (b : Reg) : encode (.divw d a b) = (eALU 0x10 d a b) := rfl
@[simp] theorem encode_rem (d : Reg) (a : Reg) (b : Reg) : encode (.rem d a b) = (eALU 0x11 d a b) := rfl
@[simp] theorem encode_remw (d : Reg) (a : Reg) (b : Reg) : encode (.remw d a b) = (eALU 0x12 d a b) := rfl
@[simp] theorem encode_clz (d : Reg) (a : Reg) : encode (.clz d a) = (eALU 0x13 d a 0) := rfl
@[simp] theorem encode_popc (d : Reg) (a : Reg) : encode (.popc d a) = (eALU 0x14 d a 0) := rfl
@[simp] theorem encode_sel (d : Reg) (a : Reg) (b : Reg) : encode (.sel d a b) = (eALU 0x15 d a b) := rfl
@[simp] theorem encode_addi (d : Reg) (a : Reg) (i : BitVec 14) : encode (.addi d a i) = ([pRI 0x21 d a i]) := rfl
@[simp] theorem encode_andi (d : Reg) (a : Reg) (i : BitVec 14) : encode (.andi d a i) = ([pRI 0x22 d a i]) := rfl
@[simp] theorem encode_ori (d : Reg) (a : Reg) (i : BitVec 14) : encode (.ori d a i) = ([pRI 0x23 d a i]) := rfl
@[simp] theorem encode_xori (d : Reg) (a : Reg) (i : BitVec 14) : encode (.xori d a i) = ([pRI 0x24 d a i]) := rfl
@[simp] theorem encode_shli (d : Reg) (a : Reg) (s : BitVec 6) : encode (.shli d a s) = ([pRS 0x25 d a 0 s]) := rfl
@[simp] theorem encode_shri (d : Reg) (a : Reg) (s : BitVec 6) : encode (.shri d a s) = ([pRS 0x25 d a 1 s]) := rfl
@[simp] theorem encode_srai (d : Reg) (a : Reg) (s : BitVec 6) : encode (.srai d a s) = ([pRS 0x25 d a 2 s]) := rfl
@[simp] theorem encode_lui (d : Reg) (i : BitVec 20) : encode (.lui d i) = ([(0x26 : BitVec 6) ++ d ++ i]) := rfl
@[simp] theorem encode_li (d : Reg) (i : BitVec 52) : encode (.li d i) = ([(0x27 : BitVec 6) ++ d ++ i.extractLsb' 32 20, i.extractLsb' 0 32]) := rfl
@[simp] theorem encode_cmpEq (d : Reg) (a : Reg) (b : Reg) (p : BitVec 6) : encode (.cmpEq d a b p) = ([pCM 0x28 d a b p 0]) := rfl
@[simp] theorem encode_cmpNe (d : Reg) (a : Reg) (b : Reg) (p : BitVec 6) : encode (.cmpNe d a b p) = ([pCM 0x28 d a b p 1]) := rfl
@[simp] theorem encode_cmpLt (d : Reg) (a : Reg) (b : Reg) (p : BitVec 6) : encode (.cmpLt d a b p) = ([pCM 0x28 d a b p 2]) := rfl
@[simp] theorem encode_cmpLtw (d : Reg) (a : Reg) (b : Reg) (p : BitVec 6) : encode (.cmpLtw d a b p) = ([pCM 0x28 d a b p 3]) := rfl
@[simp] theorem encode_cmpGe (d : Reg) (a : Reg) (b : Reg) (p : BitVec 6) : encode (.cmpGe d a b p) = ([pCM 0x29 d a b p 0]) := rfl
@[simp] theorem encode_cmpGew (d : Reg) (a : Reg) (b : Reg) (p : BitVec 6) : encode (.cmpGew d a b p) = ([pCM 0x29 d a b p 1]) := rfl
@[simp] theorem encode_cmpTst (d : Reg) (a : Reg) (b : Reg) (p : BitVec 6) : encode (.cmpTst d a b p) = ([pCM 0x29 d a b p 2]) := rfl
@[simp] theorem encode_cmpTstz (d : Reg) (a : Reg) (b : Reg) (p : BitVec 6) : encode (.cmpTstz d a b p) = ([pCM 0x29 d a b p 3]) := rfl
@[simp] theorem encode_bext (d : Reg) (a : Reg) (p : BitVec 6) (w : BitVec 6) : encode (.bext d a p w) = ([pBF 0x2A d a p w]) := rfl
@[simp] theorem encode_bins (d : Reg) (a : Reg) (p : BitVec 6) (w : BitVec 6) : encode (.bins d a p w) = ([pBF 0x2B d a p w]) := rfl
@[simp] theorem encode_ld (d : Reg) (b : Reg) (z : BitVec 2) (i : BitVec 12) : encode (.ld d b z i) = ([pWA 0x2C d b z i]) := rfl
@[simp] theorem encode_lds (d : Reg) (b : Reg) (z : BitVec 2) (i : BitVec 12) : encode (.lds d b z i) = ([pWA 0x2D d b z i]) := rfl
@[simp] theorem encode_st (d : Reg) (b : Reg) (z : BitVec 2) (i : BitVec 12) : encode (.st d b z i) = ([pWA 0x2E d b z i]) := rfl
@[simp] theorem encode_addr (d : Reg) (a : Reg) (b : Reg) (h : BitVec 2) (i : BitVec 6) : encode (.addr d a b h i) = ([pAX 0x2F d a b h i]) := rfl
@[simp] theorem encode_semw (b : Reg) (o : BitVec 8) (n : BitVec 11) : encode (.semw b o n) = ([pSMI 0x38 b o n]) := rfl
@[simp] theorem encode_semwReg (b : Reg) (o : BitVec 8) (r : Reg) : encode (.semwReg b o r) = ([pSMR 0x38 b o r]) := rfl
@[simp] theorem encode_semp (b : Reg) (o : BitVec 8) (n : BitVec 11) : encode (.semp b o n) = ([pSMI 0x39 b o n]) := rfl
@[simp] theorem encode_sempReg (b : Reg) (o : BitVec 8) (r : Reg) : encode (.sempReg b o r) = ([pSMR 0x39 b o r]) := rfl
@[simp] theorem encode_brf : encode .brf = ([0xE8000000#32]) := rfl
@[simp] theorem encode_brfCall : encode .brfCall = ([0xE9000000#32]) := rfl
@[simp] theorem encode_brfRet : encode .brfRet = ([0xEA000000#32]) := rfl
@[simp] theorem encode_rfjoin : encode .rfjoin = ([0xEC000000#32]) := rfl
@[simp] theorem encode_rfret : encode .rfret = ([0xEC100000#32]) := rfl
@[simp] theorem encode_nop : encode .nop = ([0xFC000000#32]) := rfl
@[simp] theorem encode_endEngine : encode .endEngine = ([0xFC100000#32]) := rfl
@[simp] theorem encode_fence (f : BitVec 5) (s : BitVec 5) : encode (.fence f s) = ([pSY 0x02 (f ++ s ++ (0 : BitVec 10))]) := rfl
@[simp] theorem encode_trap (c : BitVec 16) : encode (.trap c) = ([pSY 0x03 ((0 : BitVec 4) ++ c)]) := rfl
@[simp] theorem encode_send (r : Reg) (e : Engine) : encode (.send r e) = ([pSY 0x04 (r ++ engNum e ++ (0 : BitVec 12))]) := rfl
@[simp] theorem encode_recv (r : Reg) (e : Engine) : encode (.recv r e) = ([pSY 0x05 (r ++ engNum e ++ (0 : BitVec 12))]) := rfl
@[simp] theorem encode_prep (b : BitVec 3) (o : BitVec 13) : encode (.prep b o) = ([(0x00 : BitVec 6) ++ b ++ o ++ (0 : BitVec 10)]) := rfl
@[simp] theorem encode_br (b : BitVec 3) (g : BitVec 6) (i : BitVec 6) (s : Bool) (m : BitVec 3) : encode (.br b g i s m) = ([pBC 0 b g i s false m]) := rfl
@[simp] theorem encode_brUncond (b : BitVec 3) (m : BitVec 3) : encode (.brUncond b m) = ([pBC 0 b 0 0 false true m]) := rfl
@[simp] theorem encode_call (b : BitVec 3) (g : BitVec 6) (i : BitVec 6) (s : Bool) (m : BitVec 3) : encode (.call b g i s m) = ([pBC 1 b g i s false m]) := rfl
@[simp] theorem encode_callUncond (b : BitVec 3) (m : BitVec 3) : encode (.callUncond b m) = ([pBC 1 b 0 0 false true m]) := rfl
@[simp] theorem encode_ret (g : BitVec 6) (i : BitVec 6) (s : Bool) (m : BitVec 3) : encode (.ret g i s m) = ([pBC 2 0 g i s false m]) := rfl
@[simp] theorem encode_retUncond (m : BitVec 3) : encode (.retUncond m) = ([pBC 2 0 0 0 false true m]) := rfl
@[simp] theorem encode_loopb (g : Reg) (l : BitVec 7) (m : BitVec 3) (v : BitVec 4) (w : BitVec 4) : encode (.loopb g l m v w) = ([(0x02 : BitVec 6) ++ g ++ l ++ m ++ v ++ w ++ (0 : BitVec 2)]) := rfl
@[simp] theorem encode_csrr (d : Reg) (i : BitVec 12) : encode (.csrr d i) = ([pCS 0x03 d i]) := rfl
@[simp] theorem encode_csrw (s : Reg) (i : BitVec 12) : encode (.csrw s i) = ([pCS 0x04 s i]) := rfl
@[simp] theorem encode_binit (r : Reg) (p : BitVec 5) : encode (.binit r p) = ([pBA 0x05 r p]) := rfl
@[simp] theorem encode_barv (r : Reg) (p : BitVec 5) : encode (.barv r p) = ([pBA 0x06 r p]) := rfl
@[simp] theorem encode_bwt (r : Reg) (p : BitVec 5) : encode (.bwt r p) = ([pBA 0x07 r p]) := rfl
@[simp] theorem encode_refine (a : Reg) (i : BitVec 14) : encode (.refine a i) = ([pRI 0x08 0 a i]) := rfl
@[simp] theorem encode_launch (d : Reg) (a : Reg) (b : Reg) : encode (.launch d a b) = ([pRR 0x09 d a b 0]) := rfl
@[simp] theorem encode_mcw (s : Reg) (i : BitVec 12) : encode (.mcw s i) = ([pCS 0x0A s i]) := rfl
@[simp] theorem encode_rett : encode .rett = ([0x2C000000#32]) := rfl
@[simp] theorem encode_mvx (k : Reg) (s : BitVec 2) : encode (.mvx k s) = ([pMV 0x00 k s]) := rfl
@[simp] theorem encode_mvq (k : Reg) (s : BitVec 2) : encode (.mvq k s) = ([pMV 0x01 k s]) := rfl
@[simp] theorem encode_mva (k : Reg) (s : BitVec 2) : encode (.mva k s) = ([pMV 0x02 k s]) := rfl
@[simp] theorem encode_mvw (k : Reg) (s : BitVec 2) : encode (.mvw k s) = ([pMV 0x03 k s]) := rfl
@[simp] theorem encode_tdef (b : Reg) (e : Reg) (i : BitVec 8) (l : Reg) : encode (.tdef b e i l) = ([pTT 0x04 b e i l]) := rfl
@[simp] theorem encode_tset (e : Reg) (i : BitVec 8) (s : BitVec 2) : encode (.tset e i s) = ([pTT 0x05 0 e i (s ++ (0 : BitVec 4))]) := rfl
@[simp] theorem encode_tget (d : Reg) (e : Reg) (i : BitVec 8) : encode (.tget d e i) = ([pTT 0x06 d e i 0]) := rfl
@[simp] theorem encode_vld (d : Reg) (s : Reg) (i : BitVec 14) : encode (.vld d s i) = ([pRI 0x00 d s i]) := rfl
@[simp] theorem encode_vst (a : Reg) (s : Reg) (i : BitVec 14) : encode (.vst a s i) = ([pRI 0x01 a s i]) := rfl
@[simp] theorem encode_vldt (d : Reg) (r : Reg) (t : BitVec 8) : encode (.vldt d r t) = ([pTT 0x02 d r t 0]) := rfl
@[simp] theorem encode_vstt (a : Reg) (r : Reg) (t : BitVec 8) : encode (.vstt a r t) = ([pTT 0x03 a r t 0]) := rfl
@[simp] theorem encode_vmov (d : Reg) (a : Reg) (t : BitVec 4) : encode (.vmov d a t) = ([pVR 0x04 d a 0 t 0]) := rfl
@[simp] theorem encode_vsplat (d : Reg) (s : Reg) (t : BitVec 4) : encode (.vsplat d s t) = ([pVR 0x04 d s 0 t 1]) := rfl
@[simp] theorem encode_vmovs (d : Reg) (a : Reg) (i : Reg) (t : BitVec 4) : encode (.vmovs d a i t) = ([pVR 0x04 d a i t 2]) := rfl
@[simp] theorem encode_vadd (d : Reg) (a : Reg) (b : Reg) (t : BitVec 4) : encode (.vadd d a b t) = ([pVR 0x05 d a b t 0x0]) := rfl
@[simp] theorem encode_vsub (d : Reg) (a : Reg) (b : Reg) (t : BitVec 4) : encode (.vsub d a b t) = ([pVR 0x05 d a b t 0x1]) := rfl
@[simp] theorem encode_vmul (d : Reg) (a : Reg) (b : Reg) (t : BitVec 4) : encode (.vmul d a b t) = ([pVR 0x05 d a b t 0x2]) := rfl
@[simp] theorem encode_vmin (d : Reg) (a : Reg) (b : Reg) (t : BitVec 4) : encode (.vmin d a b t) = ([pVR 0x05 d a b t 0x3]) := rfl
@[simp] theorem encode_vmax (d : Reg) (a : Reg) (b : Reg) (t : BitVec 4) : encode (.vmax d a b t) = ([pVR 0x05 d a b t 0x4]) := rfl
@[simp] theorem encode_vabs (d : Reg) (a : Reg) (t : BitVec 4) : encode (.vabs d a t) = ([pVR 0x05 d a 0 t 0x5]) := rfl
@[simp] theorem encode_vneg (d : Reg) (a : Reg) (t : BitVec 4) : encode (.vneg d a t) = ([pVR 0x05 d a 0 t 0x6]) := rfl
@[simp] theorem encode_vand (d : Reg) (a : Reg) (b : Reg) (t : BitVec 4) : encode (.vand d a b t) = ([pVR 0x05 d a b t 0x7]) := rfl
@[simp] theorem encode_vor (d : Reg) (a : Reg) (b : Reg) (t : BitVec 4) : encode (.vor d a b t) = ([pVR 0x05 d a b t 0x8]) := rfl
@[simp] theorem encode_vxor (d : Reg) (a : Reg) (b : Reg) (t : BitVec 4) : encode (.vxor d a b t) = ([pVR 0x05 d a b t 0x9]) := rfl
@[simp] theorem encode_vshl (d : Reg) (a : Reg) (b : Reg) (t : BitVec 4) : encode (.vshl d a b t) = ([pVR 0x05 d a b t 0xA]) := rfl
@[simp] theorem encode_vshr (d : Reg) (a : Reg) (b : Reg) (t : BitVec 4) : encode (.vshr d a b t) = ([pVR 0x05 d a b t 0xB]) := rfl
@[simp] theorem encode_vsra (d : Reg) (a : Reg) (b : Reg) (t : BitVec 4) : encode (.vsra d a b t) = ([pVR 0x05 d a b t 0xC]) := rfl
@[simp] theorem encode_vadds (d : Reg) (a : Reg) (b : Reg) (t : BitVec 4) : encode (.vadds d a b t) = ([pVR 0x05 d a b t 0xD]) := rfl
@[simp] theorem encode_vsubs (d : Reg) (a : Reg) (b : Reg) (t : BitVec 4) : encode (.vsubs d a b t) = ([pVR 0x05 d a b t 0xE]) := rfl
@[simp] theorem encode_vfma (d : Reg) (a : Reg) (b : Reg) (c : Reg) (t : BitVec 4) (t2 : BitVec 4) (dyn : Bool) (rm : BitVec 3) : encode (.vfma d a b c t t2 dyn rm) = ([pVR 0x06 d a b t 0, pVXc c t2 dyn rm 0]) := rfl
@[simp] theorem encode_vfms (d : Reg) (a : Reg) (b : Reg) (c : Reg) (t : BitVec 4) (t2 : BitVec 4) (dyn : Bool) (rm : BitVec 3) : encode (.vfms d a b c t t2 dyn rm) = ([pVR 0x06 d a b t 1, pVXc c t2 dyn rm 0]) := rfl
@[simp] theorem encode_vcmp (d : Reg) (a : Reg) (b : Reg) (t : BitVec 4) (c : BitVec 4) : encode (.vcmp d a b t c) = ([pVR 0x07 d a b t c]) := rfl
@[simp] theorem encode_vsel (d : Reg) (a : Reg) (b : Reg) (t : BitVec 4) : encode (.vsel d a b t) = ([pVR 0x08 d a b t 0]) := rfl
@[simp] theorem encode_vcvt (d : Reg) (a : Reg) (t : BitVec 4) (t2 : BitVec 4) (dyn : Bool) (rm : BitVec 3) : encode (.vcvt d a t t2 dyn rm) = ([pVR 0x09 d a 0 t 0, pVXc 0 t2 dyn rm 0]) := rfl
@[simp] theorem encode_vwid (d : Reg) (a : Reg) (t : BitVec 4) (t2 : BitVec 4) (dyn : Bool) (rm : BitVec 3) : encode (.vwid d a t t2 dyn rm) = ([pVR 0x0A d a 0 t 0, pVXc 0 t2 dyn rm 0]) := rfl
@[simp] theorem encode_vnar (d : Reg) (a : Reg) (t : BitVec 4) (t2 : BitVec 4) (dyn : Bool) (rm : BitVec 3) : encode (.vnar d a t t2 dyn rm) = ([pVR 0x0B d a 0 t 0, pVXc 0 t2 dyn rm 0]) := rfl
@[simp] theorem encode_vscl (d : Reg) (a : Reg) (b : Reg) (t : BitVec 4) (t2 : BitVec 4) (dyn : Bool) (rm : BitVec 3) (p : BitVec 3) : encode (.vscl d a b t t2 dyn rm p) = ([pVR 0x0C d a b t 0, pVXc 0 t2 dyn rm p]) := rfl
@[simp] theorem encode_vamax (d : Reg) (a : Reg) (t : BitVec 4) (f : BitVec 4) : encode (.vamax d a t f) = ([pVR 0x0D d a 0 t f]) := rfl
@[simp] theorem encode_vqnt (d : Reg) (a : Reg) (b : Reg) (t : BitVec 4) (t2 : BitVec 4) (dyn : Bool) (rm : BitVec 3) (p : BitVec 3) : encode (.vqnt d a b t t2 dyn rm p) = ([pVR 0x0E d a b t 0, pVXc 0 t2 dyn rm p]) := rfl
@[simp] theorem encode_vrcp (d : Reg) (a : Reg) (t : BitVec 4) : encode (.vrcp d a t) = ([pVR 0x0F d a 0 t 0]) := rfl
@[simp] theorem encode_vsqrt (d : Reg) (a : Reg) (t : BitVec 4) : encode (.vsqrt d a t) = ([pVR 0x0F d a 0 t 1]) := rfl
@[simp] theorem encode_vrsq (d : Reg) (a : Reg) (t : BitVec 4) : encode (.vrsq d a t) = ([pVR 0x0F d a 0 t 2]) := rfl
@[simp] theorem encode_vexp2 (d : Reg) (a : Reg) (t : BitVec 4) : encode (.vexp2 d a t) = ([pVR 0x0F d a 0 t 3]) := rfl
@[simp] theorem encode_vlog2 (d : Reg) (a : Reg) (t : BitVec 4) : encode (.vlog2 d a t) = ([pVR 0x0F d a 0 t 4]) := rfl
@[simp] theorem encode_vperm (d : Reg) (a : Reg) (b : Reg) (c : Reg) (t : BitVec 4) : encode (.vperm d a b c t) = ([pVR 0x10 d a b t 0, pVXc c 0 false 0 0]) := rfl
@[simp] theorem encode_vred (d : Reg) (a : Reg) (t : BitVec 4) (o : BitVec 4) : encode (.vred d a t o) = ([pVR 0x11 d a 0 t o]) := rfl
@[simp] theorem encode_vscan (d : Reg) (a : Reg) (t : BitVec 4) (x : Bool) (o : BitVec 2) : encode (.vscan d a t x o) = ([pVR 0x12 d a 0 t ((0 : BitVec 1) ++ BitVec.ofBool x ++ o)]) := rfl
@[simp] theorem encode_vbcst (d : Reg) (a : Reg) (i : Reg) (t : BitVec 4) : encode (.vbcst d a i t) = ([pVR 0x13 d a i t 0]) := rfl
@[simp] theorem encode_vvoteAny (d : Reg) (a : Reg) (t : BitVec 4) : encode (.vvoteAny d a t) = ([pVR 0x14 d a 0 t 0]) := rfl
@[simp] theorem encode_vvoteAll (d : Reg) (a : Reg) (t : BitVec 4) : encode (.vvoteAll d a t) = ([pVR 0x14 d a 0 t 1]) := rfl
@[simp] theorem encode_vbnet (d : Reg) (a : Reg) (p : BitVec 3) : encode (.vbnet d a p) = ([pVR 0x15 d a 0 0 ((0 : BitVec 1) ++ p)]) := rfl
@[simp] theorem encode_vbpat (p : Reg) (s : Reg) (i : BitVec 14) : encode (.vbpat p s i) = ([pRI 0x16 p s i]) := rfl
@[simp] theorem encode_vchain (s : Reg) (i : BitVec 14) : encode (.vchain s i) = ([pRI 0x17 0 s i]) := rfl
@[simp] theorem encode_vmvl (d : Reg) (p : Reg) (u : BitVec 4) : encode (.vmvl d p u) = ([pVR 0x18 d 0 p 0 u]) := rfl
@[simp] theorem encode_vdot (d : Reg) (a : Reg) (b : Reg) (c : Reg) (t : BitVec 4) (t2 : BitVec 4) : encode (.vdot d a b c t t2) = ([pVR 0x19 d a b t 0, pVXc c t2 false 0 0]) := rfl
@[simp] theorem encode_mgo : encode .mgo = ([0x00000000#32]) := rfl
@[simp] theorem encode_mgoKeep : encode .mgoKeep = ([0x00000001#32]) := rfl
@[simp] theorem encode_mma : encode .mma = ([0x04000000#32]) := rfl
@[simp] theorem encode_mmaRst : encode .mmaRst = ([0x04000001#32]) := rfl
@[simp] theorem encode_mcfg (d : Reg) (i : BitVec 11) : encode (.mcfg d i) = ([pCS 0x02 d ((0 : BitVec 1) ++ i)]) := rfl
@[simp] theorem encode_mcfgSh (d : Reg) (i : BitVec 11) : encode (.mcfgSh d i) = ([pCS 0x02 d ((1 : BitVec 1) ++ i)]) := rfl
@[simp] theorem encode_azero (n : Reg) : encode (.azero n) = ([pRR 0x03 n 0 0 0]) := rfl
@[simp] theorem encode_astat (d : Reg) (n : Reg) : encode (.astat d n) = ([pRR 0x04 d n 0 0]) := rfl
@[simp] theorem encode_astatVal (d : Reg) (n : Reg) : encode (.astatVal d n) = ([pRR 0x04 d n 0 1]) := rfl
@[simp] theorem encode_astatCln (d : Reg) (n : Reg) : encode (.astatCln d n) = ([pRR 0x04 d n 0 2]) := rfl
@[simp] theorem encode_arel (n : Reg) : encode (.arel n) = ([pRR 0x05 n 0 0 0]) := rfl
@[simp] theorem encode_acpyChA (d : Reg) (s : Reg) : encode (.acpyChA d s) = ([pRR 0x06 d s 0 0]) := rfl
@[simp] theorem encode_acpyACh (d : Reg) (s : Reg) : encode (.acpyACh d s) = ([pRR 0x06 d s 0 1]) := rfl
@[simp] theorem encode_acpyAddChA (d : Reg) (s : Reg) : encode (.acpyAddChA d s) = ([pRR 0x06 d s 0 2]) := rfl
@[simp] theorem encode_acpyAddACh (d : Reg) (s : Reg) : encode (.acpyAddACh d s) = ([pRR 0x06 d s 0 3]) := rfl
@[simp] theorem encode_acpyI32ChA (d : Reg) (s : Reg) : encode (.acpyI32ChA d s) = ([pRR 0x06 d s 0 4]) := rfl
@[simp] theorem encode_acpyI32ACh (d : Reg) (s : Reg) : encode (.acpyI32ACh d s) = ([pRR 0x06 d s 0 5]) := rfl
@[simp] theorem encode_acpyAddI32ChA (d : Reg) (s : Reg) : encode (.acpyAddI32ChA d s) = ([pRR 0x06 d s 0 6]) := rfl
@[simp] theorem encode_acpyAddI32ACh (d : Reg) (s : Reg) : encode (.acpyAddI32ACh d s) = ([pRR 0x06 d s 0 7]) := rfl
@[simp] theorem encode_crel (n : Reg) : encode (.crel n) = ([pRR 0x07 n 0 0 0]) := rfl
@[simp] theorem encode_cstat (d : Reg) (n : Reg) : encode (.cstat d n) = ([pRR 0x08 d n 0 0]) := rfl
@[simp] theorem encode_cstatClr (d : Reg) (n : Reg) : encode (.cstatClr d n) = ([pRR 0x08 d n 0 1]) := rfl
@[simp] theorem encode_malias : encode .malias = ([0x24000000#32]) := rfl
@[simp] theorem encode_msamp : encode .msamp = ([0x28000000#32]) := rfl
@[simp] theorem encode_msrd (d : Reg) (i : BitVec 12) : encode (.msrd d i) = ([pCS 0x0B d i]) := rfl
@[simp] theorem encode_mswr (s : Reg) (i : BitVec 12) : encode (.mswr s i) = ([pCS 0x0C s i]) := rfl

@[simp] theorem encodeEntry_copy (h : EntHdr) (s : W) (d : W) (n0 : BitVec 16) (n1 : BitVec 16) (n2 : BitVec 16) (n3 : BitVec 16) (a : W32) (b : W32) (c : W32) (x : W32) (y : W32) (z : W32) : encodeEntry (.copy h s d n0 n1 n2 n3 a b c x y z) = (hdrBytes 0x01 h ++ wordBytes 64 s ++ wordBytes 64 d ++ wordBytes 16 n0 ++ wordBytes 16 n1 ++ wordBytes 16 n2 ++ wordBytes 16 n3 ++ wordBytes 32 a ++ wordBytes 32 b ++ wordBytes 32 c ++ wordBytes 32 x ++ wordBytes 32 y ++ wordBytes 32 z) := rfl
@[simp] theorem encodeEntry_gath (h : EntHdr) (s : W) (d : W) (x : W) (n : W32) (r : W32) (t : W) (i : Byte) : encodeEntry (.gath h s d x n r t i) = (hdrBytes 0x02 h ++ wordBytes 64 s ++ wordBytes 64 d ++ wordBytes 64 x ++ wordBytes 32 n ++ wordBytes 32 r ++ wordBytes 64 t ++ [i] ++ zb 7) := rfl
@[simp] theorem encodeEntry_scat (h : EntHdr) (s : W) (d : W) (x : W) (n : W32) (r : W32) (t : W) (i : Byte) : encodeEntry (.scat h s d x n r t i) = (hdrBytes 0x03 h ++ wordBytes 64 s ++ wordBytes 64 d ++ wordBytes 64 x ++ wordBytes 32 n ++ wordBytes 32 r ++ wordBytes 64 t ++ [i] ++ zb 7) := rfl
@[simp] theorem encodeEntry_xpose (h : EntHdr) (s : W) (d : W) (r : W32) (c : W32) (ss : W) (ds : W) : encodeEntry (.xpose h s d r c ss ds) = (hdrBytes 0x04 h ++ wordBytes 64 s ++ wordBytes 64 d ++ wordBytes 32 r ++ wordBytes 32 c ++ wordBytes 64 ss ++ wordBytes 64 ds ++ zb 8) := rfl
@[simp] theorem encodeEntry_conv (h : EntHdr) (s : W) (d : W) (x : W) (n : W32) (sm : Off) (f : BitVec 4) (bf : Bool) (sth : Bool) (rm : BitVec 3) (sl : BitVec 16) (seed : W) : encodeEntry (.conv h s d x n sm f bf sth rm sl seed) = (hdrBytes 0x05 h ++ wordBytes 64 s ++ wordBytes 64 d ++ wordBytes 64 x ++ wordBytes 32 n ++ wordBytes 32 ((0 : BitVec 9) ++ sm) ++ [(0 : BitVec 2) ++ BitVec.ofBool sth ++ BitVec.ofBool bf ++ f, (0 : BitVec 5) ++ rm] ++ wordBytes 16 sl ++ zb 4 ++ wordBytes 64 seed) := rfl
@[simp] theorem encodeEntry_decomp (h : EntHdr) (s : W) (d : W) (n : W32) : encodeEntry (.decomp h s d n) = (hdrBytes 0x06 h ++ wordBytes 64 s ++ wordBytes 64 d ++ wordBytes 32 n ++ zb 28) := rfl
@[simp] theorem encodeEntry_cmprs (h : EntHdr) (s : W) (d : W) (x : W) (y : W) (n : W32) (rm : BitVec 3) (seed : W) : encodeEntry (.cmprs h s d x y n rm seed) = (hdrBytes 0x07 h ++ wordBytes 64 s ++ wordBytes 64 d ++ wordBytes 64 x ++ wordBytes 64 y ++ wordBytes 32 n ++ [(0 : BitVec 5) ++ rm] ++ zb 3 ++ wordBytes 64 seed) := rfl
@[simp] theorem encodeEntry_mcast (h : EntHdr) (s : W) (x : W) (n : W32) (nd : Byte) : encodeEntry (.mcast h s x n nd) = (hdrBytes 0x08 h ++ wordBytes 64 s ++ wordBytes 64 x ++ wordBytes 32 n ++ [nd] ++ zb 27) := rfl
@[simp] theorem encodeEntry_red (h : EntHdr) (x : W) (d : W) (n : W32) (ns : Byte) (op : BitVec 2) (acc : Bool) (t : Byte) : encodeEntry (.red h x d n ns op acc t) = (hdrBytes 0x09 h ++ wordBytes 64 x ++ wordBytes 64 d ++ wordBytes 32 n ++ [ns, (0 : BitVec 5) ++ BitVec.ofBool acc ++ op, t] ++ zb 25) := rfl
@[simp] theorem encodeEntry_fill (h : EntHdr) (d : W) (n : W32) (v : W) : encodeEntry (.fill h d n v) = (hdrBytes 0x0A h ++ zb 8 ++ wordBytes 64 d ++ wordBytes 32 n ++ zb 4 ++ wordBytes 64 v ++ zb 16) := rfl
@[simp] theorem encodeEntry_atom (h : EntHdr) (d : W) (o : W) (c : W) (r : Off) (op : BitVec 3) (w : Bool) : encodeEntry (.atom h d o c r op w) = (hdrBytes 0x0B h ++ zb 8 ++ wordBytes 64 d ++ wordBytes 64 o ++ wordBytes 64 c ++ wordBytes 32 ((0 : BitVec 9) ++ r) ++ [(0 : BitVec 4) ++ BitVec.ofBool w ++ op] ++ zb 11) := rfl
@[simp] theorem encodeEntry_sempr (h : EntHdr) (d : W) (a : W32) : encodeEntry (.sempr h d a) = (hdrBytes 0x0C h ++ zb 8 ++ wordBytes 64 d ++ wordBytes 32 a ++ zb 28) := rfl
@[simp] theorem encodeEntry_flipv (h : EntHdr) (r : Byte) (v : Byte) (i : Bool) : encodeEntry (.flipv h r v i) = (hdrBytes 0x0D h ++ [r, v, (0 : BitVec 7) ++ BitVec.ofBool i] ++ zb 45) := rfl
@[simp] theorem encodeEntry_pref (h : EntHdr) (d : W) (l : W) : encodeEntry (.pref h d l) = (hdrBytes 0x0E h ++ zb 8 ++ wordBytes 64 d ++ wordBytes 64 l ++ zb 24) := rfl
@[simp] theorem encodeEntry_loop (n : W32) (ds : W) (dd : W) (dx : W) : encodeEntry (.loop n ds dd dx) = ([0x20] ++ zb 15 ++ wordBytes 32 n ++ zb 4 ++ wordBytes 64 ds ++ wordBytes 64 dd ++ wordBytes 64 dx ++ zb 16) := rfl
@[simp] theorem encodeEntry_endl : encodeEntry .endl = ([0x21] ++ zb 63) := rfl
@[simp] theorem encodeEntry_ifsem (a : Off) (n : W32) (k : W32) : encodeEntry (.ifsem a n k) = ([0x22] ++ zb 15 ++ wordBytes 32 ((0 : BitVec 9) ++ a) ++ wordBytes 32 n ++ wordBytes 32 k ++ zb 36) := rfl
@[simp] theorem encodeEntry_waits (a : Off) (n : W32) : encodeEntry (.waits a n) = ([0x23] ++ zb 15 ++ wordBytes 32 ((0 : BitVec 9) ++ a) ++ wordBytes 32 n ++ zb 40) := rfl
@[simp] theorem encodeEntry_jmp (o : W32) : encodeEntry (.jmp o) = ([0x24] ++ zb 15 ++ wordBytes 32 o ++ zb 44) := rfl
@[simp] theorem encodeEntry_chainFence (k : Byte) (s : Byte) : encodeEntry (.chainFence k s) = ([0x25] ++ zb 15 ++ [k, s] ++ zb 46) := rfl
@[simp] theorem encodeEntry_chainEnd : encodeEntry .chainEnd = ([0x26] ++ zb 63) := rfl

@[simp] theorem wellFormed_add (e : Engine) (d : Reg) (a : Reg) (b : Reg) : wellFormed e (.add d a b) = (sReg e d && sReg e a && sReg e b) := rfl
@[simp] theorem wellFormed_sub (e : Engine) (d : Reg) (a : Reg) (b : Reg) : wellFormed e (.sub d a b) = (sReg e d && sReg e a && sReg e b) := rfl
@[simp] theorem wellFormed_and (e : Engine) (d : Reg) (a : Reg) (b : Reg) : wellFormed e (.and d a b) = (sReg e d && sReg e a && sReg e b) := rfl
@[simp] theorem wellFormed_or (e : Engine) (d : Reg) (a : Reg) (b : Reg) : wellFormed e (.or d a b) = (sReg e d && sReg e a && sReg e b) := rfl
@[simp] theorem wellFormed_xor (e : Engine) (d : Reg) (a : Reg) (b : Reg) : wellFormed e (.xor d a b) = (sReg e d && sReg e a && sReg e b) := rfl
@[simp] theorem wellFormed_shl (e : Engine) (d : Reg) (a : Reg) (b : Reg) : wellFormed e (.shl d a b) = (sReg e d && sReg e a && sReg e b) := rfl
@[simp] theorem wellFormed_shr (e : Engine) (d : Reg) (a : Reg) (b : Reg) : wellFormed e (.shr d a b) = (sReg e d && sReg e a && sReg e b) := rfl
@[simp] theorem wellFormed_sra (e : Engine) (d : Reg) (a : Reg) (b : Reg) : wellFormed e (.sra d a b) = (sReg e d && sReg e a && sReg e b) := rfl
@[simp] theorem wellFormed_min (e : Engine) (d : Reg) (a : Reg) (b : Reg) : wellFormed e (.min d a b) = (sReg e d && sReg e a && sReg e b) := rfl
@[simp] theorem wellFormed_max (e : Engine) (d : Reg) (a : Reg) (b : Reg) : wellFormed e (.max d a b) = (sReg e d && sReg e a && sReg e b) := rfl
@[simp] theorem wellFormed_minw (e : Engine) (d : Reg) (a : Reg) (b : Reg) : wellFormed e (.minw d a b) = (sReg e d && sReg e a && sReg e b) := rfl
@[simp] theorem wellFormed_maxw (e : Engine) (d : Reg) (a : Reg) (b : Reg) : wellFormed e (.maxw d a b) = (sReg e d && sReg e a && sReg e b) := rfl
@[simp] theorem wellFormed_mul (e : Engine) (d : Reg) (a : Reg) (b : Reg) : wellFormed e (.mul d a b) = (sReg e d && sReg e a && sReg e b) := rfl
@[simp] theorem wellFormed_mulh (e : Engine) (d : Reg) (a : Reg) (b : Reg) : wellFormed e (.mulh d a b) = (sReg e d && sReg e a && sReg e b) := rfl
@[simp] theorem wellFormed_mulhw (e : Engine) (d : Reg) (a : Reg) (b : Reg) : wellFormed e (.mulhw d a b) = (sReg e d && sReg e a && sReg e b) := rfl
@[simp] theorem wellFormed_div (e : Engine) (d : Reg) (a : Reg) (b : Reg) : wellFormed e (.div d a b) = (sReg e d && sReg e a && sReg e b) := rfl
@[simp] theorem wellFormed_divw (e : Engine) (d : Reg) (a : Reg) (b : Reg) : wellFormed e (.divw d a b) = (sReg e d && sReg e a && sReg e b) := rfl
@[simp] theorem wellFormed_rem (e : Engine) (d : Reg) (a : Reg) (b : Reg) : wellFormed e (.rem d a b) = (sReg e d && sReg e a && sReg e b) := rfl
@[simp] theorem wellFormed_remw (e : Engine) (d : Reg) (a : Reg) (b : Reg) : wellFormed e (.remw d a b) = (sReg e d && sReg e a && sReg e b) := rfl
@[simp] theorem wellFormed_sel (e : Engine) (d : Reg) (a : Reg) (b : Reg) : wellFormed e (.sel d a b) = (sReg e d && sReg e a && sReg e b) := rfl
@[simp] theorem wellFormed_clz (e : Engine) (d : Reg) (a : Reg) : wellFormed e (.clz d a) = (sReg e d && sReg e a) := rfl
@[simp] theorem wellFormed_popc (e : Engine) (d : Reg) (a : Reg) : wellFormed e (.popc d a) = (sReg e d && sReg e a) := rfl
@[simp] theorem wellFormed_addi (e : Engine) (d : Reg) (a : Reg) (x2 : BitVec 14) : wellFormed e (.addi d a x2) = (sReg e d && sReg e a) := rfl
@[simp] theorem wellFormed_andi (e : Engine) (d : Reg) (a : Reg) (x2 : BitVec 14) : wellFormed e (.andi d a x2) = (sReg e d && sReg e a) := rfl
@[simp] theorem wellFormed_ori (e : Engine) (d : Reg) (a : Reg) (x2 : BitVec 14) : wellFormed e (.ori d a x2) = (sReg e d && sReg e a) := rfl
@[simp] theorem wellFormed_xori (e : Engine) (d : Reg) (a : Reg) (x2 : BitVec 14) : wellFormed e (.xori d a x2) = (sReg e d && sReg e a) := rfl
@[simp] theorem wellFormed_shli (e : Engine) (d : Reg) (a : Reg) (x2 : BitVec 6) : wellFormed e (.shli d a x2) = (sReg e d && sReg e a) := rfl
@[simp] theorem wellFormed_shri (e : Engine) (d : Reg) (a : Reg) (x2 : BitVec 6) : wellFormed e (.shri d a x2) = (sReg e d && sReg e a) := rfl
@[simp] theorem wellFormed_srai (e : Engine) (d : Reg) (a : Reg) (x2 : BitVec 6) : wellFormed e (.srai d a x2) = (sReg e d && sReg e a) := rfl
@[simp] theorem wellFormed_lui (e : Engine) (d : Reg) (x1 : BitVec 20) : wellFormed e (.lui d x1) = (sReg e d) := rfl
@[simp] theorem wellFormed_li (e : Engine) (d : Reg) (x1 : BitVec 52) : wellFormed e (.li d x1) = (sReg e d) := rfl
@[simp] theorem wellFormed_cmpEq (e : Engine) (d : Reg) (a : Reg) (b : Reg) (x3 : BitVec 6) : wellFormed e (.cmpEq d a b x3) = (sReg e d && sReg e a && sReg e b) := rfl
@[simp] theorem wellFormed_cmpNe (e : Engine) (d : Reg) (a : Reg) (b : Reg) (x3 : BitVec 6) : wellFormed e (.cmpNe d a b x3) = (sReg e d && sReg e a && sReg e b) := rfl
@[simp] theorem wellFormed_cmpLt (e : Engine) (d : Reg) (a : Reg) (b : Reg) (x3 : BitVec 6) : wellFormed e (.cmpLt d a b x3) = (sReg e d && sReg e a && sReg e b) := rfl
@[simp] theorem wellFormed_cmpLtw (e : Engine) (d : Reg) (a : Reg) (b : Reg) (x3 : BitVec 6) : wellFormed e (.cmpLtw d a b x3) = (sReg e d && sReg e a && sReg e b) := rfl
@[simp] theorem wellFormed_cmpGe (e : Engine) (d : Reg) (a : Reg) (b : Reg) (x3 : BitVec 6) : wellFormed e (.cmpGe d a b x3) = (sReg e d && sReg e a && sReg e b) := rfl
@[simp] theorem wellFormed_cmpGew (e : Engine) (d : Reg) (a : Reg) (b : Reg) (x3 : BitVec 6) : wellFormed e (.cmpGew d a b x3) = (sReg e d && sReg e a && sReg e b) := rfl
@[simp] theorem wellFormed_cmpTst (e : Engine) (d : Reg) (a : Reg) (b : Reg) (x3 : BitVec 6) : wellFormed e (.cmpTst d a b x3) = (sReg e d && sReg e a && sReg e b) := rfl
@[simp] theorem wellFormed_cmpTstz (e : Engine) (d : Reg) (a : Reg) (b : Reg) (x3 : BitVec 6) : wellFormed e (.cmpTstz d a b x3) = (sReg e d && sReg e a && sReg e b) := rfl
@[simp] theorem wellFormed_bext (e : Engine) (d : Reg) (a : Reg) (x2 : BitVec 6) (x3 : BitVec 6) : wellFormed e (.bext d a x2 x3) = (sReg e d && sReg e a) := rfl
@[simp] theorem wellFormed_bins (e : Engine) (d : Reg) (a : Reg) (x2 : BitVec 6) (x3 : BitVec 6) : wellFormed e (.bins d a x2 x3) = (sReg e d && sReg e a) := rfl
@[simp] theorem wellFormed_ld (e : Engine) (d : Reg) (b : Reg) (x2 : BitVec 2) (x3 : BitVec 12) : wellFormed e (.ld d b x2 x3) = (sReg e d && sReg e b) := rfl
@[simp] theorem wellFormed_lds (e : Engine) (d : Reg) (b : Reg) (x2 : BitVec 2) (x3 : BitVec 12) : wellFormed e (.lds d b x2 x3) = (sReg e d && sReg e b) := rfl
@[simp] theorem wellFormed_st (e : Engine) (d : Reg) (b : Reg) (x2 : BitVec 2) (x3 : BitVec 12) : wellFormed e (.st d b x2 x3) = (sReg e d && sReg e b) := rfl
@[simp] theorem wellFormed_addr (e : Engine) (d : Reg) (a : Reg) (b : Reg) (x3 : BitVec 2) (x4 : BitVec 6) : wellFormed e (.addr d a b x3 x4) = (sReg e d && sReg e a && sReg e b) := rfl
@[simp] theorem wellFormed_semw (e : Engine) (b : Reg) (x1 : BitVec 8) (x2 : BitVec 11) : wellFormed e (.semw b x1 x2) = (sReg e b) := rfl
@[simp] theorem wellFormed_semp (e : Engine) (b : Reg) (x1 : BitVec 8) (x2 : BitVec 11) : wellFormed e (.semp b x1 x2) = (sReg e b) := rfl
@[simp] theorem wellFormed_semwReg (e : Engine) (b : Reg) (x1 : BitVec 8) (r : Reg) : wellFormed e (.semwReg b x1 r) = (sReg e b && sReg e r) := rfl
@[simp] theorem wellFormed_sempReg (e : Engine) (b : Reg) (x1 : BitVec 8) (r : Reg) : wellFormed e (.sempReg b x1 r) = (sReg e b && sReg e r) := rfl
@[simp] theorem wellFormed_brf (e : Engine) : wellFormed e .brf = (e != .c) := rfl
@[simp] theorem wellFormed_brfCall (e : Engine) : wellFormed e .brfCall = (e != .c) := rfl
@[simp] theorem wellFormed_brfRet (e : Engine) : wellFormed e .brfRet = (e != .c) := rfl
@[simp] theorem wellFormed_rfjoin (e : Engine) : wellFormed e .rfjoin = (e != .c) := rfl
@[simp] theorem wellFormed_rfret (e : Engine) : wellFormed e .rfret = (true) := rfl
@[simp] theorem wellFormed_nop (e : Engine) : wellFormed e .nop = (true) := rfl
@[simp] theorem wellFormed_endEngine (e : Engine) : wellFormed e .endEngine = (true) := rfl
@[simp] theorem wellFormed_fence (e : Engine) (x0 : BitVec 5) (x1 : BitVec 5) : wellFormed e (.fence x0 x1) = (true) := rfl
@[simp] theorem wellFormed_trap (e : Engine) (x0 : BitVec 16) : wellFormed e (.trap x0) = (true) := rfl
@[simp] theorem wellFormed_send (e : Engine) (r : Reg) (x : Engine) : wellFormed e (.send r x) = (sReg e r && x != e) := rfl
@[simp] theorem wellFormed_recv (e : Engine) (r : Reg) (x : Engine) : wellFormed e (.recv r x) = (sReg e r && x != e) := rfl
@[simp] theorem wellFormed_prep (e : Engine) (x0 : BitVec 3) (x1 : BitVec 13) : wellFormed e (.prep x0 x1) = (e == .c) := rfl
@[simp] theorem wellFormed_br (e : Engine) (x0 : BitVec 3) (g : BitVec 6) (x2 : BitVec 6) (x3 : Bool) (x4 : BitVec 3) : wellFormed e (.br x0 g x2 x3 x4) = (e == .c && sReg e g) := rfl
@[simp] theorem wellFormed_call (e : Engine) (x0 : BitVec 3) (g : BitVec 6) (x2 : BitVec 6) (x3 : Bool) (x4 : BitVec 3) : wellFormed e (.call x0 g x2 x3 x4) = (e == .c && sReg e g) := rfl
@[simp] theorem wellFormed_ret (e : Engine) (g : BitVec 6) (x1 : BitVec 6) (x2 : Bool) (x3 : BitVec 3) : wellFormed e (.ret g x1 x2 x3) = (e == .c && sReg e g) := rfl
@[simp] theorem wellFormed_brUncond (e : Engine) (x0 : BitVec 3) (x1 : BitVec 3) : wellFormed e (.brUncond x0 x1) = (e == .c) := rfl
@[simp] theorem wellFormed_callUncond (e : Engine) (x0 : BitVec 3) (x1 : BitVec 3) : wellFormed e (.callUncond x0 x1) = (e == .c) := rfl
@[simp] theorem wellFormed_retUncond (e : Engine) (x0 : BitVec 3) : wellFormed e (.retUncond x0) = (e == .c) := rfl
@[simp] theorem wellFormed_loopb (e : Engine) (g : Reg) (x1 : BitVec 7) (x2 : BitVec 3) (x3 : BitVec 4) (x4 : BitVec 4) : wellFormed e (.loopb g x1 x2 x3 x4) = (e == .c && sReg e g) := rfl
@[simp] theorem wellFormed_csrr (e : Engine) (r : Reg) (i : BitVec 12) : wellFormed e (.csrr r i) = (e == .c && sReg e r && csrOk i) := rfl
@[simp] theorem wellFormed_csrw (e : Engine) (r : Reg) (i : BitVec 12) : wellFormed e (.csrw r i) = (e == .c && sReg e r && csrOk i) := rfl
@[simp] theorem wellFormed_binit (e : Engine) (r : Reg) (x1 : BitVec 5) : wellFormed e (.binit r x1) = (e == .c && sReg e r) := rfl
@[simp] theorem wellFormed_barv (e : Engine) (r : Reg) (x1 : BitVec 5) : wellFormed e (.barv r x1) = (e == .c && sReg e r) := rfl
@[simp] theorem wellFormed_bwt (e : Engine) (r : Reg) (x1 : BitVec 5) : wellFormed e (.bwt r x1) = (e == .c && sReg e r) := rfl
@[simp] theorem wellFormed_refine (e : Engine) (a : Reg) (x1 : BitVec 14) : wellFormed e (.refine a x1) = (e == .c && sReg e a) := rfl
@[simp] theorem wellFormed_launch (e : Engine) (d : Reg) (a : Reg) (b : Reg) : wellFormed e (.launch d a b) = (e == .c && sReg e d && sReg e a && sReg e b) := rfl
@[simp] theorem wellFormed_mcw (e : Engine) (r : Reg) (i : BitVec 12) : wellFormed e (.mcw r i) = (e == .c && sReg e r && cfgRw i.toNat) := rfl
@[simp] theorem wellFormed_rett (e : Engine) : wellFormed e .rett = (e == .c) := rfl
@[simp] theorem wellFormed_mvx (e : Engine) (k : Reg) (x1 : BitVec 2) : wellFormed e (.mvx k x1) = (e == .a && sReg e k) := rfl
@[simp] theorem wellFormed_mvq (e : Engine) (k : Reg) (x1 : BitVec 2) : wellFormed e (.mvq k x1) = (e == .a && sReg e k) := rfl
@[simp] theorem wellFormed_mva (e : Engine) (k : Reg) (x1 : BitVec 2) : wellFormed e (.mva k x1) = (e == .a && sReg e k) := rfl
@[simp] theorem wellFormed_mvw (e : Engine) (k : Reg) (x1 : BitVec 2) : wellFormed e (.mvw k x1) = (e == .a && sReg e k) := rfl
@[simp] theorem wellFormed_tdef (e : Engine) (b : Reg) (x : Reg) (x2 : BitVec 8) (l : Reg) : wellFormed e (.tdef b x x2 l) = (e == .a && sReg e b && sReg e x && sReg e l) := rfl
@[simp] theorem wellFormed_tset (e : Engine) (x : Reg) (x1 : BitVec 8) (x2 : BitVec 2) : wellFormed e (.tset x x1 x2) = (e == .a && sReg e x) := rfl
@[simp] theorem wellFormed_tget (e : Engine) (d : Reg) (x : Reg) (x2 : BitVec 8) : wellFormed e (.tget d x x2) = (e == .a && sReg e d && sReg e x) := rfl
@[simp] theorem wellFormed_vld (e : Engine) (d : Reg) (s : Reg) (x2 : BitVec 14) : wellFormed e (.vld d s x2) = (e == .v && vDst d && sReg e s) := rfl
@[simp] theorem wellFormed_vst (e : Engine) (a : Reg) (s : Reg) (x2 : BitVec 14) : wellFormed e (.vst a s x2) = (e == .v && vSrc a && sReg e s) := rfl
@[simp] theorem wellFormed_vldt (e : Engine) (d : Reg) (r : Reg) (x2 : BitVec 8) : wellFormed e (.vldt d r x2) = (e == .v && vDst d && sReg e r) := rfl
@[simp] theorem wellFormed_vstt (e : Engine) (a : Reg) (r : Reg) (x2 : BitVec 8) : wellFormed e (.vstt a r x2) = (e == .v && vSrc a && sReg e r) := rfl
@[simp] theorem wellFormed_vmov (e : Engine) (d : Reg) (a : Reg) (x2 : BitVec 4) : wellFormed e (.vmov d a x2) = (e == .v && vDst d && vSrc a) := rfl
@[simp] theorem wellFormed_vsplat (e : Engine) (d : Reg) (s : Reg) (x2 : BitVec 4) : wellFormed e (.vsplat d s x2) = (e == .v && vDst d && sReg e s) := rfl
@[simp] theorem wellFormed_vmovs (e : Engine) (d : Reg) (a : Reg) (i : Reg) (x3 : BitVec 4) : wellFormed e (.vmovs d a i x3) = (e == .v && sReg e d && vSrc a && sReg e i) := rfl
@[simp] theorem wellFormed_vadd (e : Engine) (d : Reg) (a : Reg) (b : Reg) (t : BitVec 4) : wellFormed e (.vadd d a b t) = (e == .v && v3 d a b && decide (t.toNat < 12)) := rfl
@[simp] theorem wellFormed_vsub (e : Engine) (d : Reg) (a : Reg) (b : Reg) (t : BitVec 4) : wellFormed e (.vsub d a b t) = (e == .v && v3 d a b && decide (t.toNat < 12)) := rfl
@[simp] theorem wellFormed_vmul (e : Engine) (d : Reg) (a : Reg) (b : Reg) (t : BitVec 4) : wellFormed e (.vmul d a b t) = (e == .v && v3 d a b && decide (t.toNat < 12)) := rfl
@[simp] theorem wellFormed_vmin (e : Engine) (d : Reg) (a : Reg) (b : Reg) (t : BitVec 4) : wellFormed e (.vmin d a b t) = (e == .v && v3 d a b && decide (t.toNat < 12)) := rfl
@[simp] theorem wellFormed_vmax (e : Engine) (d : Reg) (a : Reg) (b : Reg) (t : BitVec 4) : wellFormed e (.vmax d a b t) = (e == .v && v3 d a b && decide (t.toNat < 12)) := rfl
@[simp] theorem wellFormed_vabs (e : Engine) (d : Reg) (a : Reg) (t : BitVec 4) : wellFormed e (.vabs d a t) = (e == .v && vDst d && vSrc a && decide (t.toNat < 12)) := rfl
@[simp] theorem wellFormed_vneg (e : Engine) (d : Reg) (a : Reg) (t : BitVec 4) : wellFormed e (.vneg d a t) = (e == .v && vDst d && vSrc a && decide (t.toNat < 12)) := rfl
@[simp] theorem wellFormed_vand (e : Engine) (d : Reg) (a : Reg) (b : Reg) (x3 : BitVec 4) : wellFormed e (.vand d a b x3) = (e == .v && v3 d a b) := rfl
@[simp] theorem wellFormed_vor (e : Engine) (d : Reg) (a : Reg) (b : Reg) (x3 : BitVec 4) : wellFormed e (.vor d a b x3) = (e == .v && v3 d a b) := rfl
@[simp] theorem wellFormed_vxor (e : Engine) (d : Reg) (a : Reg) (b : Reg) (x3 : BitVec 4) : wellFormed e (.vxor d a b x3) = (e == .v && v3 d a b) := rfl
@[simp] theorem wellFormed_vshl (e : Engine) (d : Reg) (a : Reg) (b : Reg) (t : BitVec 4) : wellFormed e (.vshl d a b t) = (e == .v && v3 d a b && typeInt t) := rfl
@[simp] theorem wellFormed_vshr (e : Engine) (d : Reg) (a : Reg) (b : Reg) (t : BitVec 4) : wellFormed e (.vshr d a b t) = (e == .v && v3 d a b && typeInt t) := rfl
@[simp] theorem wellFormed_vsra (e : Engine) (d : Reg) (a : Reg) (b : Reg) (t : BitVec 4) : wellFormed e (.vsra d a b t) = (e == .v && v3 d a b && typeInt t) := rfl
@[simp] theorem wellFormed_vadds (e : Engine) (d : Reg) (a : Reg) (b : Reg) (t : BitVec 4) : wellFormed e (.vadds d a b t) = (e == .v && v3 d a b && typeInt t) := rfl
@[simp] theorem wellFormed_vsubs (e : Engine) (d : Reg) (a : Reg) (b : Reg) (t : BitVec 4) : wellFormed e (.vsubs d a b t) = (e == .v && v3 d a b && typeInt t) := rfl
@[simp] theorem wellFormed_vfma (e : Engine) (d : Reg) (a : Reg) (b : Reg) (c : Reg) (t : BitVec 4) (t2 : BitVec 4) (dyn : Bool) (rm : BitVec 3) : wellFormed e (.vfma d a b c t t2 dyn rm) = (e == .v && vSrc a && vSrc b && rmOk dyn rm && [8, 9, 10, 11].contains t.toNat && (if t2 == t then vDst d && vSrc c else decide (t.toNat < 10) && t2 == 10 && vDstGroup d 2 && vSrcGroup c 2)) := rfl
@[simp] theorem wellFormed_vfms (e : Engine) (d : Reg) (a : Reg) (b : Reg) (c : Reg) (t : BitVec 4) (t2 : BitVec 4) (dyn : Bool) (rm : BitVec 3) : wellFormed e (.vfms d a b c t t2 dyn rm) = (e == .v && vSrc a && vSrc b && rmOk dyn rm && [8, 9, 10, 11].contains t.toNat && (if t2 == t then vDst d && vSrc c else decide (t.toNat < 10) && t2 == 10 && vDstGroup d 2 && vSrcGroup c 2)) := rfl
@[simp] theorem wellFormed_vcmp (e : Engine) (d : Reg) (a : Reg) (b : Reg) (x3 : BitVec 4) (c : BitVec 4) : wellFormed e (.vcmp d a b x3 c) = (e == .v && v3 d a b && decide (c.toNat < 8)) := rfl
@[simp] theorem wellFormed_vsel (e : Engine) (d : Reg) (a : Reg) (b : Reg) (x3 : BitVec 4) : wellFormed e (.vsel d a b x3) = (e == .v && v3 d a b) := rfl
@[simp] theorem wellFormed_vcvt (e : Engine) (d : Reg) (a : Reg) (t : BitVec 4) (t2 : BitVec 4) (dyn : Bool) (rm : BitVec 3) : wellFormed e (.vcvt d a t t2 dyn rm) = (e == .v && vDst d && vSrc a && rmOk dyn rm && typeWidth t == typeWidth t2) := rfl
@[simp] theorem wellFormed_vwid (e : Engine) (d : Reg) (a : Reg) (t : BitVec 4) (t2 : BitVec 4) (dyn : Bool) (rm : BitVec 3) : wellFormed e (.vwid d a t t2 dyn rm) = (e == .v && vSrc a && rmOk dyn rm && decide (typeWidth t < typeWidth t2) && vDstGroup d (typeWidth t2 / typeWidth t)) := rfl
@[simp] theorem wellFormed_vnar (e : Engine) (d : Reg) (a : Reg) (t : BitVec 4) (t2 : BitVec 4) (dyn : Bool) (rm : BitVec 3) : wellFormed e (.vnar d a t t2 dyn rm) = (e == .v && vDst d && rmOk dyn rm && decide (typeWidth t2 < typeWidth t) && vGroup a (typeWidth t / typeWidth t2)) := rfl
@[simp] theorem wellFormed_vscl (e : Engine) (d : Reg) (a : Reg) (b : Reg) (t : BitVec 4) (t2 : BitVec 4) (dyn : Bool) (rm : BitVec 3) (p : BitVec 3) : wellFormed e (.vscl d a b t t2 dyn rm p) = (e == .v && v3 d a b && rmOk dyn rm && decide (12 ≤ t.toNat) && [8, 9, 10].contains t2.toNat && decide (p.toNat < typeWidth t2 / typeWidth t)) := rfl
@[simp] theorem wellFormed_vqnt (e : Engine) (d : Reg) (a : Reg) (b : Reg) (t : BitVec 4) (t2 : BitVec 4) (dyn : Bool) (rm : BitVec 3) (p : BitVec 3) : wellFormed e (.vqnt d a b t t2 dyn rm p) = (e == .v && v3 d a b && rmOk dyn rm && decide (12 ≤ t2.toNat) && [8, 9, 10].contains t.toNat && decide (p.toNat < typeWidth t / typeWidth t2)) := rfl
@[simp] theorem wellFormed_vamax (e : Engine) (d : Reg) (a : Reg) (t : BitVec 4) (f : BitVec 4) : wellFormed e (.vamax d a t f) = (e == .v && vDst d && vSrc a && [8, 9, 10].contains t.toNat && decide (f.toNat < 4)) := rfl
@[simp] theorem wellFormed_vrcp (e : Engine) (d : Reg) (a : Reg) (t : BitVec 4) : wellFormed e (.vrcp d a t) = (e == .v && vDst d && vSrc a && [8, 10].contains t.toNat) := rfl
@[simp] theorem wellFormed_vsqrt (e : Engine) (d : Reg) (a : Reg) (t : BitVec 4) : wellFormed e (.vsqrt d a t) = (e == .v && vDst d && vSrc a && [8, 10].contains t.toNat) := rfl
@[simp] theorem wellFormed_vrsq (e : Engine) (d : Reg) (a : Reg) (t : BitVec 4) : wellFormed e (.vrsq d a t) = (e == .v && vDst d && vSrc a && [8, 10].contains t.toNat) := rfl
@[simp] theorem wellFormed_vexp2 (e : Engine) (d : Reg) (a : Reg) (t : BitVec 4) : wellFormed e (.vexp2 d a t) = (e == .v && vDst d && vSrc a && [8, 10].contains t.toNat) := rfl
@[simp] theorem wellFormed_vlog2 (e : Engine) (d : Reg) (a : Reg) (t : BitVec 4) : wellFormed e (.vlog2 d a t) = (e == .v && vDst d && vSrc a && [8, 10].contains t.toNat) := rfl
@[simp] theorem wellFormed_vperm (e : Engine) (d : Reg) (a : Reg) (b : Reg) (c : Reg) (t : BitVec 4) : wellFormed e (.vperm d a b c t) = (e == .v && v3 d a c && vSrcGroup b (typeCount t / 256)) := rfl
@[simp] theorem wellFormed_vred (e : Engine) (d : Reg) (a : Reg) (t : BitVec 4) (o : BitVec 4) : wellFormed e (.vred d a t o) = (e == .v && sReg e d && vSrc a && (if o.toNat < 3 then decide (t.toNat < 12) else decide (o.toNat < 6) && decide (t.toNat < 8))) := rfl
@[simp] theorem wellFormed_vscan (e : Engine) (d : Reg) (a : Reg) (t : BitVec 4) (x3 : Bool) (o : BitVec 2) : wellFormed e (.vscan d a t x3 o) = (e == .v && vDst d && vSrc a && decide (t.toNat < 12) && decide (o.toNat < 3)) := rfl
@[simp] theorem wellFormed_vbcst (e : Engine) (d : Reg) (a : Reg) (i : Reg) (x3 : BitVec 4) : wellFormed e (.vbcst d a i x3) = (e == .v && vDst d && vSrc a && sReg e i) := rfl
@[simp] theorem wellFormed_vvoteAny (e : Engine) (d : Reg) (a : Reg) (x2 : BitVec 4) : wellFormed e (.vvoteAny d a x2) = (e == .v && sReg e d && vSrc a) := rfl
@[simp] theorem wellFormed_vvoteAll (e : Engine) (d : Reg) (a : Reg) (x2 : BitVec 4) : wellFormed e (.vvoteAll d a x2) = (e == .v && sReg e d && vSrc a) := rfl
@[simp] theorem wellFormed_vbnet (e : Engine) (d : Reg) (a : Reg) (x2 : BitVec 3) : wellFormed e (.vbnet d a x2) = (e == .v && vDst d && vGroup a 2) := rfl
@[simp] theorem wellFormed_vbpat (e : Engine) (p : Reg) (s : Reg) (x2 : BitVec 14) : wellFormed e (.vbpat p s x2) = (e == .v && decide (p.toNat < 8) && sReg e s) := rfl
@[simp] theorem wellFormed_vchain (e : Engine) (s : Reg) (x1 : BitVec 14) : wellFormed e (.vchain s x1) = (e == .v && sReg e s) := rfl
@[simp] theorem wellFormed_vmvl (e : Engine) (d : Reg) (p : Reg) (u : BitVec 4) : wellFormed e (.vmvl d p u) = (e == .v && vDst d && decide (p.toNat < 16) && decide (u.toNat < 8)) := rfl
@[simp] theorem wellFormed_vdot (e : Engine) (d : Reg) (a : Reg) (b : Reg) (c : Reg) (t : BitVec 4) (t2 : BitVec 4) : wellFormed e (.vdot d a b c t t2) = (e == .v && v3 d a b && vSrc c && dotOk t t2) := rfl
@[simp] theorem wellFormed_mgo (e : Engine) : wellFormed e .mgo = (e == .m) := rfl
@[simp] theorem wellFormed_mgoKeep (e : Engine) : wellFormed e .mgoKeep = (e == .m) := rfl
@[simp] theorem wellFormed_mma (e : Engine) : wellFormed e .mma = (e == .m) := rfl
@[simp] theorem wellFormed_mmaRst (e : Engine) : wellFormed e .mmaRst = (e == .m) := rfl
@[simp] theorem wellFormed_malias (e : Engine) : wellFormed e .malias = (e == .m) := rfl
@[simp] theorem wellFormed_msamp (e : Engine) : wellFormed e .msamp = (e == .m) := rfl
@[simp] theorem wellFormed_mcfg (e : Engine) (d : Reg) (i : BitVec 11) : wellFormed e (.mcfg d i) = (e == .m && sReg e d && cfgRead i.toNat) := rfl
@[simp] theorem wellFormed_mcfgSh (e : Engine) (d : Reg) (i : BitVec 11) : wellFormed e (.mcfgSh d i) = (e == .m && sReg e d && cfgRead i.toNat) := rfl
@[simp] theorem wellFormed_azero (e : Engine) (n : Reg) : wellFormed e (.azero n) = (e == .m && decide (n.toNat < 8)) := rfl
@[simp] theorem wellFormed_arel (e : Engine) (n : Reg) : wellFormed e (.arel n) = (e == .m && decide (n.toNat < 8)) := rfl
@[simp] theorem wellFormed_astat (e : Engine) (d : Reg) (n : Reg) : wellFormed e (.astat d n) = (e == .m && sReg e d && decide (n.toNat < 8)) := rfl
@[simp] theorem wellFormed_astatVal (e : Engine) (d : Reg) (n : Reg) : wellFormed e (.astatVal d n) = (e == .m && sReg e d && decide (n.toNat < 8)) := rfl
@[simp] theorem wellFormed_astatCln (e : Engine) (d : Reg) (n : Reg) : wellFormed e (.astatCln d n) = (e == .m && sReg e d && decide (n.toNat < 8)) := rfl
@[simp] theorem wellFormed_acpyChA (e : Engine) (x0 : Reg) (s : Reg) : wellFormed e (.acpyChA x0 s) = (e == .m && decide (s.toNat < 8)) := rfl
@[simp] theorem wellFormed_acpyAddChA (e : Engine) (x0 : Reg) (s : Reg) : wellFormed e (.acpyAddChA x0 s) = (e == .m && decide (s.toNat < 8)) := rfl
@[simp] theorem wellFormed_acpyI32ChA (e : Engine) (x0 : Reg) (s : Reg) : wellFormed e (.acpyI32ChA x0 s) = (e == .m && decide (s.toNat < 8)) := rfl
@[simp] theorem wellFormed_acpyAddI32ChA (e : Engine) (x0 : Reg) (s : Reg) : wellFormed e (.acpyAddI32ChA x0 s) = (e == .m && decide (s.toNat < 8)) := rfl
@[simp] theorem wellFormed_acpyACh (e : Engine) (d : Reg) (x1 : Reg) : wellFormed e (.acpyACh d x1) = (e == .m && decide (d.toNat < 8)) := rfl
@[simp] theorem wellFormed_acpyAddACh (e : Engine) (d : Reg) (x1 : Reg) : wellFormed e (.acpyAddACh d x1) = (e == .m && decide (d.toNat < 8)) := rfl
@[simp] theorem wellFormed_acpyI32ACh (e : Engine) (d : Reg) (x1 : Reg) : wellFormed e (.acpyI32ACh d x1) = (e == .m && decide (d.toNat < 8)) := rfl
@[simp] theorem wellFormed_acpyAddI32ACh (e : Engine) (d : Reg) (x1 : Reg) : wellFormed e (.acpyAddI32ACh d x1) = (e == .m && decide (d.toNat < 8)) := rfl
@[simp] theorem wellFormed_crel (e : Engine) (x0 : Reg) : wellFormed e (.crel x0) = (e == .m) := rfl
@[simp] theorem wellFormed_cstat (e : Engine) (d : Reg) (x1 : Reg) : wellFormed e (.cstat d x1) = (e == .m && sReg e d) := rfl
@[simp] theorem wellFormed_cstatClr (e : Engine) (d : Reg) (x1 : Reg) : wellFormed e (.cstatClr d x1) = (e == .m && sReg e d) := rfl
@[simp] theorem wellFormed_msrd (e : Engine) (d : Reg) (i : BitVec 12) : wellFormed e (.msrd d i) = (e == .m && sReg e d && sampRead i.toNat) := rfl
@[simp] theorem wellFormed_mswr (e : Engine) (s : Reg) (i : BitVec 12) : wellFormed e (.mswr s i) = (e == .m && sReg e s && sampRw i.toNat) := rfl
@[simp] theorem wellFormed_vResultLanding (e : Engine) : wellFormed e .vResultLanding = (false) := rfl
@[simp] theorem wellFormed_vchainElement (e : Engine) : wellFormed e .vchainElement = (false) := rfl
@[simp] theorem wellFormed_mStep (e : Engine) : wellFormed e .mStep = (false) := rfl
@[simp] theorem wellFormed_msampGroup (e : Engine) : wellFormed e .msampGroup = (false) := rfl
@[simp] theorem wellFormed_refineCall (e : Engine) : wellFormed e .refineCall = (false) := rfl
@[simp] theorem wellFormed_refineNormTest (e : Engine) : wellFormed e .refineNormTest = (false) := rfl
@[simp] theorem wellFormed_stallWatchdog (e : Engine) (x0 : Nat) : wellFormed e (.stallWatchdog x0) = (false) := rfl
@[simp] theorem wellFormed_cellStart (e : Engine) : wellFormed e .cellStart = (false) := rfl
@[simp] theorem wellFormed_superstepEnd (e : Engine) (x0 : BitVec 3) : wellFormed e (.superstepEnd x0) = (false) := rfl
@[simp] theorem wellFormed_schedulerChoice (e : Engine) (x0 : BitVec 3) : wellFormed e (.schedulerChoice x0) = (false) := rfl
@[simp] theorem wellFormed_timesliceExpiry (e : Engine) (x0 : BitVec 3) : wellFormed e (.timesliceExpiry x0) = (false) := rfl
@[simp] theorem wellFormed_chainStart (e : Engine) : wellFormed e .chainStart = (false) := rfl
@[simp] theorem wellFormed_pumpTransferUnit (e : Engine) : wellFormed e .pumpTransferUnit = (false) := rfl
@[simp] theorem wellFormed_streamWaitSatisfied (e : Engine) : wellFormed e .streamWaitSatisfied = (false) := rfl
@[simp] theorem wellFormed_commandCompletion (e : Engine) : wellFormed e .commandCompletion = (false) := rfl
@[simp] theorem wellFormed_pageWalk (e : Engine) (x0 : W) (x1 : Bool) : wellFormed e (.pageWalk x0 x1) = (false) := rfl
@[simp] theorem wellFormed_faultRecordPost (e : Engine) : wellFormed e .faultRecordPost = (false) := rfl
@[simp] theorem wellFormed_copy (e : Engine) (x0 : EntHdr) (x1 : W) (x2 : W) (x3 : BitVec 16) (x4 : BitVec 16) (x5 : BitVec 16) (x6 : BitVec 16) (x7 : W32) (x8 : W32) (x9 : W32) (x10 : W32) (x11 : W32) (x12 : W32) : wellFormed e (.copy x0 x1 x2 x3 x4 x5 x6 x7 x8 x9 x10 x11 x12) = (false) := rfl
@[simp] theorem wellFormed_gath (e : Engine) (x0 : EntHdr) (x1 : W) (x2 : W) (x3 : W) (x4 : W32) (x5 : W32) (x6 : W) (x7 : Byte) : wellFormed e (.gath x0 x1 x2 x3 x4 x5 x6 x7) = (false) := rfl
@[simp] theorem wellFormed_scat (e : Engine) (x0 : EntHdr) (x1 : W) (x2 : W) (x3 : W) (x4 : W32) (x5 : W32) (x6 : W) (x7 : Byte) : wellFormed e (.scat x0 x1 x2 x3 x4 x5 x6 x7) = (false) := rfl
@[simp] theorem wellFormed_xpose (e : Engine) (x0 : EntHdr) (x1 : W) (x2 : W) (x3 : W32) (x4 : W32) (x5 : W) (x6 : W) : wellFormed e (.xpose x0 x1 x2 x3 x4 x5 x6) = (false) := rfl
@[simp] theorem wellFormed_conv (e : Engine) (x0 : EntHdr) (x1 : W) (x2 : W) (x3 : W) (x4 : W32) (x5 : Off) (x6 : BitVec 4) (x7 : Bool) (x8 : Bool) (x9 : BitVec 3) (x10 : BitVec 16) (x11 : W) : wellFormed e (.conv x0 x1 x2 x3 x4 x5 x6 x7 x8 x9 x10 x11) = (false) := rfl
@[simp] theorem wellFormed_decomp (e : Engine) (x0 : EntHdr) (x1 : W) (x2 : W) (x3 : W32) : wellFormed e (.decomp x0 x1 x2 x3) = (false) := rfl
@[simp] theorem wellFormed_cmprs (e : Engine) (x0 : EntHdr) (x1 : W) (x2 : W) (x3 : W) (x4 : W) (x5 : W32) (x6 : BitVec 3) (x7 : W) : wellFormed e (.cmprs x0 x1 x2 x3 x4 x5 x6 x7) = (false) := rfl
@[simp] theorem wellFormed_mcast (e : Engine) (x0 : EntHdr) (x1 : W) (x2 : W) (x3 : W32) (x4 : Byte) : wellFormed e (.mcast x0 x1 x2 x3 x4) = (false) := rfl
@[simp] theorem wellFormed_red (e : Engine) (x0 : EntHdr) (x1 : W) (x2 : W) (x3 : W32) (x4 : Byte) (x5 : BitVec 2) (x6 : Bool) (x7 : Byte) : wellFormed e (.red x0 x1 x2 x3 x4 x5 x6 x7) = (false) := rfl
@[simp] theorem wellFormed_fill (e : Engine) (x0 : EntHdr) (x1 : W) (x2 : W32) (x3 : W) : wellFormed e (.fill x0 x1 x2 x3) = (false) := rfl
@[simp] theorem wellFormed_atom (e : Engine) (x0 : EntHdr) (x1 : W) (x2 : W) (x3 : W) (x4 : Off) (x5 : BitVec 3) (x6 : Bool) : wellFormed e (.atom x0 x1 x2 x3 x4 x5 x6) = (false) := rfl
@[simp] theorem wellFormed_sempr (e : Engine) (x0 : EntHdr) (x1 : W) (x2 : W32) : wellFormed e (.sempr x0 x1 x2) = (false) := rfl
@[simp] theorem wellFormed_flipv (e : Engine) (x0 : EntHdr) (x1 : Byte) (x2 : Byte) (x3 : Bool) : wellFormed e (.flipv x0 x1 x2 x3) = (false) := rfl
@[simp] theorem wellFormed_pref (e : Engine) (x0 : EntHdr) (x1 : W) (x2 : W) : wellFormed e (.pref x0 x1 x2) = (false) := rfl
@[simp] theorem wellFormed_loop (e : Engine) (x0 : W32) (x1 : W) (x2 : W) (x3 : W) : wellFormed e (.loop x0 x1 x2 x3) = (false) := rfl
@[simp] theorem wellFormed_endl (e : Engine) : wellFormed e .endl = (false) := rfl
@[simp] theorem wellFormed_ifsem (e : Engine) (x0 : Off) (x1 : W32) (x2 : W32) : wellFormed e (.ifsem x0 x1 x2) = (false) := rfl
@[simp] theorem wellFormed_waits (e : Engine) (x0 : Off) (x1 : W32) : wellFormed e (.waits x0 x1) = (false) := rfl
@[simp] theorem wellFormed_jmp (e : Engine) (x0 : W32) : wellFormed e (.jmp x0) = (false) := rfl
@[simp] theorem wellFormed_chainFence (e : Engine) (x0 : Byte) (x1 : Byte) : wellFormed e (.chainFence x0 x1) = (false) := rfl
@[simp] theorem wellFormed_chainEnd (e : Engine) : wellFormed e .chainEnd = (false) := rfl
@[simp] theorem wellFormed_windowAccess (e : Engine) (x0 : Nat) : wellFormed e (.windowAccess x0) = (false) := rfl
@[simp] theorem wellFormed_atomicOp (e : Engine) (x0 : Fin 40) : wellFormed e (.atomicOp x0) = (false) := rfl
@[simp] theorem wellFormed_queueBind (e : Engine) (x0 : W) : wellFormed e (.queueBind x0) = (false) := rfl
@[simp] theorem wellFormed_queueUnbind (e : Engine) (x0 : W) : wellFormed e (.queueUnbind x0) = (false) := rfl
@[simp] theorem wellFormed_queueReset (e : Engine) (x0 : W) : wellFormed e (.queueReset x0) = (false) := rfl
@[simp] theorem wellFormed_doorbell (e : Engine) (x0 : BitVec 10) (x1 : W) : wellFormed e (.doorbell x0 x1) = (false) := rfl
@[simp] theorem wellFormed_packetHeaderPoll (e : Engine) (x0 : BitVec 10) : wellFormed e (.packetHeaderPoll x0) = (false) := rfl
@[simp] theorem wellFormed_launchPacket (e : Engine) (x0 : BitVec 10) : wellFormed e (.launchPacket x0) = (false) := rfl
@[simp] theorem wellFormed_opchain (e : Engine) (x0 : BitVec 10) : wellFormed e (.opchain x0) = (false) := rfl
@[simp] theorem wellFormed_waitsig (e : Engine) (x0 : BitVec 10) : wellFormed e (.waitsig x0) = (false) := rfl
@[simp] theorem wellFormed_waitsigPoll (e : Engine) (x0 : BitVec 10) : wellFormed e (.waitsigPoll x0) = (false) := rfl
@[simp] theorem wellFormed_signal (e : Engine) (x0 : BitVec 10) : wellFormed e (.signal x0) = (false) := rfl
@[simp] theorem wellFormed_nopPacket (e : Engine) (x0 : BitVec 10) : wellFormed e (.nopPacket x0) = (false) := rfl
@[simp] theorem wellFormed_resume (e : Engine) (x0 : W) : wellFormed e (.resume x0) = (false) := rfl
@[simp] theorem wellFormed_abort (e : Engine) (x0 : W) : wellFormed e (.abort x0) = (false) := rfl
@[simp] theorem wellFormed_shootdown (e : Engine) (x0 : W) : wellFormed e (.shootdown x0) = (false) := rfl
@[simp] theorem wellFormed_shootdownAck (e : Engine) : wellFormed e .shootdownAck = (false) := rfl
@[simp] theorem wellFormed_mailboxRequest (e : Engine) (x0 : W) : wellFormed e (.mailboxRequest x0) = (false) := rfl
@[simp] theorem wellFormed_mailboxResponse (e : Engine) : wellFormed e .mailboxResponse = (false) := rfl
@[simp] theorem wellFormed_getMeasurements (e : Engine) (x0 : Transport) (x1 : Bool) : wellFormed e (.getMeasurements x0 x1) = (false) := rfl
@[simp] theorem wellFormed_negotiateAlgorithms (e : Engine) (x0 : Transport) (x1 : Bool) : wellFormed e (.negotiateAlgorithms x0 x1) = (false) := rfl
@[simp] theorem wellFormed_keyExchange (e : Engine) (x0 : Transport) (x1 : BitVec 32) : wellFormed e (.keyExchange x0 x1) = (false) := rfl
@[simp] theorem wellFormed_challenge (e : Engine) (x0 : Transport) : wellFormed e (.challenge x0) = (false) := rfl
@[simp] theorem wellFormed_keyload (e : Engine) (x0 : Transport) (x1 : Option (BitVec 32)) (x2 : List Byte) (x3 : List Byte) (x4 : List Byte) : wellFormed e (.keyload x0 x1 x2 x3 x4) = (false) := rfl
@[simp] theorem wellFormed_keyclear (e : Engine) (x0 : Transport) (x1 : Option (BitVec 32)) (x2 : List Byte) (x3 : List Byte) : wellFormed e (.keyclear x0 x1 x2 x3) = (false) := rfl
@[simp] theorem wellFormed_fwstage (e : Engine) (x0 : Transport) (x1 : Option (BitVec 32)) (x2 : List Byte) (x3 : List Byte) (x4 : List Byte) : wellFormed e (.fwstage x0 x1 x2 x3 x4) = (false) := rfl
@[simp] theorem wellFormed_fwactivate (e : Engine) (x0 : Transport) (x1 : Option (BitVec 32)) (x2 : List Byte) (x3 : List Byte) (x4 : List Byte) (x5 : List Byte) (x6 : List Byte) : wellFormed e (.fwactivate x0 x1 x2 x3 x4 x5 x6) = (false) := rfl
@[simp] theorem wellFormed_fwquery (e : Engine) (x0 : Transport × List Byte) : wellFormed e (.fwquery x0) = (false) := rfl
@[simp] theorem wellFormed_policyRequest (e : Engine) (x0 : BitVec 16) (x1 : BitVec 16) (x2 : BitVec 16) (x3 : Byte) (x4 : Byte) : wellFormed e (.policyRequest x0 x1 x2 x3 x4) = (false) := rfl
@[simp] theorem wellFormed_hbeat (e : Engine) (x0 : W) : wellFormed e (.hbeat x0) = (false) := rfl
@[simp] theorem wellFormed_updateHbeatTimeout (e : Engine) : wellFormed e .updateHbeatTimeout = (false) := rfl
@[simp] theorem wellFormed_heartbeatMissed (e : Engine) : wellFormed e .heartbeatMissed = (false) := rfl
@[simp] theorem wellFormed_deviceReset (e : Engine) (x0 : BootImage) : wellFormed e (.deviceReset x0) = (false) := rfl
@[simp] theorem wellFormed_hostMemoryAccess (e : Engine) (x0 : HostWin) (x1 : W) (x2 : Nat) (x3 : Option (List Byte)) : wellFormed e (.hostMemoryAccess x0 x1 x2 x3) = (false) := rfl
@[simp] theorem wellFormed_peerAccess (e : Engine) (x0 : BitVec 15) (x1 : W) (x2 : PeerOp) : wellFormed e (.peerAccess x0 x1 x2) = (false) := rfl
@[simp] theorem wellFormed_registerWrite (e : Engine) (x0 : BitVec 20) (x1 : Nat) (x2 : W) : wellFormed e (.registerWrite x0 x1 x2) = (false) := rfl
@[simp] theorem wellFormed_linkDown (e : Engine) (x0 : Fin 36) : wellFormed e (.linkDown x0) = (false) := rfl
@[simp] theorem wellFormed_correctedError (e : Engine) (x0 : Fin 6) : wellFormed e (.correctedError x0) = (false) := rfl
@[simp] theorem wellFormed_supplyDroop (e : Engine) (x0 : Nat) : wellFormed e (.supplyDroop x0) = (false) := rfl
@[simp] theorem wellFormed_thermalThrottle (e : Engine) (x0 : Nat) : wellFormed e (.thermalThrottle x0) = (false) := rfl
@[simp] theorem wellFormed_thermalShutdown (e : Engine) : wellFormed e .thermalShutdown = (false) := rfl
@[simp] theorem wellFormed_lineAdvance (e : Engine) : wellFormed e .lineAdvance = (false) := rfl
@[simp] theorem wellFormed_writePerformed (e : Engine) (x0 : WSpace) (x1 : Nat) (x2 : Nat) : wellFormed e (.writePerformed x0 x1 x2) = (false) := rfl
@[simp] theorem wellFormed_firmwarePolicyWrite (e : Engine) (x0 : PolicyWrite) : wellFormed e (.firmwarePolicyWrite x0) = (false) := rfl

@[simp] theorem entryOk_copy (h : EntHdr) (s : W) (d : W) (n0 : BitVec 16) (n1 : BitVec 16) (n2 : BitVec 16) (n3 : BitVec 16) (x7 : W32) (x8 : W32) (x9 : W32) (x10 : W32) (x11 : W32) (x12 : W32) : entryOk (.copy h s d n0 n1 n2 n3 x7 x8 x9 x10 x11 x12) = (h.flagsOk && spAny h.spS && spAny h.spD && spNone h.spX && spNone h.spY && cistOk h.spS s h.esz && cistOk h.spD d h.esz && normMove h && decide (n0.toNat * n1.toNat * n2.toNat * n3.toNat < 2 ^ 32)) := rfl
@[simp] theorem entryOk_gath (h : EntHdr) (s : W) (d : W) (x3 : W) (n : W32) (rlen : W32) (x6 : W) (isz : Byte) : entryOk (.gath h s d x3 n rlen x6 isz) = (h.flagsOk && spVaWell h.spS && spAny h.spD && spVaWell h.spX && spNone h.spY && cistOk h.spD d h.esz && cistOk h.spS s h.esz && normMove h && (isz == 1 || isz == 2) && decide (n.toNat * rlen.toNat < 2 ^ 32)) := rfl
@[simp] theorem entryOk_scat (h : EntHdr) (s : W) (d : W) (x3 : W) (n : W32) (rlen : W32) (x6 : W) (isz : Byte) : entryOk (.scat h s d x3 n rlen x6 isz) = (h.flagsOk && spAny h.spS && spVaWell h.spD && spVaWell h.spX && spNone h.spY && cistOk h.spS s h.esz && cistOk h.spD d h.esz && normMove h && (isz == 1 || isz == 2) && decide (n.toNat * rlen.toNat < 2 ^ 32)) := rfl
@[simp] theorem entryOk_xpose (h : EntHdr) (s : W) (d : W) (rows : W32) (cols : W32) (x5 : W) (x6 : W) : entryOk (.xpose h s d rows cols x5 x6) = (h.flagsOk && spAny h.spS && spAny h.spD && spNone h.spX && spNone h.spY && cistOk h.spS s h.esz && cistOk h.spD d h.esz && normMove h && h.esz != 3 && decide (rows.toNat * cols.toNat < 2 ^ 32)) := rfl
@[simp] theorem entryOk_conv (h : EntHdr) (s : W) (x2 : W) (x : W) (n : W32) (smoff : Off) (fmt : BitVec 4) (srcbf16 : Bool) (smooth : Bool) (rm : BitVec 3) (slen : BitVec 16) (x11 : W) : entryOk (.conv h s x2 x n smoff fmt srcbf16 smooth rm slen x11) = (h.flagsOk && spAny h.spS && spVaWell h.spD && spNone h.spY && h.esz == 0 && decide (fmt.toNat < 6) && decide (rm.toNat < 5) && cistOk h.spS s (if srcbf16 then 1 else 2) && (if fmt == 3 || fmt == 5 then h.spX == 0 && x == 0 else spVaWell h.spX) && (if smooth then slen != 0 else slen == 0 && smoff == 0) && decide (n.toNat < 2 ^ 32)) := rfl
@[simp] theorem entryOk_decomp (h : EntHdr) (x1 : W) (d : W) (x3 : W32) : entryOk (.decomp h x1 d x3) = (h.flagsOk && spVaWell h.spS && spAny h.spD && spNone h.spX && spNone h.spY && cistOk h.spD d h.esz && normMove h && h.esz != 3) := rfl
@[simp] theorem entryOk_cmprs (h : EntHdr) (s : W) (x2 : W) (x3 : W) (x4 : W) (x5 : W32) (rm : BitVec 3) (x7 : W) : entryOk (.cmprs h s x2 x3 x4 x5 rm x7) = (h.flagsOk && spAny h.spS && spVaWell h.spD && spVaWell h.spX && spVaWell h.spY && h.esz == 0 && cistOk h.spS s 2 && (rm == 0 || rm == 4)) := rfl
@[simp] theorem entryOk_mcast (h : EntHdr) (s : W) (x2 : W) (n : W32) (nd : Byte) : entryOk (.mcast h s x2 n nd) = (h.flagsOk && spAny h.spS && spVaWell h.spD && h.spX == 1 && spNone h.spY && cistOk h.spS s h.esz && normMove h && decide (1 ≤ nd.toNat) && decide (nd.toNat ≤ 16) && decide (n.toNat * nd.toNat < 2 ^ 32)) := rfl
@[simp] theorem entryOk_red (h : EntHdr) (x1 : W) (d : W) (x3 : W32) (ns : Byte) (op : BitVec 2) (x6 : Bool) (typ : Byte) : entryOk (.red h x1 d x3 ns op x6 typ) = (h.flagsOk && spAny h.spS && spAny h.spD && h.spX == 1 && spNone h.spY && decide (1 ≤ ns.toNat) && decide (ns.toNat ≤ 8) && op != 3 && decide (typ.toNat < 3) && cistOk h.spD d h.esz && (if typ == 1 then h.esz == 1 else h.esz == 2) && (!h.norm || typ != 2) && (h.spS != 2 || h.esz == 2)) := rfl
@[simp] theorem entryOk_fill (h : EntHdr) (d : W) (x2 : W32) (x3 : W) : entryOk (.fill h d x2 x3) = (h.flagsOk && spNone h.spS && spAny h.spD && spNone h.spX && spNone h.spY && cistOk h.spD d h.esz && normMove h) := rfl
@[simp] theorem entryOk_atom (h : EntHdr) (x1 : W) (x2 : W) (cmpv : W) (x4 : Off) (op : BitVec 3) (x6 : Bool) : entryOk (.atom h x1 x2 cmpv x4 op x6) = (h.flagsOk && spNone h.spS && spVaWell h.spD && spNone h.spX && spNone h.spY && h.esz == 0 && !h.norm && op != 7 && (op == 6 || cmpv == 0)) := rfl
@[simp] theorem entryOk_sempr (h : EntHdr) (x1 : W) (x2 : W32) : entryOk (.sempr h x1 x2) = (h.flagsOk && spNone h.spS && spVaWell h.spD && spNone h.spX && spNone h.spY && h.esz == 0 && !h.norm) := rfl
@[simp] theorem entryOk_flipv (h : EntHdr) (x1 : Byte) (ver : Byte) (inc : Bool) : entryOk (.flipv h x1 ver inc) = (h.flagsOk && spNone h.spS && spNone h.spD && spNone h.spX && spNone h.spY && h.esz == 0 && !h.norm && (!inc || ver == 0)) := rfl
@[simp] theorem entryOk_pref (h : EntHdr) (x1 : W) (x2 : W) : entryOk (.pref h x1 x2) = (h.flagsOk && spNone h.spS && h.spD == 0 && spNone h.spX && spNone h.spY && h.esz == 0 && !h.norm) := rfl
@[simp] theorem entryOk_loop (x0 : W32) (x1 : W) (x2 : W) (x3 : W) : entryOk (.loop x0 x1 x2 x3) = (true) := rfl
@[simp] theorem entryOk_endl : entryOk .endl = (true) := rfl
@[simp] theorem entryOk_ifsem (x0 : Off) (x1 : W32) (x2 : W32) : entryOk (.ifsem x0 x1 x2) = (true) := rfl
@[simp] theorem entryOk_waits (x0 : Off) (x1 : W32) : entryOk (.waits x0 x1) = (true) := rfl
@[simp] theorem entryOk_jmp (x0 : W32) : entryOk (.jmp x0) = (true) := rfl
@[simp] theorem entryOk_chainEnd : entryOk .chainEnd = (true) := rfl
@[simp] theorem entryOk_chainFence (kind : Byte) (scope : Byte) : entryOk (.chainFence kind scope) = (decide (kind.toNat < 3) && decide (scope.toNat < 5)) := rfl

end Sys2Proof
end

