-- ==== Sys2Proof/Laws/Exec.lean ====
section
/-! SUPPORT. What `exec` does with each constructor: the one meaning its arm calls. -/

namespace Sys2Proof
namespace Machine

@[simp] theorem exec_add {x0 x1 x2} (s : State) : exec (.add x0 x1 x2) s = execAdd x0 x1 x2 s := rfl
@[simp] theorem exec_sub {x0 x1 x2} (s : State) : exec (.sub x0 x1 x2) s = execSub x0 x1 x2 s := rfl
@[simp] theorem exec_and {x0 x1 x2} (s : State) : exec (.and x0 x1 x2) s = execAnd x0 x1 x2 s := rfl
@[simp] theorem exec_or {x0 x1 x2} (s : State) : exec (.or x0 x1 x2) s = execOr x0 x1 x2 s := rfl
@[simp] theorem exec_xor {x0 x1 x2} (s : State) : exec (.xor x0 x1 x2) s = execXor x0 x1 x2 s := rfl
@[simp] theorem exec_shl {x0 x1 x2} (s : State) : exec (.shl x0 x1 x2) s = execShl x0 x1 x2 s := rfl
@[simp] theorem exec_shr {x0 x1 x2} (s : State) : exec (.shr x0 x1 x2) s = execShr x0 x1 x2 s := rfl
@[simp] theorem exec_sra {x0 x1 x2} (s : State) : exec (.sra x0 x1 x2) s = execSra x0 x1 x2 s := rfl
@[simp] theorem exec_min {x0 x1 x2} (s : State) : exec (.min x0 x1 x2) s = execMin x0 x1 x2 s := rfl
@[simp] theorem exec_max {x0 x1 x2} (s : State) : exec (.max x0 x1 x2) s = execMax x0 x1 x2 s := rfl
@[simp] theorem exec_minw {x0 x1 x2} (s : State) : exec (.minw x0 x1 x2) s = execMinw x0 x1 x2 s := rfl
@[simp] theorem exec_maxw {x0 x1 x2} (s : State) : exec (.maxw x0 x1 x2) s = execMaxw x0 x1 x2 s := rfl
@[simp] theorem exec_mul {x0 x1 x2} (s : State) : exec (.mul x0 x1 x2) s = execMul x0 x1 x2 s := rfl
@[simp] theorem exec_mulh {x0 x1 x2} (s : State) : exec (.mulh x0 x1 x2) s = execMulh x0 x1 x2 s := rfl
@[simp] theorem exec_mulhw {x0 x1 x2} (s : State) : exec (.mulhw x0 x1 x2) s = execMulhw x0 x1 x2 s := rfl
@[simp] theorem exec_div {x0 x1 x2} (s : State) : exec (.div x0 x1 x2) s = execDiv x0 x1 x2 s := rfl
@[simp] theorem exec_divw {x0 x1 x2} (s : State) : exec (.divw x0 x1 x2) s = execDivw x0 x1 x2 s := rfl
@[simp] theorem exec_rem {x0 x1 x2} (s : State) : exec (.rem x0 x1 x2) s = execRem x0 x1 x2 s := rfl
@[simp] theorem exec_remw {x0 x1 x2} (s : State) : exec (.remw x0 x1 x2) s = execRemw x0 x1 x2 s := rfl
@[simp] theorem exec_clz {x0 x1} (s : State) : exec (.clz x0 x1) s = execClz x0 x1 s := rfl
@[simp] theorem exec_popc {x0 x1} (s : State) : exec (.popc x0 x1) s = execPopc x0 x1 s := rfl
@[simp] theorem exec_sel {x0 x1 x2} (s : State) : exec (.sel x0 x1 x2) s = execSel x0 x1 x2 s := rfl
@[simp] theorem exec_addi {x0 x1 x2} (s : State) : exec (.addi x0 x1 x2) s = execAddi x0 x1 x2 s := rfl
@[simp] theorem exec_andi {x0 x1 x2} (s : State) : exec (.andi x0 x1 x2) s = execAndi x0 x1 x2 s := rfl
@[simp] theorem exec_ori {x0 x1 x2} (s : State) : exec (.ori x0 x1 x2) s = execOri x0 x1 x2 s := rfl
@[simp] theorem exec_xori {x0 x1 x2} (s : State) : exec (.xori x0 x1 x2) s = execXori x0 x1 x2 s := rfl
@[simp] theorem exec_shli {x0 x1 x2} (s : State) : exec (.shli x0 x1 x2) s = execShli x0 x1 x2 s := rfl
@[simp] theorem exec_shri {x0 x1 x2} (s : State) : exec (.shri x0 x1 x2) s = execShri x0 x1 x2 s := rfl
@[simp] theorem exec_srai {x0 x1 x2} (s : State) : exec (.srai x0 x1 x2) s = execSrai x0 x1 x2 s := rfl
@[simp] theorem exec_lui {x0 x1} (s : State) : exec (.lui x0 x1) s = execLui x0 x1 s := rfl
@[simp] theorem exec_li {x0 x1} (s : State) : exec (.li x0 x1) s = execLi x0 x1 s := rfl
@[simp] theorem exec_cmpEq {x0 x1 x2 x3} (s : State) : exec (.cmpEq x0 x1 x2 x3) s = execCmpEq x0 x1 x2 x3 s := rfl
@[simp] theorem exec_cmpNe {x0 x1 x2 x3} (s : State) : exec (.cmpNe x0 x1 x2 x3) s = execCmpNe x0 x1 x2 x3 s := rfl
@[simp] theorem exec_cmpLt {x0 x1 x2 x3} (s : State) : exec (.cmpLt x0 x1 x2 x3) s = execCmpLt x0 x1 x2 x3 s := rfl
@[simp] theorem exec_cmpLtw {x0 x1 x2 x3} (s : State) : exec (.cmpLtw x0 x1 x2 x3) s = execCmpLtw x0 x1 x2 x3 s := rfl
@[simp] theorem exec_cmpGe {x0 x1 x2 x3} (s : State) : exec (.cmpGe x0 x1 x2 x3) s = execCmpGe x0 x1 x2 x3 s := rfl
@[simp] theorem exec_cmpGew {x0 x1 x2 x3} (s : State) : exec (.cmpGew x0 x1 x2 x3) s = execCmpGew x0 x1 x2 x3 s := rfl
@[simp] theorem exec_cmpTst {x0 x1 x2 x3} (s : State) : exec (.cmpTst x0 x1 x2 x3) s = execCmpTst x0 x1 x2 x3 s := rfl
@[simp] theorem exec_cmpTstz {x0 x1 x2 x3} (s : State) : exec (.cmpTstz x0 x1 x2 x3) s = execCmpTstz x0 x1 x2 x3 s := rfl
@[simp] theorem exec_bext {x0 x1 x2 x3} (s : State) : exec (.bext x0 x1 x2 x3) s = execBext x0 x1 x2 x3 s := rfl
@[simp] theorem exec_bins {x0 x1 x2 x3} (s : State) : exec (.bins x0 x1 x2 x3) s = execBins x0 x1 x2 x3 s := rfl
@[simp] theorem exec_ld {x0 x1 x2 x3} (s : State) : exec (.ld x0 x1 x2 x3) s = execLd x0 x1 x2 x3 s := rfl
@[simp] theorem exec_lds {x0 x1 x2 x3} (s : State) : exec (.lds x0 x1 x2 x3) s = execLds x0 x1 x2 x3 s := rfl
@[simp] theorem exec_st {x0 x1 x2 x3} (s : State) : exec (.st x0 x1 x2 x3) s = execSt x0 x1 x2 x3 s := rfl
@[simp] theorem exec_addr {x0 x1 x2 x3 x4} (s : State) : exec (.addr x0 x1 x2 x3 x4) s = execAddr x0 x1 x2 x3 x4 s := rfl
@[simp] theorem exec_semw {x0 x1 x2} (s : State) : exec (.semw x0 x1 x2) s = execSemw x0 x1 x2 s := rfl
@[simp] theorem exec_semwReg {x0 x1 x2} (s : State) : exec (.semwReg x0 x1 x2) s = execSemwReg x0 x1 x2 s := rfl
@[simp] theorem exec_semp {x0 x1 x2} (s : State) : exec (.semp x0 x1 x2) s = execSemp x0 x1 x2 s := rfl
@[simp] theorem exec_sempReg {x0 x1 x2} (s : State) : exec (.sempReg x0 x1 x2) s = execSempReg x0 x1 x2 s := rfl
@[simp] theorem exec_brf (s : State) : exec .brf s = execBrf s := rfl
@[simp] theorem exec_brfCall (s : State) : exec .brfCall s = execBrfCall s := rfl
@[simp] theorem exec_brfRet (s : State) : exec .brfRet s = execBrfRet s := rfl
@[simp] theorem exec_rfjoin (s : State) : exec .rfjoin s = execRfjoin s := rfl
@[simp] theorem exec_rfret (s : State) : exec .rfret s = execRfret s := rfl
@[simp] theorem exec_nop (s : State) : exec .nop s = execNop s := rfl
@[simp] theorem exec_endEngine (s : State) : exec .endEngine s = execEndEngine s := rfl
@[simp] theorem exec_fence {x0 x1} (s : State) : exec (.fence x0 x1) s = execFence x0 x1 s := rfl
@[simp] theorem exec_trap {x0} (s : State) : exec (.trap x0) s = execTrap x0 s := rfl
@[simp] theorem exec_send {x0 x1} (s : State) : exec (.send x0 x1) s = execSend x0 x1 s := rfl
@[simp] theorem exec_recv {x0 x1} (s : State) : exec (.recv x0 x1) s = execRecv x0 x1 s := rfl
@[simp] theorem exec_prep {x0 x1} (s : State) : exec (.prep x0 x1) s = execPrep x0 x1 s := rfl
@[simp] theorem exec_br {x0 x1 x2 x3 x4} (s : State) : exec (.br x0 x1 x2 x3 x4) s = execBr x0 x1 x2 x3 x4 s := rfl
@[simp] theorem exec_brUncond {x0 x1} (s : State) : exec (.brUncond x0 x1) s = execBrUncond x0 x1 s := rfl
@[simp] theorem exec_call {x0 x1 x2 x3 x4} (s : State) : exec (.call x0 x1 x2 x3 x4) s = execCall x0 x1 x2 x3 x4 s := rfl
@[simp] theorem exec_callUncond {x0 x1} (s : State) : exec (.callUncond x0 x1) s = execCallUncond x0 x1 s := rfl
@[simp] theorem exec_ret {x0 x1 x2 x3} (s : State) : exec (.ret x0 x1 x2 x3) s = execRet x0 x1 x2 x3 s := rfl
@[simp] theorem exec_retUncond {x0} (s : State) : exec (.retUncond x0) s = execRetUncond x0 s := rfl
@[simp] theorem exec_loopb {x0 x1 x2 x3 x4} (s : State) : exec (.loopb x0 x1 x2 x3 x4) s = execLoopb x0 x1 x2 x3 x4 s := rfl
@[simp] theorem exec_csrr {x0 x1} (s : State) : exec (.csrr x0 x1) s = execCsrr x0 x1 s := rfl
@[simp] theorem exec_csrw {x0 x1} (s : State) : exec (.csrw x0 x1) s = execCsrw x0 x1 s := rfl
@[simp] theorem exec_binit {x0 x1} (s : State) : exec (.binit x0 x1) s = execBinit x0 x1 s := rfl
@[simp] theorem exec_barv {x0 x1} (s : State) : exec (.barv x0 x1) s = execBarv x0 x1 s := rfl
@[simp] theorem exec_bwt {x0 x1} (s : State) : exec (.bwt x0 x1) s = execBwt x0 x1 s := rfl
@[simp] theorem exec_refine {x0 x1} (s : State) : exec (.refine x0 x1) s = execRefine x0 x1 s := rfl
@[simp] theorem exec_launch {x0 x1 x2} (s : State) : exec (.launch x0 x1 x2) s = execLaunch x0 x1 x2 s := rfl
@[simp] theorem exec_mcw {x0 x1} (s : State) : exec (.mcw x0 x1) s = execMcw x0 x1 s := rfl
@[simp] theorem exec_rett (s : State) : exec .rett s = execRett s := rfl
@[simp] theorem exec_mvx {x0 x1} (s : State) : exec (.mvx x0 x1) s = execMvx x0 x1 s := rfl
@[simp] theorem exec_mvq {x0 x1} (s : State) : exec (.mvq x0 x1) s = execMvq x0 x1 s := rfl
@[simp] theorem exec_mva {x0 x1} (s : State) : exec (.mva x0 x1) s = execMva x0 x1 s := rfl
@[simp] theorem exec_mvw {x0 x1} (s : State) : exec (.mvw x0 x1) s = execMvw x0 x1 s := rfl
@[simp] theorem exec_tdef {x0 x1 x2 x3} (s : State) : exec (.tdef x0 x1 x2 x3) s = execTdef x0 x1 x2 x3 s := rfl
@[simp] theorem exec_tset {x0 x1 x2} (s : State) : exec (.tset x0 x1 x2) s = execTset x0 x1 x2 s := rfl
@[simp] theorem exec_tget {x0 x1 x2} (s : State) : exec (.tget x0 x1 x2) s = execTget x0 x1 x2 s := rfl
@[simp] theorem exec_vld {x0 x1 x2} (s : State) : exec (.vld x0 x1 x2) s = execVld x0 x1 x2 s := rfl
@[simp] theorem exec_vst {x0 x1 x2} (s : State) : exec (.vst x0 x1 x2) s = execVst x0 x1 x2 s := rfl
@[simp] theorem exec_vldt {x0 x1 x2} (s : State) : exec (.vldt x0 x1 x2) s = execVldt x0 x1 x2 s := rfl
@[simp] theorem exec_vstt {x0 x1 x2} (s : State) : exec (.vstt x0 x1 x2) s = execVstt x0 x1 x2 s := rfl
@[simp] theorem exec_vmov {x0 x1 x2} (s : State) : exec (.vmov x0 x1 x2) s = execVmov x0 x1 x2 s := rfl
@[simp] theorem exec_vsplat {x0 x1 x2} (s : State) : exec (.vsplat x0 x1 x2) s = execVsplat x0 x1 x2 s := rfl
@[simp] theorem exec_vmovs {x0 x1 x2 x3} (s : State) : exec (.vmovs x0 x1 x2 x3) s = execVmovs x0 x1 x2 x3 s := rfl
@[simp] theorem exec_vadd {x0 x1 x2 x3} (s : State) : exec (.vadd x0 x1 x2 x3) s = execVadd x0 x1 x2 x3 s := rfl
@[simp] theorem exec_vsub {x0 x1 x2 x3} (s : State) : exec (.vsub x0 x1 x2 x3) s = execVsub x0 x1 x2 x3 s := rfl
@[simp] theorem exec_vmul {x0 x1 x2 x3} (s : State) : exec (.vmul x0 x1 x2 x3) s = execVmul x0 x1 x2 x3 s := rfl
@[simp] theorem exec_vmin {x0 x1 x2 x3} (s : State) : exec (.vmin x0 x1 x2 x3) s = execVmin x0 x1 x2 x3 s := rfl
@[simp] theorem exec_vmax {x0 x1 x2 x3} (s : State) : exec (.vmax x0 x1 x2 x3) s = execVmax x0 x1 x2 x3 s := rfl
@[simp] theorem exec_vabs {x0 x1 x2} (s : State) : exec (.vabs x0 x1 x2) s = execVabs x0 x1 x2 s := rfl
@[simp] theorem exec_vneg {x0 x1 x2} (s : State) : exec (.vneg x0 x1 x2) s = execVneg x0 x1 x2 s := rfl
@[simp] theorem exec_vand {x0 x1 x2 x3} (s : State) : exec (.vand x0 x1 x2 x3) s = execVand x0 x1 x2 x3 s := rfl
@[simp] theorem exec_vor {x0 x1 x2 x3} (s : State) : exec (.vor x0 x1 x2 x3) s = execVor x0 x1 x2 x3 s := rfl
@[simp] theorem exec_vxor {x0 x1 x2 x3} (s : State) : exec (.vxor x0 x1 x2 x3) s = execVxor x0 x1 x2 x3 s := rfl
@[simp] theorem exec_vshl {x0 x1 x2 x3} (s : State) : exec (.vshl x0 x1 x2 x3) s = execVshl x0 x1 x2 x3 s := rfl
@[simp] theorem exec_vshr {x0 x1 x2 x3} (s : State) : exec (.vshr x0 x1 x2 x3) s = execVshr x0 x1 x2 x3 s := rfl
@[simp] theorem exec_vsra {x0 x1 x2 x3} (s : State) : exec (.vsra x0 x1 x2 x3) s = execVsra x0 x1 x2 x3 s := rfl
@[simp] theorem exec_vadds {x0 x1 x2 x3} (s : State) : exec (.vadds x0 x1 x2 x3) s = execVadds x0 x1 x2 x3 s := rfl
@[simp] theorem exec_vsubs {x0 x1 x2 x3} (s : State) : exec (.vsubs x0 x1 x2 x3) s = execVsubs x0 x1 x2 x3 s := rfl
@[simp] theorem exec_vfma {x0 x1 x2 x3 x4 x5 x6 x7} (s : State) : exec (.vfma x0 x1 x2 x3 x4 x5 x6 x7) s = execVfma x0 x1 x2 x3 x4 x5 x6 x7 s := rfl
@[simp] theorem exec_vfms {x0 x1 x2 x3 x4 x5 x6 x7} (s : State) : exec (.vfms x0 x1 x2 x3 x4 x5 x6 x7) s = execVfms x0 x1 x2 x3 x4 x5 x6 x7 s := rfl
@[simp] theorem exec_vcmp {x0 x1 x2 x3 x4} (s : State) : exec (.vcmp x0 x1 x2 x3 x4) s = execVcmp x0 x1 x2 x3 x4 s := rfl
@[simp] theorem exec_vsel {x0 x1 x2 x3} (s : State) : exec (.vsel x0 x1 x2 x3) s = execVsel x0 x1 x2 x3 s := rfl
@[simp] theorem exec_vcvt {x0 x1 x2 x3 x4 x5} (s : State) : exec (.vcvt x0 x1 x2 x3 x4 x5) s = execVcvt x0 x1 x2 x3 x4 x5 s := rfl
@[simp] theorem exec_vwid {x0 x1 x2 x3 x4 x5} (s : State) : exec (.vwid x0 x1 x2 x3 x4 x5) s = execVwid x0 x1 x2 x3 x4 x5 s := rfl
@[simp] theorem exec_vnar {x0 x1 x2 x3 x4 x5} (s : State) : exec (.vnar x0 x1 x2 x3 x4 x5) s = execVnar x0 x1 x2 x3 x4 x5 s := rfl
@[simp] theorem exec_vscl {x0 x1 x2 x3 x4 x5 x6 x7} (s : State) : exec (.vscl x0 x1 x2 x3 x4 x5 x6 x7) s = execVscl x0 x1 x2 x3 x4 x5 x6 x7 s := rfl
@[simp] theorem exec_vamax {x0 x1 x2 x3} (s : State) : exec (.vamax x0 x1 x2 x3) s = execVamax x0 x1 x2 x3 s := rfl
@[simp] theorem exec_vqnt {x0 x1 x2 x3 x4 x5 x6 x7} (s : State) : exec (.vqnt x0 x1 x2 x3 x4 x5 x6 x7) s = execVqnt x0 x1 x2 x3 x4 x5 x6 x7 s := rfl
@[simp] theorem exec_vrcp {x0 x1 x2} (s : State) : exec (.vrcp x0 x1 x2) s = execVrcp x0 x1 x2 s := rfl
@[simp] theorem exec_vsqrt {x0 x1 x2} (s : State) : exec (.vsqrt x0 x1 x2) s = execVsqrt x0 x1 x2 s := rfl
@[simp] theorem exec_vrsq {x0 x1 x2} (s : State) : exec (.vrsq x0 x1 x2) s = execVrsq x0 x1 x2 s := rfl
@[simp] theorem exec_vexp2 {x0 x1 x2} (s : State) : exec (.vexp2 x0 x1 x2) s = execVexp2 x0 x1 x2 s := rfl
@[simp] theorem exec_vlog2 {x0 x1 x2} (s : State) : exec (.vlog2 x0 x1 x2) s = execVlog2 x0 x1 x2 s := rfl
@[simp] theorem exec_vperm {x0 x1 x2 x3 x4} (s : State) : exec (.vperm x0 x1 x2 x3 x4) s = execVperm x0 x1 x2 x3 x4 s := rfl
@[simp] theorem exec_vred {x0 x1 x2 x3} (s : State) : exec (.vred x0 x1 x2 x3) s = execVred x0 x1 x2 x3 s := rfl
@[simp] theorem exec_vscan {x0 x1 x2 x3 x4} (s : State) : exec (.vscan x0 x1 x2 x3 x4) s = execVscan x0 x1 x2 x3 x4 s := rfl
@[simp] theorem exec_vbcst {x0 x1 x2 x3} (s : State) : exec (.vbcst x0 x1 x2 x3) s = execVbcst x0 x1 x2 x3 s := rfl
@[simp] theorem exec_vvoteAny {x0 x1 x2} (s : State) : exec (.vvoteAny x0 x1 x2) s = execVvoteAny x0 x1 x2 s := rfl
@[simp] theorem exec_vvoteAll {x0 x1 x2} (s : State) : exec (.vvoteAll x0 x1 x2) s = execVvoteAll x0 x1 x2 s := rfl
@[simp] theorem exec_vbnet {x0 x1 x2} (s : State) : exec (.vbnet x0 x1 x2) s = execVbnet x0 x1 x2 s := rfl
@[simp] theorem exec_vbpat {x0 x1 x2} (s : State) : exec (.vbpat x0 x1 x2) s = execVbpat x0 x1 x2 s := rfl
@[simp] theorem exec_vchain {x0 x1} (s : State) : exec (.vchain x0 x1) s = execVchain x0 x1 s := rfl
@[simp] theorem exec_vmvl {x0 x1 x2} (s : State) : exec (.vmvl x0 x1 x2) s = execVmvl x0 x1 x2 s := rfl
@[simp] theorem exec_vdot {x0 x1 x2 x3 x4 x5} (s : State) : exec (.vdot x0 x1 x2 x3 x4 x5) s = execVdot x0 x1 x2 x3 x4 x5 s := rfl
@[simp] theorem exec_mgo (s : State) : exec .mgo s = execMgo s := rfl
@[simp] theorem exec_mgoKeep (s : State) : exec .mgoKeep s = execMgoKeep s := rfl
@[simp] theorem exec_mma (s : State) : exec .mma s = execMma s := rfl
@[simp] theorem exec_mmaRst (s : State) : exec .mmaRst s = execMmaRst s := rfl
@[simp] theorem exec_mcfg {x0 x1} (s : State) : exec (.mcfg x0 x1) s = execMcfg x0 x1 s := rfl
@[simp] theorem exec_mcfgSh {x0 x1} (s : State) : exec (.mcfgSh x0 x1) s = execMcfgSh x0 x1 s := rfl
@[simp] theorem exec_azero {x0} (s : State) : exec (.azero x0) s = execAzero x0 s := rfl
@[simp] theorem exec_astat {x0 x1} (s : State) : exec (.astat x0 x1) s = execAstat x0 x1 s := rfl
@[simp] theorem exec_astatVal {x0 x1} (s : State) : exec (.astatVal x0 x1) s = execAstatVal x0 x1 s := rfl
@[simp] theorem exec_astatCln {x0 x1} (s : State) : exec (.astatCln x0 x1) s = execAstatCln x0 x1 s := rfl
@[simp] theorem exec_arel {x0} (s : State) : exec (.arel x0) s = execArel x0 s := rfl
@[simp] theorem exec_acpyChA {x0 x1} (s : State) : exec (.acpyChA x0 x1) s = execAcpyChA x0 x1 s := rfl
@[simp] theorem exec_acpyACh {x0 x1} (s : State) : exec (.acpyACh x0 x1) s = execAcpyACh x0 x1 s := rfl
@[simp] theorem exec_acpyAddChA {x0 x1} (s : State) : exec (.acpyAddChA x0 x1) s = execAcpyAddChA x0 x1 s := rfl
@[simp] theorem exec_acpyAddACh {x0 x1} (s : State) : exec (.acpyAddACh x0 x1) s = execAcpyAddACh x0 x1 s := rfl
@[simp] theorem exec_acpyI32ChA {x0 x1} (s : State) : exec (.acpyI32ChA x0 x1) s = execAcpyI32ChA x0 x1 s := rfl
@[simp] theorem exec_acpyI32ACh {x0 x1} (s : State) : exec (.acpyI32ACh x0 x1) s = execAcpyI32ACh x0 x1 s := rfl
@[simp] theorem exec_acpyAddI32ChA {x0 x1} (s : State) : exec (.acpyAddI32ChA x0 x1) s = execAcpyAddI32ChA x0 x1 s := rfl
@[simp] theorem exec_acpyAddI32ACh {x0 x1} (s : State) : exec (.acpyAddI32ACh x0 x1) s = execAcpyAddI32ACh x0 x1 s := rfl
@[simp] theorem exec_crel {x0} (s : State) : exec (.crel x0) s = execCrel x0 s := rfl
@[simp] theorem exec_cstat {x0 x1} (s : State) : exec (.cstat x0 x1) s = execCstat x0 x1 s := rfl
@[simp] theorem exec_cstatClr {x0 x1} (s : State) : exec (.cstatClr x0 x1) s = execCstatClr x0 x1 s := rfl
@[simp] theorem exec_malias (s : State) : exec .malias s = execMalias s := rfl
@[simp] theorem exec_msamp (s : State) : exec .msamp s = execMsamp s := rfl
@[simp] theorem exec_msrd {x0 x1} (s : State) : exec (.msrd x0 x1) s = execMsrd x0 x1 s := rfl
@[simp] theorem exec_mswr {x0 x1} (s : State) : exec (.mswr x0 x1) s = execMswr x0 x1 s := rfl
@[simp] theorem exec_vResultLanding (s : State) : exec .vResultLanding s = execVResultLanding s := rfl
@[simp] theorem exec_vchainElement (s : State) : exec .vchainElement s = execVchainElement s := rfl
@[simp] theorem exec_mStep (s : State) : exec .mStep s = execMStep s := rfl
@[simp] theorem exec_msampGroup (s : State) : exec .msampGroup s = execMsampGroup s := rfl
@[simp] theorem exec_refineCall (s : State) : exec .refineCall s = execRefineCall s := rfl
@[simp] theorem exec_refineNormTest (s : State) : exec .refineNormTest s = execRefineNormTest s := rfl
@[simp] theorem exec_stallWatchdog {x0} (s : State) : exec (.stallWatchdog x0) s = execStallWatchdog x0 s := rfl
@[simp] theorem exec_cellStart (s : State) : exec .cellStart s = execCellStart s := rfl
@[simp] theorem exec_superstepEnd {x0} (s : State) : exec (.superstepEnd x0) s = execSuperstepEnd x0 s := rfl
@[simp] theorem exec_schedulerChoice {x0} (s : State) : exec (.schedulerChoice x0) s = execSchedulerChoice x0 s := rfl
@[simp] theorem exec_timesliceExpiry {x0} (s : State) : exec (.timesliceExpiry x0) s = execTimesliceExpiry x0 s := rfl
@[simp] theorem exec_chainStart (s : State) : exec .chainStart s = execChainStart s := rfl
@[simp] theorem exec_pumpTransferUnit (s : State) : exec .pumpTransferUnit s = execPumpTransferUnit s := rfl
@[simp] theorem exec_streamWaitSatisfied (s : State) : exec .streamWaitSatisfied s = execStreamWaitSatisfied s := rfl
@[simp] theorem exec_commandCompletion (s : State) : exec .commandCompletion s = execCommandCompletion s := rfl
@[simp] theorem exec_pageWalk {x0 x1} (s : State) : exec (.pageWalk x0 x1) s = execPageWalk x0 x1 s := rfl
@[simp] theorem exec_faultRecordPost (s : State) : exec .faultRecordPost s = execFaultRecordPost s := rfl
@[simp] theorem exec_copy {x0 x1 x2 x3 x4 x5 x6 x7 x8 x9 x10 x11 x12} (s : State) : exec (.copy x0 x1 x2 x3 x4 x5 x6 x7 x8 x9 x10 x11 x12) s = execCopy x0 x1 x2 x3 x4 x5 x6 x7 x8 x9 x10 x11 x12 s := rfl
@[simp] theorem exec_gath {x0 x1 x2 x3 x4 x5 x6 x7} (s : State) : exec (.gath x0 x1 x2 x3 x4 x5 x6 x7) s = execGath x0 x1 x2 x3 x4 x5 x6 x7 s := rfl
@[simp] theorem exec_scat {x0 x1 x2 x3 x4 x5 x6 x7} (s : State) : exec (.scat x0 x1 x2 x3 x4 x5 x6 x7) s = execScat x0 x1 x2 x3 x4 x5 x6 x7 s := rfl
@[simp] theorem exec_xpose {x0 x1 x2 x3 x4 x5 x6} (s : State) : exec (.xpose x0 x1 x2 x3 x4 x5 x6) s = execXpose x0 x1 x2 x3 x4 x5 x6 s := rfl
@[simp] theorem exec_conv {x0 x1 x2 x3 x4 x5 x6 x7 x8 x9 x10 x11} (s : State) : exec (.conv x0 x1 x2 x3 x4 x5 x6 x7 x8 x9 x10 x11) s = execConv x0 x1 x2 x3 x4 x5 x6 x7 x8 x9 x10 x11 s := rfl
@[simp] theorem exec_decomp {x0 x1 x2 x3} (s : State) : exec (.decomp x0 x1 x2 x3) s = execDecomp x0 x1 x2 x3 s := rfl
@[simp] theorem exec_cmprs {x0 x1 x2 x3 x4 x5 x6 x7} (s : State) : exec (.cmprs x0 x1 x2 x3 x4 x5 x6 x7) s = execCmprs x0 x1 x2 x3 x4 x5 x6 x7 s := rfl
@[simp] theorem exec_mcast {x0 x1 x2 x3 x4} (s : State) : exec (.mcast x0 x1 x2 x3 x4) s = execMcast x0 x1 x2 x3 x4 s := rfl
@[simp] theorem exec_red {x0 x1 x2 x3 x4 x5 x6 x7} (s : State) : exec (.red x0 x1 x2 x3 x4 x5 x6 x7) s = execRed x0 x1 x2 x3 x4 x5 x6 x7 s := rfl
@[simp] theorem exec_fill {x0 x1 x2 x3} (s : State) : exec (.fill x0 x1 x2 x3) s = execFill x0 x1 x2 x3 s := rfl
@[simp] theorem exec_atom {x0 x1 x2 x3 x4 x5 x6} (s : State) : exec (.atom x0 x1 x2 x3 x4 x5 x6) s = execAtom x0 x1 x2 x3 x4 x5 x6 s := rfl
@[simp] theorem exec_sempr {x0 x1 x2} (s : State) : exec (.sempr x0 x1 x2) s = execSempr x0 x1 x2 s := rfl
@[simp] theorem exec_flipv {x0 x1 x2 x3} (s : State) : exec (.flipv x0 x1 x2 x3) s = execFlipv x0 x1 x2 x3 s := rfl
@[simp] theorem exec_pref {x0 x1 x2} (s : State) : exec (.pref x0 x1 x2) s = execPref x0 x1 x2 s := rfl
@[simp] theorem exec_loop {x0 x1 x2 x3} (s : State) : exec (.loop x0 x1 x2 x3) s = execLoop x0 x1 x2 x3 s := rfl
@[simp] theorem exec_endl (s : State) : exec .endl s = execEndl s := rfl
@[simp] theorem exec_ifsem {x0 x1 x2} (s : State) : exec (.ifsem x0 x1 x2) s = execIfsem x0 x1 x2 s := rfl
@[simp] theorem exec_waits {x0 x1} (s : State) : exec (.waits x0 x1) s = execWaits x0 x1 s := rfl
@[simp] theorem exec_jmp {x0} (s : State) : exec (.jmp x0) s = execJmp x0 s := rfl
@[simp] theorem exec_chainFence {x0 x1} (s : State) : exec (.chainFence x0 x1) s = execChainFence x0 x1 s := rfl
@[simp] theorem exec_chainEnd (s : State) : exec .chainEnd s = execChainEnd s := rfl
@[simp] theorem exec_windowAccess {x0} (s : State) : exec (.windowAccess x0) s = execWindowAccess x0 s := rfl
@[simp] theorem exec_atomicOp {x0} (s : State) : exec (.atomicOp x0) s = execAtomicOp x0 s := rfl
@[simp] theorem exec_queueBind {x0} (s : State) : exec (.queueBind x0) s = execQueueBind x0 s := rfl
@[simp] theorem exec_queueUnbind {x0} (s : State) : exec (.queueUnbind x0) s = execQueueUnbind x0 s := rfl
@[simp] theorem exec_queueReset {x0} (s : State) : exec (.queueReset x0) s = execQueueReset x0 s := rfl
@[simp] theorem exec_doorbell {x0 x1} (s : State) : exec (.doorbell x0 x1) s = execDoorbell x0 x1 s := rfl
@[simp] theorem exec_packetHeaderPoll {x0} (s : State) : exec (.packetHeaderPoll x0) s = execPacketHeaderPoll x0 s := rfl
@[simp] theorem exec_launchPacket {x0} (s : State) : exec (.launchPacket x0) s = execLaunchPacket x0 s := rfl
@[simp] theorem exec_opchain {x0} (s : State) : exec (.opchain x0) s = execOpchain x0 s := rfl
@[simp] theorem exec_waitsig {x0} (s : State) : exec (.waitsig x0) s = execWaitsig x0 s := rfl
@[simp] theorem exec_waitsigPoll {x0} (s : State) : exec (.waitsigPoll x0) s = execWaitsigPoll x0 s := rfl
@[simp] theorem exec_signal {x0} (s : State) : exec (.signal x0) s = execSignal x0 s := rfl
@[simp] theorem exec_nopPacket {x0} (s : State) : exec (.nopPacket x0) s = execNopPacket x0 s := rfl
@[simp] theorem exec_resume {x0} (s : State) : exec (.resume x0) s = execResume x0 s := rfl
@[simp] theorem exec_abort {x0} (s : State) : exec (.abort x0) s = execAbort x0 s := rfl
@[simp] theorem exec_shootdown {x0} (s : State) : exec (.shootdown x0) s = execShootdown x0 s := rfl
@[simp] theorem exec_shootdownAck (s : State) : exec .shootdownAck s = execShootdownAck s := rfl
@[simp] theorem exec_mailboxRequest {x0} (s : State) : exec (.mailboxRequest x0) s = execMailboxRequest x0 s := rfl
@[simp] theorem exec_mailboxResponse (s : State) : exec .mailboxResponse s = execMailboxResponse s := rfl
@[simp] theorem exec_getMeasurements {x0 x1} (s : State) : exec (.getMeasurements x0 x1) s = execGetMeasurements x0 x1 s := rfl
@[simp] theorem exec_negotiateAlgorithms {x0 x1} (s : State) : exec (.negotiateAlgorithms x0 x1) s = execNegotiateAlgorithms x0 x1 s := rfl
@[simp] theorem exec_keyExchange {x0 x1} (s : State) : exec (.keyExchange x0 x1) s = execKeyExchange x0 x1 s := rfl
@[simp] theorem exec_challenge {x0} (s : State) : exec (.challenge x0) s = execChallenge x0 s := rfl
@[simp] theorem exec_keyload {x0 x1 x2 x3 x4} (s : State) : exec (.keyload x0 x1 x2 x3 x4) s = execKeyload x0 x1 x2 x3 x4 s := rfl
@[simp] theorem exec_keyclear {x0 x1 x2 x3} (s : State) : exec (.keyclear x0 x1 x2 x3) s = execKeyclear x0 x1 x2 x3 s := rfl
@[simp] theorem exec_fwstage {x0 x1 x2 x3 x4} (s : State) : exec (.fwstage x0 x1 x2 x3 x4) s = execFwstage x0 x1 x2 x3 x4 s := rfl
@[simp] theorem exec_fwactivate {x0 x1 x2 x3 x4 x5 x6} (s : State) : exec (.fwactivate x0 x1 x2 x3 x4 x5 x6) s = execFwactivate x0 x1 x2 x3 x4 x5 x6 s := rfl
@[simp] theorem exec_fwquery {x0} (s : State) : exec (.fwquery x0) s = execFwquery x0 s := rfl
@[simp] theorem exec_policyRequest {x0 x1 x2 x3 x4} (s : State) : exec (.policyRequest x0 x1 x2 x3 x4) s = execPolicyRequest x0 x1 x2 x3 x4 s := rfl
@[simp] theorem exec_hbeat {x0} (s : State) : exec (.hbeat x0) s = execHbeat x0 s := rfl
@[simp] theorem exec_updateHbeatTimeout (s : State) : exec .updateHbeatTimeout s = execUpdateHbeatTimeout s := rfl
@[simp] theorem exec_heartbeatMissed (s : State) : exec .heartbeatMissed s = execHeartbeatMissed s := rfl
@[simp] theorem exec_deviceReset {x0} (s : State) : exec (.deviceReset x0) s = execDeviceReset x0 s := rfl
@[simp] theorem exec_hostMemoryAccess {x0 x1 x2 x3} (s : State) : exec (.hostMemoryAccess x0 x1 x2 x3) s = execHostMemoryAccess x0 x1 x2 x3 s := rfl
@[simp] theorem exec_peerAccess {x0 x1 x2} (s : State) : exec (.peerAccess x0 x1 x2) s = execPeerAccess x0 x1 x2 s := rfl
@[simp] theorem exec_registerWrite {x0 x1 x2} (s : State) : exec (.registerWrite x0 x1 x2) s = execRegisterWrite x0 x1 x2 s := rfl
@[simp] theorem exec_linkDown {x0} (s : State) : exec (.linkDown x0) s = execLinkDown x0 s := rfl
@[simp] theorem exec_correctedError {x0} (s : State) : exec (.correctedError x0) s = execCorrectedError x0 s := rfl
@[simp] theorem exec_supplyDroop {x0} (s : State) : exec (.supplyDroop x0) s = execSupplyDroop x0 s := rfl
@[simp] theorem exec_thermalThrottle {x0} (s : State) : exec (.thermalThrottle x0) s = execThermalThrottle x0 s := rfl
@[simp] theorem exec_thermalShutdown (s : State) : exec .thermalShutdown s = execThermalShutdown s := rfl
@[simp] theorem exec_lineAdvance (s : State) : exec .lineAdvance s = execLineAdvance s := rfl
@[simp] theorem exec_writePerformed {x0 x1 x2} (s : State) : exec (.writePerformed x0 x1 x2) s = execWritePerformed x0 x1 x2 s := rfl
@[simp] theorem exec_firmwarePolicyWrite {x0} (s : State) : exec (.firmwarePolicyWrite x0) s = execFirmwarePolicyWrite x0 s := rfl

end Machine
end Sys2Proof
end

