-- ==== Sys2Proof/Laws/PerInstr.lean ====
section
/-! SUPPORT. What holds of each instruction as syntax, constructor by constructor: it has one word, or two (LI and the VX forms, R101),
or it is a chain entry of 64 bytes (R168), or it is a row that is neither fetched nor read (a step of the machine or a request from
outside). -/

namespace Sys2Proof
namespace Laws
namespace Encoding

/-- Words and bytes of an instruction by its kind. -/
def Statement (i : Instr) : Prop :=
  ((encode i).length = 1 ∧ encodeEntry i = []) ∨ ((encode i).length = 2 ∧ encodeEntry i = [])
    ∨ (encode i = [] ∧ (encodeEntry i).length = 64) ∨ (encode i = [] ∧ encodeEntry i = [])

theorem wordBytes_length (n : Nat) (x : BitVec n) : (wordBytes n x).length = n / 8 := by simp [wordBytes]
theorem zb_length (n : Nat) : (zb n).length = n := by simp [zb]
theorem hdrBytes_length (k : Byte) (h : EntHdr) : (hdrBytes k h).length = 16 := by
  rw [hdrBytes]; simp only [List.length_append, wordBytes_length, List.length_cons, List.length_nil]

theorem add (a0 : Reg) (a1 : Reg) (a2 : Reg) : Statement (.add a0 a1 a2) := .inl ⟨rfl, rfl⟩
theorem sub (a0 : Reg) (a1 : Reg) (a2 : Reg) : Statement (.sub a0 a1 a2) := .inl ⟨rfl, rfl⟩
theorem and (a0 : Reg) (a1 : Reg) (a2 : Reg) : Statement (.and a0 a1 a2) := .inl ⟨rfl, rfl⟩
theorem or (a0 : Reg) (a1 : Reg) (a2 : Reg) : Statement (.or a0 a1 a2) := .inl ⟨rfl, rfl⟩
theorem xor (a0 : Reg) (a1 : Reg) (a2 : Reg) : Statement (.xor a0 a1 a2) := .inl ⟨rfl, rfl⟩
theorem shl (a0 : Reg) (a1 : Reg) (a2 : Reg) : Statement (.shl a0 a1 a2) := .inl ⟨rfl, rfl⟩
theorem shr (a0 : Reg) (a1 : Reg) (a2 : Reg) : Statement (.shr a0 a1 a2) := .inl ⟨rfl, rfl⟩
theorem sra (a0 : Reg) (a1 : Reg) (a2 : Reg) : Statement (.sra a0 a1 a2) := .inl ⟨rfl, rfl⟩
theorem min (a0 : Reg) (a1 : Reg) (a2 : Reg) : Statement (.min a0 a1 a2) := .inl ⟨rfl, rfl⟩
theorem max (a0 : Reg) (a1 : Reg) (a2 : Reg) : Statement (.max a0 a1 a2) := .inl ⟨rfl, rfl⟩
theorem minw (a0 : Reg) (a1 : Reg) (a2 : Reg) : Statement (.minw a0 a1 a2) := .inl ⟨rfl, rfl⟩
theorem maxw (a0 : Reg) (a1 : Reg) (a2 : Reg) : Statement (.maxw a0 a1 a2) := .inl ⟨rfl, rfl⟩
theorem mul (a0 : Reg) (a1 : Reg) (a2 : Reg) : Statement (.mul a0 a1 a2) := .inl ⟨rfl, rfl⟩
theorem mulh (a0 : Reg) (a1 : Reg) (a2 : Reg) : Statement (.mulh a0 a1 a2) := .inl ⟨rfl, rfl⟩
theorem mulhw (a0 : Reg) (a1 : Reg) (a2 : Reg) : Statement (.mulhw a0 a1 a2) := .inl ⟨rfl, rfl⟩
theorem div (a0 : Reg) (a1 : Reg) (a2 : Reg) : Statement (.div a0 a1 a2) := .inl ⟨rfl, rfl⟩
theorem divw (a0 : Reg) (a1 : Reg) (a2 : Reg) : Statement (.divw a0 a1 a2) := .inl ⟨rfl, rfl⟩
theorem rem (a0 : Reg) (a1 : Reg) (a2 : Reg) : Statement (.rem a0 a1 a2) := .inl ⟨rfl, rfl⟩
theorem remw (a0 : Reg) (a1 : Reg) (a2 : Reg) : Statement (.remw a0 a1 a2) := .inl ⟨rfl, rfl⟩
theorem clz (a0 : Reg) (a1 : Reg) : Statement (.clz a0 a1) := .inl ⟨rfl, rfl⟩
theorem popc (a0 : Reg) (a1 : Reg) : Statement (.popc a0 a1) := .inl ⟨rfl, rfl⟩
theorem sel (a0 : Reg) (a1 : Reg) (a2 : Reg) : Statement (.sel a0 a1 a2) := .inl ⟨rfl, rfl⟩
theorem addi (a0 : Reg) (a1 : Reg) (a2 : BitVec 14) : Statement (.addi a0 a1 a2) := .inl ⟨rfl, rfl⟩
theorem andi (a0 : Reg) (a1 : Reg) (a2 : BitVec 14) : Statement (.andi a0 a1 a2) := .inl ⟨rfl, rfl⟩
theorem ori (a0 : Reg) (a1 : Reg) (a2 : BitVec 14) : Statement (.ori a0 a1 a2) := .inl ⟨rfl, rfl⟩
theorem xori (a0 : Reg) (a1 : Reg) (a2 : BitVec 14) : Statement (.xori a0 a1 a2) := .inl ⟨rfl, rfl⟩
theorem shli (a0 : Reg) (a1 : Reg) (a2 : BitVec 6) : Statement (.shli a0 a1 a2) := .inl ⟨rfl, rfl⟩
theorem shri (a0 : Reg) (a1 : Reg) (a2 : BitVec 6) : Statement (.shri a0 a1 a2) := .inl ⟨rfl, rfl⟩
theorem srai (a0 : Reg) (a1 : Reg) (a2 : BitVec 6) : Statement (.srai a0 a1 a2) := .inl ⟨rfl, rfl⟩
theorem lui (a0 : Reg) (a1 : BitVec 20) : Statement (.lui a0 a1) := .inl ⟨rfl, rfl⟩
theorem li (a0 : Reg) (a1 : BitVec 52) : Statement (.li a0 a1) := .inr (.inl ⟨rfl, rfl⟩)
theorem cmpEq (a0 : Reg) (a1 : Reg) (a2 : Reg) (a3 : BitVec 6) : Statement (.cmpEq a0 a1 a2 a3) := .inl ⟨rfl, rfl⟩
theorem cmpNe (a0 : Reg) (a1 : Reg) (a2 : Reg) (a3 : BitVec 6) : Statement (.cmpNe a0 a1 a2 a3) := .inl ⟨rfl, rfl⟩
theorem cmpLt (a0 : Reg) (a1 : Reg) (a2 : Reg) (a3 : BitVec 6) : Statement (.cmpLt a0 a1 a2 a3) := .inl ⟨rfl, rfl⟩
theorem cmpLtw (a0 : Reg) (a1 : Reg) (a2 : Reg) (a3 : BitVec 6) : Statement (.cmpLtw a0 a1 a2 a3) := .inl ⟨rfl, rfl⟩
theorem cmpGe (a0 : Reg) (a1 : Reg) (a2 : Reg) (a3 : BitVec 6) : Statement (.cmpGe a0 a1 a2 a3) := .inl ⟨rfl, rfl⟩
theorem cmpGew (a0 : Reg) (a1 : Reg) (a2 : Reg) (a3 : BitVec 6) : Statement (.cmpGew a0 a1 a2 a3) := .inl ⟨rfl, rfl⟩
theorem cmpTst (a0 : Reg) (a1 : Reg) (a2 : Reg) (a3 : BitVec 6) : Statement (.cmpTst a0 a1 a2 a3) := .inl ⟨rfl, rfl⟩
theorem cmpTstz (a0 : Reg) (a1 : Reg) (a2 : Reg) (a3 : BitVec 6) : Statement (.cmpTstz a0 a1 a2 a3) := .inl ⟨rfl, rfl⟩
theorem bext (a0 : Reg) (a1 : Reg) (a2 : BitVec 6) (a3 : BitVec 6) : Statement (.bext a0 a1 a2 a3) := .inl ⟨rfl, rfl⟩
theorem bins (a0 : Reg) (a1 : Reg) (a2 : BitVec 6) (a3 : BitVec 6) : Statement (.bins a0 a1 a2 a3) := .inl ⟨rfl, rfl⟩
theorem ld (a0 : Reg) (a1 : Reg) (a2 : BitVec 2) (a3 : BitVec 12) : Statement (.ld a0 a1 a2 a3) := .inl ⟨rfl, rfl⟩
theorem lds (a0 : Reg) (a1 : Reg) (a2 : BitVec 2) (a3 : BitVec 12) : Statement (.lds a0 a1 a2 a3) := .inl ⟨rfl, rfl⟩
theorem st (a0 : Reg) (a1 : Reg) (a2 : BitVec 2) (a3 : BitVec 12) : Statement (.st a0 a1 a2 a3) := .inl ⟨rfl, rfl⟩
theorem addr (a0 : Reg) (a1 : Reg) (a2 : Reg) (a3 : BitVec 2) (a4 : BitVec 6) : Statement (.addr a0 a1 a2 a3 a4) := .inl ⟨rfl, rfl⟩
theorem semw (a0 : Reg) (a1 : BitVec 8) (a2 : BitVec 11) : Statement (.semw a0 a1 a2) := .inl ⟨rfl, rfl⟩
theorem semwReg (a0 : Reg) (a1 : BitVec 8) (a2 : Reg) : Statement (.semwReg a0 a1 a2) := .inl ⟨rfl, rfl⟩
theorem semp (a0 : Reg) (a1 : BitVec 8) (a2 : BitVec 11) : Statement (.semp a0 a1 a2) := .inl ⟨rfl, rfl⟩
theorem sempReg (a0 : Reg) (a1 : BitVec 8) (a2 : Reg) : Statement (.sempReg a0 a1 a2) := .inl ⟨rfl, rfl⟩
theorem brf : Statement .brf := .inl ⟨rfl, rfl⟩
theorem brfCall : Statement .brfCall := .inl ⟨rfl, rfl⟩
theorem brfRet : Statement .brfRet := .inl ⟨rfl, rfl⟩
theorem rfjoin : Statement .rfjoin := .inl ⟨rfl, rfl⟩
theorem rfret : Statement .rfret := .inl ⟨rfl, rfl⟩
theorem nop : Statement .nop := .inl ⟨rfl, rfl⟩
theorem endEngine : Statement .endEngine := .inl ⟨rfl, rfl⟩
theorem fence (a0 : BitVec 5) (a1 : BitVec 5) : Statement (.fence a0 a1) := .inl ⟨rfl, rfl⟩
theorem trap (a0 : BitVec 16) : Statement (.trap a0) := .inl ⟨rfl, rfl⟩
theorem send (a0 : Reg) (a1 : Engine) : Statement (.send a0 a1) := .inl ⟨rfl, rfl⟩
theorem recv (a0 : Reg) (a1 : Engine) : Statement (.recv a0 a1) := .inl ⟨rfl, rfl⟩
theorem prep (a0 : BitVec 3) (a1 : BitVec 13) : Statement (.prep a0 a1) := .inl ⟨rfl, rfl⟩
theorem br (a0 : BitVec 3) (a1 : BitVec 6) (a2 : BitVec 6) (a3 : Bool) (a4 : BitVec 3) : Statement (.br a0 a1 a2 a3 a4) := .inl ⟨rfl, rfl⟩
theorem brUncond (a0 : BitVec 3) (a1 : BitVec 3) : Statement (.brUncond a0 a1) := .inl ⟨rfl, rfl⟩
theorem call (a0 : BitVec 3) (a1 : BitVec 6) (a2 : BitVec 6) (a3 : Bool) (a4 : BitVec 3) : Statement (.call a0 a1 a2 a3 a4) := .inl ⟨rfl, rfl⟩
theorem callUncond (a0 : BitVec 3) (a1 : BitVec 3) : Statement (.callUncond a0 a1) := .inl ⟨rfl, rfl⟩
theorem ret (a0 : BitVec 6) (a1 : BitVec 6) (a2 : Bool) (a3 : BitVec 3) : Statement (.ret a0 a1 a2 a3) := .inl ⟨rfl, rfl⟩
theorem retUncond (a0 : BitVec 3) : Statement (.retUncond a0) := .inl ⟨rfl, rfl⟩
theorem loopb (a0 : Reg) (a1 : BitVec 7) (a2 : BitVec 3) (a3 : BitVec 4) (a4 : BitVec 4) : Statement (.loopb a0 a1 a2 a3 a4) := .inl ⟨rfl, rfl⟩
theorem csrr (a0 : Reg) (a1 : BitVec 12) : Statement (.csrr a0 a1) := .inl ⟨rfl, rfl⟩
theorem csrw (a0 : Reg) (a1 : BitVec 12) : Statement (.csrw a0 a1) := .inl ⟨rfl, rfl⟩
theorem binit (a0 : Reg) (a1 : BitVec 5) : Statement (.binit a0 a1) := .inl ⟨rfl, rfl⟩
theorem barv (a0 : Reg) (a1 : BitVec 5) : Statement (.barv a0 a1) := .inl ⟨rfl, rfl⟩
theorem bwt (a0 : Reg) (a1 : BitVec 5) : Statement (.bwt a0 a1) := .inl ⟨rfl, rfl⟩
theorem refine (a0 : Reg) (a1 : BitVec 14) : Statement (.refine a0 a1) := .inl ⟨rfl, rfl⟩
theorem launch (a0 : Reg) (a1 : Reg) (a2 : Reg) : Statement (.launch a0 a1 a2) := .inl ⟨rfl, rfl⟩
theorem mcw (a0 : Reg) (a1 : BitVec 12) : Statement (.mcw a0 a1) := .inl ⟨rfl, rfl⟩
theorem rett : Statement .rett := .inl ⟨rfl, rfl⟩
theorem mvx (a0 : Reg) (a1 : BitVec 2) : Statement (.mvx a0 a1) := .inl ⟨rfl, rfl⟩
theorem mvq (a0 : Reg) (a1 : BitVec 2) : Statement (.mvq a0 a1) := .inl ⟨rfl, rfl⟩
theorem mva (a0 : Reg) (a1 : BitVec 2) : Statement (.mva a0 a1) := .inl ⟨rfl, rfl⟩
theorem mvw (a0 : Reg) (a1 : BitVec 2) : Statement (.mvw a0 a1) := .inl ⟨rfl, rfl⟩
theorem tdef (a0 : Reg) (a1 : Reg) (a2 : BitVec 8) (a3 : Reg) : Statement (.tdef a0 a1 a2 a3) := .inl ⟨rfl, rfl⟩
theorem tset (a0 : Reg) (a1 : BitVec 8) (a2 : BitVec 2) : Statement (.tset a0 a1 a2) := .inl ⟨rfl, rfl⟩
theorem tget (a0 : Reg) (a1 : Reg) (a2 : BitVec 8) : Statement (.tget a0 a1 a2) := .inl ⟨rfl, rfl⟩
theorem vld (a0 : Reg) (a1 : Reg) (a2 : BitVec 14) : Statement (.vld a0 a1 a2) := .inl ⟨rfl, rfl⟩
theorem vst (a0 : Reg) (a1 : Reg) (a2 : BitVec 14) : Statement (.vst a0 a1 a2) := .inl ⟨rfl, rfl⟩
theorem vldt (a0 : Reg) (a1 : Reg) (a2 : BitVec 8) : Statement (.vldt a0 a1 a2) := .inl ⟨rfl, rfl⟩
theorem vstt (a0 : Reg) (a1 : Reg) (a2 : BitVec 8) : Statement (.vstt a0 a1 a2) := .inl ⟨rfl, rfl⟩
theorem vmov (a0 : Reg) (a1 : Reg) (a2 : BitVec 4) : Statement (.vmov a0 a1 a2) := .inl ⟨rfl, rfl⟩
theorem vsplat (a0 : Reg) (a1 : Reg) (a2 : BitVec 4) : Statement (.vsplat a0 a1 a2) := .inl ⟨rfl, rfl⟩
theorem vmovs (a0 : Reg) (a1 : Reg) (a2 : Reg) (a3 : BitVec 4) : Statement (.vmovs a0 a1 a2 a3) := .inl ⟨rfl, rfl⟩
theorem vadd (a0 : Reg) (a1 : Reg) (a2 : Reg) (a3 : BitVec 4) : Statement (.vadd a0 a1 a2 a3) := .inl ⟨rfl, rfl⟩
theorem vsub (a0 : Reg) (a1 : Reg) (a2 : Reg) (a3 : BitVec 4) : Statement (.vsub a0 a1 a2 a3) := .inl ⟨rfl, rfl⟩
theorem vmul (a0 : Reg) (a1 : Reg) (a2 : Reg) (a3 : BitVec 4) : Statement (.vmul a0 a1 a2 a3) := .inl ⟨rfl, rfl⟩
theorem vmin (a0 : Reg) (a1 : Reg) (a2 : Reg) (a3 : BitVec 4) : Statement (.vmin a0 a1 a2 a3) := .inl ⟨rfl, rfl⟩
theorem vmax (a0 : Reg) (a1 : Reg) (a2 : Reg) (a3 : BitVec 4) : Statement (.vmax a0 a1 a2 a3) := .inl ⟨rfl, rfl⟩
theorem vabs (a0 : Reg) (a1 : Reg) (a2 : BitVec 4) : Statement (.vabs a0 a1 a2) := .inl ⟨rfl, rfl⟩
theorem vneg (a0 : Reg) (a1 : Reg) (a2 : BitVec 4) : Statement (.vneg a0 a1 a2) := .inl ⟨rfl, rfl⟩
theorem vand (a0 : Reg) (a1 : Reg) (a2 : Reg) (a3 : BitVec 4) : Statement (.vand a0 a1 a2 a3) := .inl ⟨rfl, rfl⟩
theorem vor (a0 : Reg) (a1 : Reg) (a2 : Reg) (a3 : BitVec 4) : Statement (.vor a0 a1 a2 a3) := .inl ⟨rfl, rfl⟩
theorem vxor (a0 : Reg) (a1 : Reg) (a2 : Reg) (a3 : BitVec 4) : Statement (.vxor a0 a1 a2 a3) := .inl ⟨rfl, rfl⟩
theorem vshl (a0 : Reg) (a1 : Reg) (a2 : Reg) (a3 : BitVec 4) : Statement (.vshl a0 a1 a2 a3) := .inl ⟨rfl, rfl⟩
theorem vshr (a0 : Reg) (a1 : Reg) (a2 : Reg) (a3 : BitVec 4) : Statement (.vshr a0 a1 a2 a3) := .inl ⟨rfl, rfl⟩
theorem vsra (a0 : Reg) (a1 : Reg) (a2 : Reg) (a3 : BitVec 4) : Statement (.vsra a0 a1 a2 a3) := .inl ⟨rfl, rfl⟩
theorem vadds (a0 : Reg) (a1 : Reg) (a2 : Reg) (a3 : BitVec 4) : Statement (.vadds a0 a1 a2 a3) := .inl ⟨rfl, rfl⟩
theorem vsubs (a0 : Reg) (a1 : Reg) (a2 : Reg) (a3 : BitVec 4) : Statement (.vsubs a0 a1 a2 a3) := .inl ⟨rfl, rfl⟩
theorem vfma (a0 : Reg) (a1 : Reg) (a2 : Reg) (a3 : Reg) (a4 : BitVec 4) (a5 : BitVec 4) (a6 : Bool) (a7 : BitVec 3) : Statement (.vfma a0 a1 a2 a3 a4 a5 a6 a7) := .inr (.inl ⟨rfl, rfl⟩)
theorem vfms (a0 : Reg) (a1 : Reg) (a2 : Reg) (a3 : Reg) (a4 : BitVec 4) (a5 : BitVec 4) (a6 : Bool) (a7 : BitVec 3) : Statement (.vfms a0 a1 a2 a3 a4 a5 a6 a7) := .inr (.inl ⟨rfl, rfl⟩)
theorem vcmp (a0 : Reg) (a1 : Reg) (a2 : Reg) (a3 : BitVec 4) (a4 : BitVec 4) : Statement (.vcmp a0 a1 a2 a3 a4) := .inl ⟨rfl, rfl⟩
theorem vsel (a0 : Reg) (a1 : Reg) (a2 : Reg) (a3 : BitVec 4) : Statement (.vsel a0 a1 a2 a3) := .inl ⟨rfl, rfl⟩
theorem vcvt (a0 : Reg) (a1 : Reg) (a2 : BitVec 4) (a3 : BitVec 4) (a4 : Bool) (a5 : BitVec 3) : Statement (.vcvt a0 a1 a2 a3 a4 a5) := .inr (.inl ⟨rfl, rfl⟩)
theorem vwid (a0 : Reg) (a1 : Reg) (a2 : BitVec 4) (a3 : BitVec 4) (a4 : Bool) (a5 : BitVec 3) : Statement (.vwid a0 a1 a2 a3 a4 a5) := .inr (.inl ⟨rfl, rfl⟩)
theorem vnar (a0 : Reg) (a1 : Reg) (a2 : BitVec 4) (a3 : BitVec 4) (a4 : Bool) (a5 : BitVec 3) : Statement (.vnar a0 a1 a2 a3 a4 a5) := .inr (.inl ⟨rfl, rfl⟩)
theorem vscl (a0 : Reg) (a1 : Reg) (a2 : Reg) (a3 : BitVec 4) (a4 : BitVec 4) (a5 : Bool) (a6 : BitVec 3) (a7 : BitVec 3) : Statement (.vscl a0 a1 a2 a3 a4 a5 a6 a7) := .inr (.inl ⟨rfl, rfl⟩)
theorem vamax (a0 : Reg) (a1 : Reg) (a2 : BitVec 4) (a3 : BitVec 4) : Statement (.vamax a0 a1 a2 a3) := .inl ⟨rfl, rfl⟩
theorem vqnt (a0 : Reg) (a1 : Reg) (a2 : Reg) (a3 : BitVec 4) (a4 : BitVec 4) (a5 : Bool) (a6 : BitVec 3) (a7 : BitVec 3) : Statement (.vqnt a0 a1 a2 a3 a4 a5 a6 a7) := .inr (.inl ⟨rfl, rfl⟩)
theorem vrcp (a0 : Reg) (a1 : Reg) (a2 : BitVec 4) : Statement (.vrcp a0 a1 a2) := .inl ⟨rfl, rfl⟩
theorem vsqrt (a0 : Reg) (a1 : Reg) (a2 : BitVec 4) : Statement (.vsqrt a0 a1 a2) := .inl ⟨rfl, rfl⟩
theorem vrsq (a0 : Reg) (a1 : Reg) (a2 : BitVec 4) : Statement (.vrsq a0 a1 a2) := .inl ⟨rfl, rfl⟩
theorem vexp2 (a0 : Reg) (a1 : Reg) (a2 : BitVec 4) : Statement (.vexp2 a0 a1 a2) := .inl ⟨rfl, rfl⟩
theorem vlog2 (a0 : Reg) (a1 : Reg) (a2 : BitVec 4) : Statement (.vlog2 a0 a1 a2) := .inl ⟨rfl, rfl⟩
theorem vperm (a0 : Reg) (a1 : Reg) (a2 : Reg) (a3 : Reg) (a4 : BitVec 4) : Statement (.vperm a0 a1 a2 a3 a4) := .inr (.inl ⟨rfl, rfl⟩)
theorem vred (a0 : Reg) (a1 : Reg) (a2 : BitVec 4) (a3 : BitVec 4) : Statement (.vred a0 a1 a2 a3) := .inl ⟨rfl, rfl⟩
theorem vscan (a0 : Reg) (a1 : Reg) (a2 : BitVec 4) (a3 : Bool) (a4 : BitVec 2) : Statement (.vscan a0 a1 a2 a3 a4) := .inl ⟨rfl, rfl⟩
theorem vbcst (a0 : Reg) (a1 : Reg) (a2 : Reg) (a3 : BitVec 4) : Statement (.vbcst a0 a1 a2 a3) := .inl ⟨rfl, rfl⟩
theorem vvoteAny (a0 : Reg) (a1 : Reg) (a2 : BitVec 4) : Statement (.vvoteAny a0 a1 a2) := .inl ⟨rfl, rfl⟩
theorem vvoteAll (a0 : Reg) (a1 : Reg) (a2 : BitVec 4) : Statement (.vvoteAll a0 a1 a2) := .inl ⟨rfl, rfl⟩
theorem vbnet (a0 : Reg) (a1 : Reg) (a2 : BitVec 3) : Statement (.vbnet a0 a1 a2) := .inl ⟨rfl, rfl⟩
theorem vbpat (a0 : Reg) (a1 : Reg) (a2 : BitVec 14) : Statement (.vbpat a0 a1 a2) := .inl ⟨rfl, rfl⟩
theorem vchain (a0 : Reg) (a1 : BitVec 14) : Statement (.vchain a0 a1) := .inl ⟨rfl, rfl⟩
theorem vmvl (a0 : Reg) (a1 : Reg) (a2 : BitVec 4) : Statement (.vmvl a0 a1 a2) := .inl ⟨rfl, rfl⟩
theorem vdot (a0 : Reg) (a1 : Reg) (a2 : Reg) (a3 : Reg) (a4 : BitVec 4) (a5 : BitVec 4) : Statement (.vdot a0 a1 a2 a3 a4 a5) := .inr (.inl ⟨rfl, rfl⟩)
theorem mgo : Statement .mgo := .inl ⟨rfl, rfl⟩
theorem mgoKeep : Statement .mgoKeep := .inl ⟨rfl, rfl⟩
theorem mma : Statement .mma := .inl ⟨rfl, rfl⟩
theorem mmaRst : Statement .mmaRst := .inl ⟨rfl, rfl⟩
theorem mcfg (a0 : Reg) (a1 : BitVec 11) : Statement (.mcfg a0 a1) := .inl ⟨rfl, rfl⟩
theorem mcfgSh (a0 : Reg) (a1 : BitVec 11) : Statement (.mcfgSh a0 a1) := .inl ⟨rfl, rfl⟩
theorem azero (a0 : Reg) : Statement (.azero a0) := .inl ⟨rfl, rfl⟩
theorem astat (a0 : Reg) (a1 : Reg) : Statement (.astat a0 a1) := .inl ⟨rfl, rfl⟩
theorem astatVal (a0 : Reg) (a1 : Reg) : Statement (.astatVal a0 a1) := .inl ⟨rfl, rfl⟩
theorem astatCln (a0 : Reg) (a1 : Reg) : Statement (.astatCln a0 a1) := .inl ⟨rfl, rfl⟩
theorem arel (a0 : Reg) : Statement (.arel a0) := .inl ⟨rfl, rfl⟩
theorem acpyChA (a0 : Reg) (a1 : Reg) : Statement (.acpyChA a0 a1) := .inl ⟨rfl, rfl⟩
theorem acpyACh (a0 : Reg) (a1 : Reg) : Statement (.acpyACh a0 a1) := .inl ⟨rfl, rfl⟩
theorem acpyAddChA (a0 : Reg) (a1 : Reg) : Statement (.acpyAddChA a0 a1) := .inl ⟨rfl, rfl⟩
theorem acpyAddACh (a0 : Reg) (a1 : Reg) : Statement (.acpyAddACh a0 a1) := .inl ⟨rfl, rfl⟩
theorem acpyI32ChA (a0 : Reg) (a1 : Reg) : Statement (.acpyI32ChA a0 a1) := .inl ⟨rfl, rfl⟩
theorem acpyI32ACh (a0 : Reg) (a1 : Reg) : Statement (.acpyI32ACh a0 a1) := .inl ⟨rfl, rfl⟩
theorem acpyAddI32ChA (a0 : Reg) (a1 : Reg) : Statement (.acpyAddI32ChA a0 a1) := .inl ⟨rfl, rfl⟩
theorem acpyAddI32ACh (a0 : Reg) (a1 : Reg) : Statement (.acpyAddI32ACh a0 a1) := .inl ⟨rfl, rfl⟩
theorem crel (a0 : Reg) : Statement (.crel a0) := .inl ⟨rfl, rfl⟩
theorem cstat (a0 : Reg) (a1 : Reg) : Statement (.cstat a0 a1) := .inl ⟨rfl, rfl⟩
theorem cstatClr (a0 : Reg) (a1 : Reg) : Statement (.cstatClr a0 a1) := .inl ⟨rfl, rfl⟩
theorem malias : Statement .malias := .inl ⟨rfl, rfl⟩
theorem msamp : Statement .msamp := .inl ⟨rfl, rfl⟩
theorem msrd (a0 : Reg) (a1 : BitVec 12) : Statement (.msrd a0 a1) := .inl ⟨rfl, rfl⟩
theorem mswr (a0 : Reg) (a1 : BitVec 12) : Statement (.mswr a0 a1) := .inl ⟨rfl, rfl⟩
theorem vResultLanding : Statement .vResultLanding := .inr (.inr (.inr ⟨rfl, rfl⟩))
theorem vchainElement : Statement .vchainElement := .inr (.inr (.inr ⟨rfl, rfl⟩))
theorem mStep : Statement .mStep := .inr (.inr (.inr ⟨rfl, rfl⟩))
theorem msampGroup : Statement .msampGroup := .inr (.inr (.inr ⟨rfl, rfl⟩))
theorem refineCall : Statement .refineCall := .inr (.inr (.inr ⟨rfl, rfl⟩))
theorem refineNormTest : Statement .refineNormTest := .inr (.inr (.inr ⟨rfl, rfl⟩))
theorem stallWatchdog (a0 : Nat) : Statement (.stallWatchdog a0) := .inr (.inr (.inr ⟨rfl, rfl⟩))
theorem cellStart : Statement .cellStart := .inr (.inr (.inr ⟨rfl, rfl⟩))
theorem superstepEnd (a0 : BitVec 3) : Statement (.superstepEnd a0) := .inr (.inr (.inr ⟨rfl, rfl⟩))
theorem schedulerChoice (a0 : BitVec 3) : Statement (.schedulerChoice a0) := .inr (.inr (.inr ⟨rfl, rfl⟩))
theorem timesliceExpiry (a0 : BitVec 3) : Statement (.timesliceExpiry a0) := .inr (.inr (.inr ⟨rfl, rfl⟩))
theorem chainStart : Statement .chainStart := .inr (.inr (.inr ⟨rfl, rfl⟩))
theorem pumpTransferUnit : Statement .pumpTransferUnit := .inr (.inr (.inr ⟨rfl, rfl⟩))
theorem streamWaitSatisfied : Statement .streamWaitSatisfied := .inr (.inr (.inr ⟨rfl, rfl⟩))
theorem commandCompletion : Statement .commandCompletion := .inr (.inr (.inr ⟨rfl, rfl⟩))
theorem pageWalk (a0 : W) (a1 : Bool) : Statement (.pageWalk a0 a1) := .inr (.inr (.inr ⟨rfl, rfl⟩))
theorem faultRecordPost : Statement .faultRecordPost := .inr (.inr (.inr ⟨rfl, rfl⟩))
theorem copy (a0 : EntHdr) (a1 : W) (a2 : W) (a3 : BitVec 16) (a4 : BitVec 16) (a5 : BitVec 16) (a6 : BitVec 16) (a7 : W32) (a8 : W32) (a9 : W32) (a10 : W32) (a11 : W32) (a12 : W32) : Statement (.copy a0 a1 a2 a3 a4 a5 a6 a7 a8 a9 a10 a11 a12) := .inr (.inr (.inl ⟨rfl, by rw [encodeEntry_copy]; simp only [List.length_append, wordBytes_length, hdrBytes_length, zb_length, List.length_cons, List.length_nil]⟩))
theorem gath (a0 : EntHdr) (a1 : W) (a2 : W) (a3 : W) (a4 : W32) (a5 : W32) (a6 : W) (a7 : Byte) : Statement (.gath a0 a1 a2 a3 a4 a5 a6 a7) := .inr (.inr (.inl ⟨rfl, by rw [encodeEntry_gath]; simp only [List.length_append, wordBytes_length, hdrBytes_length, zb_length, List.length_cons, List.length_nil]⟩))
theorem scat (a0 : EntHdr) (a1 : W) (a2 : W) (a3 : W) (a4 : W32) (a5 : W32) (a6 : W) (a7 : Byte) : Statement (.scat a0 a1 a2 a3 a4 a5 a6 a7) := .inr (.inr (.inl ⟨rfl, by rw [encodeEntry_scat]; simp only [List.length_append, wordBytes_length, hdrBytes_length, zb_length, List.length_cons, List.length_nil]⟩))
theorem xpose (a0 : EntHdr) (a1 : W) (a2 : W) (a3 : W32) (a4 : W32) (a5 : W) (a6 : W) : Statement (.xpose a0 a1 a2 a3 a4 a5 a6) := .inr (.inr (.inl ⟨rfl, by rw [encodeEntry_xpose]; simp only [List.length_append, wordBytes_length, hdrBytes_length, zb_length, List.length_cons, List.length_nil]⟩))
theorem conv (a0 : EntHdr) (a1 : W) (a2 : W) (a3 : W) (a4 : W32) (a5 : Off) (a6 : BitVec 4) (a7 : Bool) (a8 : Bool) (a9 : BitVec 3) (a10 : BitVec 16) (a11 : W) : Statement (.conv a0 a1 a2 a3 a4 a5 a6 a7 a8 a9 a10 a11) := .inr (.inr (.inl ⟨rfl, by rw [encodeEntry_conv]; simp only [List.length_append, wordBytes_length, hdrBytes_length, zb_length, List.length_cons, List.length_nil]⟩))
theorem decomp (a0 : EntHdr) (a1 : W) (a2 : W) (a3 : W32) : Statement (.decomp a0 a1 a2 a3) := .inr (.inr (.inl ⟨rfl, by rw [encodeEntry_decomp]; simp only [List.length_append, wordBytes_length, hdrBytes_length, zb_length, List.length_cons, List.length_nil]⟩))
theorem cmprs (a0 : EntHdr) (a1 : W) (a2 : W) (a3 : W) (a4 : W) (a5 : W32) (a6 : BitVec 3) (a7 : W) : Statement (.cmprs a0 a1 a2 a3 a4 a5 a6 a7) := .inr (.inr (.inl ⟨rfl, by rw [encodeEntry_cmprs]; simp only [List.length_append, wordBytes_length, hdrBytes_length, zb_length, List.length_cons, List.length_nil]⟩))
theorem mcast (a0 : EntHdr) (a1 : W) (a2 : W) (a3 : W32) (a4 : Byte) : Statement (.mcast a0 a1 a2 a3 a4) := .inr (.inr (.inl ⟨rfl, by rw [encodeEntry_mcast]; simp only [List.length_append, wordBytes_length, hdrBytes_length, zb_length, List.length_cons, List.length_nil]⟩))
theorem red (a0 : EntHdr) (a1 : W) (a2 : W) (a3 : W32) (a4 : Byte) (a5 : BitVec 2) (a6 : Bool) (a7 : Byte) : Statement (.red a0 a1 a2 a3 a4 a5 a6 a7) := .inr (.inr (.inl ⟨rfl, by rw [encodeEntry_red]; simp only [List.length_append, wordBytes_length, hdrBytes_length, zb_length, List.length_cons, List.length_nil]⟩))
theorem fill (a0 : EntHdr) (a1 : W) (a2 : W32) (a3 : W) : Statement (.fill a0 a1 a2 a3) := .inr (.inr (.inl ⟨rfl, by rw [encodeEntry_fill]; simp only [List.length_append, wordBytes_length, hdrBytes_length, zb_length, List.length_cons, List.length_nil]⟩))
theorem atom (a0 : EntHdr) (a1 : W) (a2 : W) (a3 : W) (a4 : Off) (a5 : BitVec 3) (a6 : Bool) : Statement (.atom a0 a1 a2 a3 a4 a5 a6) := .inr (.inr (.inl ⟨rfl, by rw [encodeEntry_atom]; simp only [List.length_append, wordBytes_length, hdrBytes_length, zb_length, List.length_cons, List.length_nil]⟩))
theorem sempr (a0 : EntHdr) (a1 : W) (a2 : W32) : Statement (.sempr a0 a1 a2) := .inr (.inr (.inl ⟨rfl, by rw [encodeEntry_sempr]; simp only [List.length_append, wordBytes_length, hdrBytes_length, zb_length, List.length_cons, List.length_nil]⟩))
theorem flipv (a0 : EntHdr) (a1 : Byte) (a2 : Byte) (a3 : Bool) : Statement (.flipv a0 a1 a2 a3) := .inr (.inr (.inl ⟨rfl, by rw [encodeEntry_flipv]; simp only [List.length_append, wordBytes_length, hdrBytes_length, zb_length, List.length_cons, List.length_nil]⟩))
theorem pref (a0 : EntHdr) (a1 : W) (a2 : W) : Statement (.pref a0 a1 a2) := .inr (.inr (.inl ⟨rfl, by rw [encodeEntry_pref]; simp only [List.length_append, wordBytes_length, hdrBytes_length, zb_length, List.length_cons, List.length_nil]⟩))
theorem loop (a0 : W32) (a1 : W) (a2 : W) (a3 : W) : Statement (.loop a0 a1 a2 a3) := .inr (.inr (.inl ⟨rfl, by rw [encodeEntry_loop]; simp only [List.length_append, wordBytes_length, hdrBytes_length, zb_length, List.length_cons, List.length_nil]⟩))
theorem endl : Statement .endl := .inr (.inr (.inl ⟨rfl, by rw [encodeEntry_endl]; simp only [List.length_append, wordBytes_length, hdrBytes_length, zb_length, List.length_cons, List.length_nil]⟩))
theorem ifsem (a0 : Off) (a1 : W32) (a2 : W32) : Statement (.ifsem a0 a1 a2) := .inr (.inr (.inl ⟨rfl, by rw [encodeEntry_ifsem]; simp only [List.length_append, wordBytes_length, hdrBytes_length, zb_length, List.length_cons, List.length_nil]⟩))
theorem waits (a0 : Off) (a1 : W32) : Statement (.waits a0 a1) := .inr (.inr (.inl ⟨rfl, by rw [encodeEntry_waits]; simp only [List.length_append, wordBytes_length, hdrBytes_length, zb_length, List.length_cons, List.length_nil]⟩))
theorem jmp (a0 : W32) : Statement (.jmp a0) := .inr (.inr (.inl ⟨rfl, by rw [encodeEntry_jmp]; simp only [List.length_append, wordBytes_length, hdrBytes_length, zb_length, List.length_cons, List.length_nil]⟩))
theorem chainFence (a0 : Byte) (a1 : Byte) : Statement (.chainFence a0 a1) := .inr (.inr (.inl ⟨rfl, by rw [encodeEntry_chainFence]; simp only [List.length_append, wordBytes_length, hdrBytes_length, zb_length, List.length_cons, List.length_nil]⟩))
theorem chainEnd : Statement .chainEnd := .inr (.inr (.inl ⟨rfl, by rw [encodeEntry_chainEnd]; simp only [List.length_append, wordBytes_length, hdrBytes_length, zb_length, List.length_cons, List.length_nil]⟩))
theorem windowAccess (a0 : Nat) : Statement (.windowAccess a0) := .inr (.inr (.inr ⟨rfl, rfl⟩))
theorem atomicOp (a0 : Fin 40) : Statement (.atomicOp a0) := .inr (.inr (.inr ⟨rfl, rfl⟩))
theorem queueBind (a0 : W) : Statement (.queueBind a0) := .inr (.inr (.inr ⟨rfl, rfl⟩))
theorem queueUnbind (a0 : W) : Statement (.queueUnbind a0) := .inr (.inr (.inr ⟨rfl, rfl⟩))
theorem queueReset (a0 : W) : Statement (.queueReset a0) := .inr (.inr (.inr ⟨rfl, rfl⟩))
theorem doorbell (a0 : BitVec 10) (a1 : W) : Statement (.doorbell a0 a1) := .inr (.inr (.inr ⟨rfl, rfl⟩))
theorem packetHeaderPoll (a0 : BitVec 10) : Statement (.packetHeaderPoll a0) := .inr (.inr (.inr ⟨rfl, rfl⟩))
theorem launchPacket (a0 : BitVec 10) : Statement (.launchPacket a0) := .inr (.inr (.inr ⟨rfl, rfl⟩))
theorem opchain (a0 : BitVec 10) : Statement (.opchain a0) := .inr (.inr (.inr ⟨rfl, rfl⟩))
theorem waitsig (a0 : BitVec 10) : Statement (.waitsig a0) := .inr (.inr (.inr ⟨rfl, rfl⟩))
theorem waitsigPoll (a0 : BitVec 10) : Statement (.waitsigPoll a0) := .inr (.inr (.inr ⟨rfl, rfl⟩))
theorem signal (a0 : BitVec 10) : Statement (.signal a0) := .inr (.inr (.inr ⟨rfl, rfl⟩))
theorem nopPacket (a0 : BitVec 10) : Statement (.nopPacket a0) := .inr (.inr (.inr ⟨rfl, rfl⟩))
theorem resume (a0 : W) : Statement (.resume a0) := .inr (.inr (.inr ⟨rfl, rfl⟩))
theorem abort (a0 : W) : Statement (.abort a0) := .inr (.inr (.inr ⟨rfl, rfl⟩))
theorem shootdown (a0 : W) : Statement (.shootdown a0) := .inr (.inr (.inr ⟨rfl, rfl⟩))
theorem shootdownAck : Statement .shootdownAck := .inr (.inr (.inr ⟨rfl, rfl⟩))
theorem mailboxRequest (a0 : W) : Statement (.mailboxRequest a0) := .inr (.inr (.inr ⟨rfl, rfl⟩))
theorem mailboxResponse : Statement .mailboxResponse := .inr (.inr (.inr ⟨rfl, rfl⟩))
theorem getMeasurements (a0 : Transport) (a1 : Bool) : Statement (.getMeasurements a0 a1) := .inr (.inr (.inr ⟨rfl, rfl⟩))
theorem negotiateAlgorithms (a0 : Transport) (a1 : Bool) : Statement (.negotiateAlgorithms a0 a1) := .inr (.inr (.inr ⟨rfl, rfl⟩))
theorem keyExchange (a0 : Transport) (a1 : BitVec 32) : Statement (.keyExchange a0 a1) := .inr (.inr (.inr ⟨rfl, rfl⟩))
theorem challenge (a0 : Transport) : Statement (.challenge a0) := .inr (.inr (.inr ⟨rfl, rfl⟩))
theorem keyload (a0 : Transport) (a1 : Option (BitVec 32)) (a2 : List Byte) (a3 : List Byte) (a4 : List Byte) : Statement (.keyload a0 a1 a2 a3 a4) := .inr (.inr (.inr ⟨rfl, rfl⟩))
theorem keyclear (a0 : Transport) (a1 : Option (BitVec 32)) (a2 : List Byte) (a3 : List Byte) : Statement (.keyclear a0 a1 a2 a3) := .inr (.inr (.inr ⟨rfl, rfl⟩))
theorem fwstage (a0 : Transport) (a1 : Option (BitVec 32)) (a2 : List Byte) (a3 : List Byte) (a4 : List Byte) : Statement (.fwstage a0 a1 a2 a3 a4) := .inr (.inr (.inr ⟨rfl, rfl⟩))
theorem fwactivate (a0 : Transport) (a1 : Option (BitVec 32)) (a2 : List Byte) (a3 : List Byte) (a4 : List Byte) (a5 : List Byte) (a6 : List Byte) : Statement (.fwactivate a0 a1 a2 a3 a4 a5 a6) := .inr (.inr (.inr ⟨rfl, rfl⟩))
theorem fwquery (a0 : Transport × List Byte) : Statement (.fwquery a0) := .inr (.inr (.inr ⟨rfl, rfl⟩))
theorem policyRequest (a0 : BitVec 16) (a1 : BitVec 16) (a2 : BitVec 16) (a3 : Byte) (a4 : Byte) : Statement (.policyRequest a0 a1 a2 a3 a4) := .inr (.inr (.inr ⟨rfl, rfl⟩))
theorem hbeat (a0 : W) : Statement (.hbeat a0) := .inr (.inr (.inr ⟨rfl, rfl⟩))
theorem updateHbeatTimeout : Statement .updateHbeatTimeout := .inr (.inr (.inr ⟨rfl, rfl⟩))
theorem heartbeatMissed : Statement .heartbeatMissed := .inr (.inr (.inr ⟨rfl, rfl⟩))
theorem deviceReset (a0 : BootImage) : Statement (.deviceReset a0) := .inr (.inr (.inr ⟨rfl, rfl⟩))
theorem hostMemoryAccess (a0 : HostWin) (a1 : W) (a2 : Nat) (a3 : Option (List Byte)) : Statement (.hostMemoryAccess a0 a1 a2 a3) := .inr (.inr (.inr ⟨rfl, rfl⟩))
theorem peerAccess (a0 : BitVec 15) (a1 : W) (a2 : PeerOp) : Statement (.peerAccess a0 a1 a2) := .inr (.inr (.inr ⟨rfl, rfl⟩))
theorem registerWrite (a0 : BitVec 20) (a1 : Nat) (a2 : W) : Statement (.registerWrite a0 a1 a2) := .inr (.inr (.inr ⟨rfl, rfl⟩))
theorem linkDown (a0 : Fin 36) : Statement (.linkDown a0) := .inr (.inr (.inr ⟨rfl, rfl⟩))
theorem correctedError (a0 : Fin 6) : Statement (.correctedError a0) := .inr (.inr (.inr ⟨rfl, rfl⟩))
theorem supplyDroop (a0 : Nat) : Statement (.supplyDroop a0) := .inr (.inr (.inr ⟨rfl, rfl⟩))
theorem thermalThrottle (a0 : Nat) : Statement (.thermalThrottle a0) := .inr (.inr (.inr ⟨rfl, rfl⟩))
theorem thermalShutdown : Statement .thermalShutdown := .inr (.inr (.inr ⟨rfl, rfl⟩))
theorem lineAdvance : Statement .lineAdvance := .inr (.inr (.inr ⟨rfl, rfl⟩))
theorem writePerformed (a0 : WSpace) (a1 : Nat) (a2 : Nat) : Statement (.writePerformed a0 a1 a2) := .inr (.inr (.inr ⟨rfl, rfl⟩))
theorem firmwarePolicyWrite (a0 : PolicyWrite) : Statement (.firmwarePolicyWrite a0) := .inr (.inr (.inr ⟨rfl, rfl⟩))

end Encoding
end Laws
end Sys2Proof
end

