-- ==== Sys2Proof/Laws/Riscv.lean ====
section
/-! SUPPORT. What a turn of the firmware core can do (R6): register 0 reads zero after it, and its memory keeps its size and its
canonical form. -/

namespace Sys2Proof
namespace Machine

theorem Memory.mem_putAll (m : Memory) (cs : List (Nat × Byte)) (c : Nat × Byte) (h : c ∈ m.putAll cs) : c ∈ m ∨ c ∈ cs := by
  induction cs with
  | nil => exact .inl h
  | cons d r ih =>
    rcases Memory.mem_ins _ _ _ _ h with h | ⟨rfl, -⟩
    · rcases ih (List.mem_of_mem_filter h) with h | h
      · exact .inl h
      · exact .inr (List.mem_cons_of_mem _ h)
    · exact .inr (List.mem_cons_self ..)

/-- Register 0 reads zero, the memory is in the canonical form and within 256 KiB. -/
structure FwFits (f : FwCore) : Prop where
  zero : vget f.x 0 0 = 0
  wf : Memory.wf f.tcm = true
  size : ∀ c ∈ f.tcm, c.1 < 2 ^ 18

theorem fitFw_fits (f : FwCore) : FwFits (fitFw f) where
  zero := by simp [fitFw]
  wf := Memory.wf_putAll _ _ rfl
  size c h := by
    rcases Memory.mem_putAll _ _ _ h with h | h
    · cases h
    · simpa using (List.mem_filter.mp h).2

theorem FwFits.setPc {f : FwCore} (h : FwFits f) (p : W32) : FwFits { f with pc := p } := ⟨h.zero, h.wf, h.size⟩

theorem FwFits.rvSet {f : FwCore} (h : FwFits f) (n : Nat) (v : W32) : FwFits (rvSet f n v) := by
  unfold Machine.rvSet
  split
  · exact h
  · exact ⟨by simpa [*] using h.zero, h.wf, h.size⟩

theorem FwFits.rvStore {f : FwCore} (h : FwFits f) (a : W32) (n : Nat) (v : W32) : FwFits (rvStore f a n v) := by
  unfold Machine.rvStore
  split
  · refine ⟨h.zero, Memory.wf_putAll _ _ h.wf, fun c hc => ?_⟩
    rcases Memory.mem_putAll _ _ _ hc with hc | hc
    · exact h.size c hc
    · obtain ⟨i, hi, rfl⟩ := List.mem_map.mp hc
      have := List.mem_range.mp hi
      dsimp only
      omega
  · exact h

theorem rvRun_fits {f g : FwCore} {bus w len : W32} (h : FwFits f) (hg : rvRun f bus w len = some g) : FwFits g := by
  have hn := h.setPc (f.pc + len)
  unfold rvRun at hg
  dsimp only at hg
  split at hg
  case h_5 =>
    obtain ⟨t, -, rfl⟩ := Option.map_eq_some_iff.mp hg
    split
    · exact h.setPc _
    · exact hn
  all_goals
    repeat' split at hg
    all_goals cases hg
    all_goals first | exact hn | exact hn.rvSet _ _ | exact (hn.rvSet _ _).setPc _ | exact hn.rvStore _ _ _

theorem rvStep_fits {f g : FwCore} {bus : W32} (h : FwFits f) (hg : rvStep f bus = some g) : FwFits g := by
  unfold rvStep at hg
  split at hg
  · cases hg
  · split at hg
    all_goals
      obtain ⟨w, -, hw⟩ := Option.bind_eq_some_iff.mp hg
      exact rvRun_fits h hw

/-- A turn of the firmware core keeps what the core can hold. -/
theorem fwTurn_fits (tick : Nat) {f : FwCore} (h : FwFits f) : FwFits (fwTurn tick f) := by
  unfold fwTurn
  split
  · exact fitFw_fits _
  · cases hs : rvStep f (Config.fwBus tick) with
    | none => exact fitFw_fits _
    | some g => exact rvStep_fits h hs

/-- The core right after reset. -/
theorem fw_reset_fits : FwFits State.reset.mgmt.fw := ⟨by decide, by decide, fun _ h => by cases h⟩

end Machine
end Sys2Proof
end

