-- ==== Sys2Proof/Laws/Shapes.lean ====
section
/-! SUPPORT. The equations of the operand tables that the statements use, and of the two functions on chain entries that the pumps
use, constructor by constructor, true by unfolding; and what an event's turn runs. -/

namespace Sys2Proof
namespace Machine

@[simp] theorem aluResult_add (rd : Reg → W) (d : Reg) (a : Reg) (b : Reg) : aluResult rd (.add d a b) = (some (d, rd a + rd b, false)) := rfl
@[simp] theorem aluResult_sub (rd : Reg → W) (d : Reg) (a : Reg) (b : Reg) : aluResult rd (.sub d a b) = (some (d, rd a - rd b, false)) := rfl
@[simp] theorem aluResult_and (rd : Reg → W) (d : Reg) (a : Reg) (b : Reg) : aluResult rd (.and d a b) = (some (d, rd a &&& rd b, false)) := rfl
@[simp] theorem aluResult_or (rd : Reg → W) (d : Reg) (a : Reg) (b : Reg) : aluResult rd (.or d a b) = (some (d, rd a ||| rd b, false)) := rfl
@[simp] theorem aluResult_xor (rd : Reg → W) (d : Reg) (a : Reg) (b : Reg) : aluResult rd (.xor d a b) = (some (d, rd a ^^^ rd b, false)) := rfl
@[simp] theorem aluResult_shl (rd : Reg → W) (d : Reg) (a : Reg) (b : Reg) : aluResult rd (.shl d a b) = (some (d, BitVec.ofNat 64 ((rd a).toNat * 2 ^ ((rd b).toNat % 64)), false)) := rfl
@[simp] theorem aluResult_shr (rd : Reg → W) (d : Reg) (a : Reg) (b : Reg) : aluResult rd (.shr d a b) = (some (d, BitVec.ofNat 64 ((rd a).toNat / 2 ^ ((rd b).toNat % 64)), false)) := rfl
@[simp] theorem aluResult_sra (rd : Reg → W) (d : Reg) (a : Reg) (b : Reg) : aluResult rd (.sra d a b) = (some (d, BitVec.ofInt 64 ((rd a).toInt / 2 ^ ((rd b).toNat % 64)), false)) := rfl
@[simp] theorem aluResult_min (rd : Reg → W) (d : Reg) (a : Reg) (b : Reg) : aluResult rd (.min d a b) = (some (d, if (rd a).toInt ≤ (rd b).toInt then rd a else rd b, false)) := rfl
@[simp] theorem aluResult_max (rd : Reg → W) (d : Reg) (a : Reg) (b : Reg) : aluResult rd (.max d a b) = (some (d, if (rd b).toInt ≤ (rd a).toInt then rd a else rd b, false)) := rfl
@[simp] theorem aluResult_minw (rd : Reg → W) (d : Reg) (a : Reg) (b : Reg) : aluResult rd (.minw d a b) = (some (d, if (rd a).toNat ≤ (rd b).toNat then rd a else rd b, false)) := rfl
@[simp] theorem aluResult_maxw (rd : Reg → W) (d : Reg) (a : Reg) (b : Reg) : aluResult rd (.maxw d a b) = (some (d, if (rd b).toNat ≤ (rd a).toNat then rd a else rd b, false)) := rfl
@[simp] theorem aluResult_mul (rd : Reg → W) (d : Reg) (a : Reg) (b : Reg) : aluResult rd (.mul d a b) = (some (d, BitVec.ofNat 64 ((rd a).toNat * (rd b).toNat), false)) := rfl
@[simp] theorem aluResult_mulh (rd : Reg → W) (d : Reg) (a : Reg) (b : Reg) : aluResult rd (.mulh d a b) = (some (d, BitVec.ofInt 64 ((rd a).toInt * (rd b).toInt / 2 ^ 64), false)) := rfl
@[simp] theorem aluResult_mulhw (rd : Reg → W) (d : Reg) (a : Reg) (b : Reg) : aluResult rd (.mulhw d a b) = (some (d, BitVec.ofNat 64 ((rd a).toNat * (rd b).toNat / 2 ^ 64), false)) := rfl
@[simp] theorem aluResult_div (rd : Reg → W) (d : Reg) (a : Reg) (b : Reg) : aluResult rd (.div d a b) = (some (d, if rd b = 0 then BitVec.allOnes 64 else BitVec.ofInt 64 ((rd a).toInt.tdiv (rd b).toInt), rd b == 0)) := rfl
@[simp] theorem aluResult_divw (rd : Reg → W) (d : Reg) (a : Reg) (b : Reg) : aluResult rd (.divw d a b) = (some (d, if rd b = 0 then BitVec.allOnes 64 else BitVec.ofNat 64 ((rd a).toNat / (rd b).toNat), rd b == 0)) := rfl
@[simp] theorem aluResult_rem (rd : Reg → W) (d : Reg) (a : Reg) (b : Reg) : aluResult rd (.rem d a b) = (some (d, if rd b = 0 then rd a else BitVec.ofInt 64 ((rd a).toInt.tmod (rd b).toInt), rd b == 0)) := rfl
@[simp] theorem aluResult_remw (rd : Reg → W) (d : Reg) (a : Reg) (b : Reg) : aluResult rd (.remw d a b) = (some (d, if rd b = 0 then rd a else BitVec.ofNat 64 ((rd a).toNat % (rd b).toNat), rd b == 0)) := rfl
@[simp] theorem aluResult_clz (rd : Reg → W) (d : Reg) (a : Reg) : aluResult rd (.clz d a) = (some (d, if rd a = 0 then 64 else BitVec.ofNat 64 (63 - Nat.log2 (rd a).toNat), false)) := rfl
@[simp] theorem aluResult_popc (rd : Reg → W) (d : Reg) (a : Reg) : aluResult rd (.popc d a) = (some (d, BitVec.ofNat 64 ((List.range 64).filter (fun j => (rd a).getLsbD j)).length, false)) := rfl
@[simp] theorem aluResult_sel (rd : Reg → W) (d : Reg) (a : Reg) (b : Reg) : aluResult rd (.sel d a b) = (some (d, if (rd d).getLsbD 0 then rd a else rd b, false)) := rfl
@[simp] theorem aluResult_addi (rd : Reg → W) (d : Reg) (a : Reg) (i : BitVec 14) : aluResult rd (.addi d a i) = (some (d, rd a + i.signExtend 64, false)) := rfl
@[simp] theorem aluResult_andi (rd : Reg → W) (d : Reg) (a : Reg) (i : BitVec 14) : aluResult rd (.andi d a i) = (some (d, rd a &&& i.signExtend 64, false)) := rfl
@[simp] theorem aluResult_ori (rd : Reg → W) (d : Reg) (a : Reg) (i : BitVec 14) : aluResult rd (.ori d a i) = (some (d, rd a ||| i.signExtend 64, false)) := rfl
@[simp] theorem aluResult_xori (rd : Reg → W) (d : Reg) (a : Reg) (i : BitVec 14) : aluResult rd (.xori d a i) = (some (d, rd a ^^^ i.signExtend 64, false)) := rfl
@[simp] theorem aluResult_shli (rd : Reg → W) (d : Reg) (a : Reg) (n : BitVec 6) : aluResult rd (.shli d a n) = (some (d, BitVec.ofNat 64 ((rd a).toNat * 2 ^ n.toNat), false)) := rfl
@[simp] theorem aluResult_shri (rd : Reg → W) (d : Reg) (a : Reg) (n : BitVec 6) : aluResult rd (.shri d a n) = (some (d, BitVec.ofNat 64 ((rd a).toNat / 2 ^ n.toNat), false)) := rfl
@[simp] theorem aluResult_srai (rd : Reg → W) (d : Reg) (a : Reg) (n : BitVec 6) : aluResult rd (.srai d a n) = (some (d, BitVec.ofInt 64 ((rd a).toInt / 2 ^ n.toNat), false)) := rfl
@[simp] theorem aluResult_lui (rd : Reg → W) (d : Reg) (i : BitVec 20) : aluResult rd (.lui d i) = (some (d, BitVec.ofInt 64 (i.toInt * 2 ^ 14), false)) := rfl
@[simp] theorem aluResult_li (rd : Reg → W) (d : Reg) (i : BitVec 52) : aluResult rd (.li d i) = (some (d, i.signExtend 64, false)) := rfl
@[simp] theorem aluResult_cmpEq (rd : Reg → W) (d : Reg) (a : Reg) (b : Reg) (p : BitVec 6) : aluResult rd (.cmpEq d a b p) = (some (d, withBit (rd d) p.toNat (decide (rd a = rd b)), false)) := rfl
@[simp] theorem aluResult_cmpNe (rd : Reg → W) (d : Reg) (a : Reg) (b : Reg) (p : BitVec 6) : aluResult rd (.cmpNe d a b p) = (some (d, withBit (rd d) p.toNat (decide (rd a ≠ rd b)), false)) := rfl
@[simp] theorem aluResult_cmpLt (rd : Reg → W) (d : Reg) (a : Reg) (b : Reg) (p : BitVec 6) : aluResult rd (.cmpLt d a b p) = (some (d, withBit (rd d) p.toNat (decide ((rd a).toInt < (rd b).toInt)), false)) := rfl
@[simp] theorem aluResult_cmpLtw (rd : Reg → W) (d : Reg) (a : Reg) (b : Reg) (p : BitVec 6) : aluResult rd (.cmpLtw d a b p) = (some (d, withBit (rd d) p.toNat (decide ((rd a).toNat < (rd b).toNat)), false)) := rfl
@[simp] theorem aluResult_cmpGe (rd : Reg → W) (d : Reg) (a : Reg) (b : Reg) (p : BitVec 6) : aluResult rd (.cmpGe d a b p) = (some (d, withBit (rd d) p.toNat (decide ((rd b).toInt ≤ (rd a).toInt)), false)) := rfl
@[simp] theorem aluResult_cmpGew (rd : Reg → W) (d : Reg) (a : Reg) (b : Reg) (p : BitVec 6) : aluResult rd (.cmpGew d a b p) = (some (d, withBit (rd d) p.toNat (decide ((rd b).toNat ≤ (rd a).toNat)), false)) := rfl
@[simp] theorem aluResult_cmpTst (rd : Reg → W) (d : Reg) (a : Reg) (b : Reg) (p : BitVec 6) : aluResult rd (.cmpTst d a b p) = (some (d, withBit (rd d) p.toNat (decide (rd a &&& rd b ≠ 0)), false)) := rfl
@[simp] theorem aluResult_cmpTstz (rd : Reg → W) (d : Reg) (a : Reg) (b : Reg) (p : BitVec 6) : aluResult rd (.cmpTstz d a b p) = (some (d, withBit (rd d) p.toNat (decide (rd a &&& rd b = 0)), false)) := rfl
@[simp] theorem aluResult_bext (rd : Reg → W) (d : Reg) (a : Reg) (p : BitVec 6) (w : BitVec 6) : aluResult rd (.bext d a p w) = (some (d, BitVec.ofNat 64 ((rd a).toNat / 2 ^ p.toNat % 2 ^ (w.toNat + 1)), false)) := rfl
@[simp] theorem aluResult_bins (rd : Reg → W) (d : Reg) (a : Reg) (p : BitVec 6) (w : BitVec 6) : aluResult rd (.bins d a p w) = (let m : W := BitVec.ofNat 64 (2 ^ (w.toNat + 1) - 1);
  some (d, (rd d &&& ~~~(m <<< p.toNat)) ||| ((rd a &&& m) <<< p.toNat), false)) := rfl
@[simp] theorem aluResult_addr (rd : Reg → W) (d : Reg) (a : Reg) (b : Reg) (h : BitVec 2) (i : BitVec 6) : aluResult rd (.addr d a b h i) = (some (d, rd a + BitVec.ofNat 64 ((rd b).toNat * 2 ^ h.toNat) + i.signExtend 64, false)) := rfl

@[simp] theorem smOperands_semw (rd : Reg → W) (b : Reg) (o : BitVec 8) (n : BitVec 11) : smOperands rd (.semw b o n) = (some (true, smOff (rd b) o, n.setWidth 32)) := rfl
@[simp] theorem smOperands_semwReg (rd : Reg → W) (b : Reg) (o : BitVec 8) (r : Reg) : smOperands rd (.semwReg b o r) = (some (true, smOff (rd b) o, (rd r).setWidth 32)) := rfl
@[simp] theorem smOperands_semp (rd : Reg → W) (b : Reg) (o : BitVec 8) (n : BitVec 11) : smOperands rd (.semp b o n) = (some (false, smOff (rd b) o, n.setWidth 32)) := rfl
@[simp] theorem smOperands_sempReg (rd : Reg → W) (b : Reg) (o : BitVec 8) (r : Reg) : smOperands rd (.sempReg b o r) = (some (false, smOff (rd b) o, (rd r).setWidth 32)) := rfl

@[simp] theorem brfKindOf_brf : brfKindOf .brf = (some .jump) := rfl
@[simp] theorem brfKindOf_brfCall : brfKindOf .brfCall = (some .call) := rfl
@[simp] theorem brfKindOf_brfRet : brfKindOf .brfRet = (some .ret) := rfl

@[simp] theorem transferOf_br (s : State) (b : BitVec 3) (g : BitVec 6) (i : BitVec 6) (n : Bool) (m : BitVec 3) : transferOf s (.br b g i n m) = (some (.jump, (s.core.getS .c g).getLsbD i.toNat == n, vget s.core.regs.b b.toNat 0, m)) := rfl
@[simp] theorem transferOf_brUncond (s : State) (b : BitVec 3) (m : BitVec 3) : transferOf s (.brUncond b m) = (some (.jump, true, vget s.core.regs.b b.toNat 0, m)) := rfl
@[simp] theorem transferOf_call (s : State) (b : BitVec 3) (g : BitVec 6) (i : BitVec 6) (n : Bool) (m : BitVec 3) : transferOf s (.call b g i n m) = (some (.call, (s.core.getS .c g).getLsbD i.toNat == n, vget s.core.regs.b b.toNat 0, m)) := rfl
@[simp] theorem transferOf_callUncond (s : State) (b : BitVec 3) (m : BitVec 3) : transferOf s (.callUncond b m) = (some (.call, true, vget s.core.regs.b b.toNat 0, m)) := rfl
@[simp] theorem transferOf_ret (s : State) (g : BitVec 6) (i : BitVec 6) (n : Bool) (m : BitVec 3) : transferOf s (.ret g i n m) = (some (.ret, (s.core.getS .c g).getLsbD i.toNat == n, 0, m)) := rfl
@[simp] theorem transferOf_retUncond (s : State) (m : BitVec 3) : transferOf s (.retUncond m) = (some (.ret, true, 0, m)) := rfl

@[simp] theorem vectorShape_vmov (d : Reg) (x1 : Reg) (x2 : BitVec 4) : vectorShape (.vmov d x1 x2) = (some (d, 0, 1, 0, false)) := rfl
@[simp] theorem vectorShape_vsplat (d : Reg) (x1 : Reg) (x2 : BitVec 4) : vectorShape (.vsplat d x1 x2) = (some (d, 0, 1, 0, false)) := rfl
@[simp] theorem vectorShape_vmin (d : Reg) (x1 : Reg) (x2 : Reg) (x3 : BitVec 4) : vectorShape (.vmin d x1 x2 x3) = (some (d, 0, 1, 0, false)) := rfl
@[simp] theorem vectorShape_vmax (d : Reg) (x1 : Reg) (x2 : Reg) (x3 : BitVec 4) : vectorShape (.vmax d x1 x2 x3) = (some (d, 0, 1, 0, false)) := rfl
@[simp] theorem vectorShape_vabs (d : Reg) (x1 : Reg) (x2 : BitVec 4) : vectorShape (.vabs d x1 x2) = (some (d, 0, 1, 0, false)) := rfl
@[simp] theorem vectorShape_vneg (d : Reg) (x1 : Reg) (x2 : BitVec 4) : vectorShape (.vneg d x1 x2) = (some (d, 0, 1, 0, false)) := rfl
@[simp] theorem vectorShape_vand (d : Reg) (x1 : Reg) (x2 : Reg) (x3 : BitVec 4) : vectorShape (.vand d x1 x2 x3) = (some (d, 0, 1, 0, false)) := rfl
@[simp] theorem vectorShape_vor (d : Reg) (x1 : Reg) (x2 : Reg) (x3 : BitVec 4) : vectorShape (.vor d x1 x2 x3) = (some (d, 0, 1, 0, false)) := rfl
@[simp] theorem vectorShape_vxor (d : Reg) (x1 : Reg) (x2 : Reg) (x3 : BitVec 4) : vectorShape (.vxor d x1 x2 x3) = (some (d, 0, 1, 0, false)) := rfl
@[simp] theorem vectorShape_vshl (d : Reg) (x1 : Reg) (x2 : Reg) (x3 : BitVec 4) : vectorShape (.vshl d x1 x2 x3) = (some (d, 0, 1, 0, false)) := rfl
@[simp] theorem vectorShape_vshr (d : Reg) (x1 : Reg) (x2 : Reg) (x3 : BitVec 4) : vectorShape (.vshr d x1 x2 x3) = (some (d, 0, 1, 0, false)) := rfl
@[simp] theorem vectorShape_vsra (d : Reg) (x1 : Reg) (x2 : Reg) (x3 : BitVec 4) : vectorShape (.vsra d x1 x2 x3) = (some (d, 0, 1, 0, false)) := rfl
@[simp] theorem vectorShape_vadds (d : Reg) (x1 : Reg) (x2 : Reg) (x3 : BitVec 4) : vectorShape (.vadds d x1 x2 x3) = (some (d, 0, 1, 0, false)) := rfl
@[simp] theorem vectorShape_vsubs (d : Reg) (x1 : Reg) (x2 : Reg) (x3 : BitVec 4) : vectorShape (.vsubs d x1 x2 x3) = (some (d, 0, 1, 0, false)) := rfl
@[simp] theorem vectorShape_vcmp (d : Reg) (x1 : Reg) (x2 : Reg) (x3 : BitVec 4) (x4 : BitVec 4) : vectorShape (.vcmp d x1 x2 x3 x4) = (some (d, 0, 1, 0, false)) := rfl
@[simp] theorem vectorShape_vsel (d : Reg) (x1 : Reg) (x2 : Reg) (x3 : BitVec 4) : vectorShape (.vsel d x1 x2 x3) = (some (d, 0, 1, 0, false)) := rfl
@[simp] theorem vectorShape_vadd (d : Reg) (x1 : Reg) (x2 : Reg) (t : BitVec 4) : vectorShape (.vadd d x1 x2 t) = (some (d, 0, 1, if typeInt t then 0 else typeCount t, false)) := rfl
@[simp] theorem vectorShape_vsub (d : Reg) (x1 : Reg) (x2 : Reg) (t : BitVec 4) : vectorShape (.vsub d x1 x2 t) = (some (d, 0, 1, if typeInt t then 0 else typeCount t, false)) := rfl
@[simp] theorem vectorShape_vmul (d : Reg) (x1 : Reg) (x2 : Reg) (t : BitVec 4) : vectorShape (.vmul d x1 x2 t) = (some (d, 1, 1, if typeInt t then 0 else typeCount t, t == 11)) := rfl
@[simp] theorem vectorShape_vfma (d : Reg) (x1 : Reg) (x2 : Reg) (x3 : Reg) (t : BitVec 4) (t2 : BitVec 4) (x6 : Bool) (x7 : BitVec 3) : vectorShape (.vfma d x1 x2 x3 t t2 x6 x7) = (some (d, 2, if t2 = t then 1 else 2, typeCount t, if t2 = t then t == 11 else true)) := rfl
@[simp] theorem vectorShape_vfms (d : Reg) (x1 : Reg) (x2 : Reg) (x3 : Reg) (t : BitVec 4) (t2 : BitVec 4) (x6 : Bool) (x7 : BitVec 3) : vectorShape (.vfms d x1 x2 x3 t t2 x6 x7) = (some (d, 2, if t2 = t then 1 else 2, typeCount t, if t2 = t then t == 11 else true)) := rfl
@[simp] theorem vectorShape_vdot (d : Reg) (x1 : Reg) (x2 : Reg) (x3 : Reg) (x4 : BitVec 4) (x5 : BitVec 4) : vectorShape (.vdot d x1 x2 x3 x4 x5) = (some (d, 2, 1, 0, false)) := rfl
@[simp] theorem vectorShape_vperm (d : Reg) (x1 : Reg) (x2 : Reg) (x3 : Reg) (x4 : BitVec 4) : vectorShape (.vperm d x1 x2 x3 x4) = (some (d, 3, 1, 0, false)) := rfl
@[simp] theorem vectorShape_vbcst (d : Reg) (x1 : Reg) (x2 : Reg) (x3 : BitVec 4) : vectorShape (.vbcst d x1 x2 x3) = (some (d, 3, 1, 0, false)) := rfl
@[simp] theorem vectorShape_vbnet (d : Reg) (x1 : Reg) (x2 : BitVec 3) : vectorShape (.vbnet d x1 x2) = (some (d, 3, 1, 0, false)) := rfl
@[simp] theorem vectorShape_vrcp (d : Reg) (x1 : Reg) (x2 : BitVec 4) : vectorShape (.vrcp d x1 x2) = (some (d, 4, 1, 0, false)) := rfl
@[simp] theorem vectorShape_vsqrt (d : Reg) (x1 : Reg) (x2 : BitVec 4) : vectorShape (.vsqrt d x1 x2) = (some (d, 4, 1, 0, false)) := rfl
@[simp] theorem vectorShape_vrsq (d : Reg) (x1 : Reg) (x2 : BitVec 4) : vectorShape (.vrsq d x1 x2) = (some (d, 4, 1, 0, false)) := rfl
@[simp] theorem vectorShape_vexp2 (d : Reg) (x1 : Reg) (x2 : BitVec 4) : vectorShape (.vexp2 d x1 x2) = (some (d, 4, 1, 0, false)) := rfl
@[simp] theorem vectorShape_vlog2 (d : Reg) (x1 : Reg) (x2 : BitVec 4) : vectorShape (.vlog2 d x1 x2) = (some (d, 4, 1, 0, false)) := rfl
@[simp] theorem vectorShape_vcvt (d : Reg) (x1 : Reg) (x2 : BitVec 4) (t2 : BitVec 4) (x4 : Bool) (x5 : BitVec 3) : vectorShape (.vcvt d x1 x2 t2 x4 x5) = (some (d, 5, 1, typeCount t2, false)) := rfl
@[simp] theorem vectorShape_vwid (d : Reg) (x1 : Reg) (t : BitVec 4) (t2 : BitVec 4) (x4 : Bool) (x5 : BitVec 3) : vectorShape (.vwid d x1 t t2 x4 x5) = (some (d, 5, typeWidth t2 / typeWidth t, typeCount t, false)) := rfl
@[simp] theorem vectorShape_vnar (d : Reg) (x1 : Reg) (x2 : BitVec 4) (t2 : BitVec 4) (x4 : Bool) (x5 : BitVec 3) : vectorShape (.vnar d x1 x2 t2 x4 x5) = (some (d, 5, 1, typeCount t2, false)) := rfl
@[simp] theorem vectorShape_vscl (d : Reg) (x1 : Reg) (x2 : Reg) (x3 : BitVec 4) (t2 : BitVec 4) (x5 : Bool) (x6 : BitVec 3) (x7 : BitVec 3) : vectorShape (.vscl d x1 x2 x3 t2 x5 x6 x7) = (some (d, 5, 1, typeCount t2, false)) := rfl
@[simp] theorem vectorShape_vqnt (d : Reg) (x1 : Reg) (x2 : Reg) (t : BitVec 4) (x4 : BitVec 4) (x5 : Bool) (x6 : BitVec 3) (x7 : BitVec 3) : vectorShape (.vqnt d x1 x2 t x4 x5 x6 x7) = (some (d, 5, 1, typeCount t, false)) := rfl
@[simp] theorem vectorShape_vamax (d : Reg) (x1 : Reg) (x2 : BitVec 4) (x3 : BitVec 4) : vectorShape (.vamax d x1 x2 x3) = (some (d, 5, 1, 0, false)) := rfl
@[simp] theorem vectorShape_vscan (d : Reg) (x1 : Reg) (x2 : BitVec 4) (x3 : Bool) (x4 : BitVec 2) : vectorShape (.vscan d x1 x2 x3 x4) = (some (d, 7, 1, 0, false)) := rfl

@[simp] theorem laneValue_vmov (s : State) (d : Reg) (a : Reg) (t : BitVec 4) : laneValue s (.vmov d a t) = (some (d, t, false, fun j => s.code a t j) : Option (Reg × BitVec 4 × Bool × (Nat → Int))) := rfl
@[simp] theorem laneValue_vsplat (s : State) (d : Reg) (b : Reg) (t : BitVec 4) : laneValue s (.vsplat d b t) = (some (d, t, false, fun _ => (s.src b).toNat) : Option (Reg × BitVec 4 × Bool × (Nat → Int))) := rfl
@[simp] theorem laneValue_vand (s : State) (d : Reg) (a : Reg) (b : Reg) (t : BitVec 4) : laneValue s (.vand d a b t) = (some (d, t, false, fun j => ((s.code a t j &&& s.code b t j : Nat) : Int)) : Option (Reg × BitVec 4 × Bool × (Nat → Int))) := rfl
@[simp] theorem laneValue_vor (s : State) (d : Reg) (a : Reg) (b : Reg) (t : BitVec 4) : laneValue s (.vor d a b t) = (some (d, t, false, fun j => ((s.code a t j ||| s.code b t j : Nat) : Int)) : Option (Reg × BitVec 4 × Bool × (Nat → Int))) := rfl
@[simp] theorem laneValue_vxor (s : State) (d : Reg) (a : Reg) (b : Reg) (t : BitVec 4) : laneValue s (.vxor d a b t) = (some (d, t, false, fun j => ((s.code a t j ^^^ s.code b t j : Nat) : Int)) : Option (Reg × BitVec 4 × Bool × (Nat → Int))) := rfl
@[simp] theorem laneValue_vshl (s : State) (d : Reg) (a : Reg) (b : Reg) (t : BitVec 4) : laneValue s (.vshl d a b t) = (some (d, t, false, fun j => ((s.code a t j * 2 ^ (s.code b t j % typeWidth t) : Nat) : Int)) : Option (Reg × BitVec 4 × Bool × (Nat → Int))) := rfl
@[simp] theorem laneValue_vshr (s : State) (d : Reg) (a : Reg) (b : Reg) (t : BitVec 4) : laneValue s (.vshr d a b t) = (some (d, t, false, fun j => ((s.code a t j / 2 ^ (s.code b t j % typeWidth t) : Nat) : Int)) : Option (Reg × BitVec 4 × Bool × (Nat → Int))) := rfl
@[simp] theorem laneValue_vadd (s : State) (d : Reg) (a : Reg) (b : Reg) (t : BitVec 4) : laneValue s (.vadd d a b t) = (if typeInt t then some (d, t, false, fun j => s.lane a t j + s.lane b t j) else none : Option (Reg × BitVec 4 × Bool × (Nat → Int))) := rfl
@[simp] theorem laneValue_vsub (s : State) (d : Reg) (a : Reg) (b : Reg) (t : BitVec 4) : laneValue s (.vsub d a b t) = (if typeInt t then some (d, t, false, fun j => s.lane a t j - s.lane b t j) else none : Option (Reg × BitVec 4 × Bool × (Nat → Int))) := rfl
@[simp] theorem laneValue_vmul (s : State) (d : Reg) (a : Reg) (b : Reg) (t : BitVec 4) : laneValue s (.vmul d a b t) = (if typeInt t then some (d, t, false, fun j => s.lane a t j * s.lane b t j) else none : Option (Reg × BitVec 4 × Bool × (Nat → Int))) := rfl
@[simp] theorem laneValue_vmin (s : State) (d : Reg) (a : Reg) (b : Reg) (t : BitVec 4) : laneValue s (.vmin d a b t) = (if typeInt t then some (d, t, false, fun j => min (s.lane a t j) (s.lane b t j)) else none : Option (Reg × BitVec 4 × Bool × (Nat → Int))) := rfl
@[simp] theorem laneValue_vmax (s : State) (d : Reg) (a : Reg) (b : Reg) (t : BitVec 4) : laneValue s (.vmax d a b t) = (if typeInt t then some (d, t, false, fun j => max (s.lane a t j) (s.lane b t j)) else none : Option (Reg × BitVec 4 × Bool × (Nat → Int))) := rfl
@[simp] theorem laneValue_vabs (s : State) (d : Reg) (a : Reg) (t : BitVec 4) : laneValue s (.vabs d a t) = (if typeInt t then some (d, t, false, fun j => |s.lane a t j|) else none : Option (Reg × BitVec 4 × Bool × (Nat → Int))) := rfl
@[simp] theorem laneValue_vneg (s : State) (d : Reg) (a : Reg) (t : BitVec 4) : laneValue s (.vneg d a t) = (if typeInt t then some (d, t, false, fun j => -(s.lane a t j)) else none : Option (Reg × BitVec 4 × Bool × (Nat → Int))) := rfl
@[simp] theorem laneValue_vadds (s : State) (d : Reg) (a : Reg) (b : Reg) (t : BitVec 4) : laneValue s (.vadds d a b t) = (if typeInt t then some (d, t, true, fun j => s.lane a t j + s.lane b t j) else none : Option (Reg × BitVec 4 × Bool × (Nat → Int))) := rfl
@[simp] theorem laneValue_vsubs (s : State) (d : Reg) (a : Reg) (b : Reg) (t : BitVec 4) : laneValue s (.vsubs d a b t) = (if typeInt t then some (d, t, true, fun j => s.lane a t j - s.lane b t j) else none : Option (Reg × BitVec 4 × Bool × (Nat → Int))) := rfl

@[simp] theorem acpyOperands_acpyChA (d : Reg) (a : Reg) : acpyOperands (.acpyChA d a) = (some (true, false, false, d, a)) := rfl
@[simp] theorem acpyOperands_acpyACh (d : Reg) (a : Reg) : acpyOperands (.acpyACh d a) = (some (false, false, false, a, d)) := rfl
@[simp] theorem acpyOperands_acpyAddChA (d : Reg) (a : Reg) : acpyOperands (.acpyAddChA d a) = (some (true, true, false, d, a)) := rfl
@[simp] theorem acpyOperands_acpyAddACh (d : Reg) (a : Reg) : acpyOperands (.acpyAddACh d a) = (some (false, true, false, a, d)) := rfl
@[simp] theorem acpyOperands_acpyI32ChA (d : Reg) (a : Reg) : acpyOperands (.acpyI32ChA d a) = (some (true, false, true, d, a)) := rfl
@[simp] theorem acpyOperands_acpyI32ACh (d : Reg) (a : Reg) : acpyOperands (.acpyI32ACh d a) = (some (false, false, true, a, d)) := rfl
@[simp] theorem acpyOperands_acpyAddI32ChA (d : Reg) (a : Reg) : acpyOperands (.acpyAddI32ChA d a) = (some (true, true, true, d, a)) := rfl
@[simp] theorem acpyOperands_acpyAddI32ACh (d : Reg) (a : Reg) : acpyOperands (.acpyAddI32ACh d a) = (some (false, true, true, a, d)) := rfl

@[simp] theorem isDataEntry_copy (x0 : EntHdr) (x1 : W) (x2 : W) (x3 : BitVec 16) (x4 : BitVec 16) (x5 : BitVec 16) (x6 : BitVec 16) (x7 : W32) (x8 : W32) (x9 : W32) (x10 : W32) (x11 : W32) (x12 : W32) : isDataEntry (.copy x0 x1 x2 x3 x4 x5 x6 x7 x8 x9 x10 x11 x12) = (true) := rfl
@[simp] theorem isDataEntry_gath (x0 : EntHdr) (x1 : W) (x2 : W) (x3 : W) (x4 : W32) (x5 : W32) (x6 : W) (x7 : Byte) : isDataEntry (.gath x0 x1 x2 x3 x4 x5 x6 x7) = (true) := rfl
@[simp] theorem isDataEntry_scat (x0 : EntHdr) (x1 : W) (x2 : W) (x3 : W) (x4 : W32) (x5 : W32) (x6 : W) (x7 : Byte) : isDataEntry (.scat x0 x1 x2 x3 x4 x5 x6 x7) = (true) := rfl
@[simp] theorem isDataEntry_xpose (x0 : EntHdr) (x1 : W) (x2 : W) (x3 : W32) (x4 : W32) (x5 : W) (x6 : W) : isDataEntry (.xpose x0 x1 x2 x3 x4 x5 x6) = (true) := rfl
@[simp] theorem isDataEntry_conv (x0 : EntHdr) (x1 : W) (x2 : W) (x3 : W) (x4 : W32) (x5 : Off) (x6 : BitVec 4) (x7 : Bool) (x8 : Bool) (x9 : BitVec 3) (x10 : BitVec 16) (x11 : W) : isDataEntry (.conv x0 x1 x2 x3 x4 x5 x6 x7 x8 x9 x10 x11) = (true) := rfl
@[simp] theorem isDataEntry_decomp (x0 : EntHdr) (x1 : W) (x2 : W) (x3 : W32) : isDataEntry (.decomp x0 x1 x2 x3) = (true) := rfl
@[simp] theorem isDataEntry_cmprs (x0 : EntHdr) (x1 : W) (x2 : W) (x3 : W) (x4 : W) (x5 : W32) (x6 : BitVec 3) (x7 : W) : isDataEntry (.cmprs x0 x1 x2 x3 x4 x5 x6 x7) = (true) := rfl
@[simp] theorem isDataEntry_mcast (x0 : EntHdr) (x1 : W) (x2 : W) (x3 : W32) (x4 : Byte) : isDataEntry (.mcast x0 x1 x2 x3 x4) = (true) := rfl
@[simp] theorem isDataEntry_red (x0 : EntHdr) (x1 : W) (x2 : W) (x3 : W32) (x4 : Byte) (x5 : BitVec 2) (x6 : Bool) (x7 : Byte) : isDataEntry (.red x0 x1 x2 x3 x4 x5 x6 x7) = (true) := rfl
@[simp] theorem isDataEntry_fill (x0 : EntHdr) (x1 : W) (x2 : W32) (x3 : W) : isDataEntry (.fill x0 x1 x2 x3) = (true) := rfl
@[simp] theorem isDataEntry_atom (x0 : EntHdr) (x1 : W) (x2 : W) (x3 : W) (x4 : Off) (x5 : BitVec 3) (x6 : Bool) : isDataEntry (.atom x0 x1 x2 x3 x4 x5 x6) = (true) := rfl
@[simp] theorem isDataEntry_sempr (x0 : EntHdr) (x1 : W) (x2 : W32) : isDataEntry (.sempr x0 x1 x2) = (true) := rfl
@[simp] theorem isDataEntry_flipv (x0 : EntHdr) (x1 : Byte) (x2 : Byte) (x3 : Bool) : isDataEntry (.flipv x0 x1 x2 x3) = (true) := rfl
@[simp] theorem isDataEntry_pref (x0 : EntHdr) (x1 : W) (x2 : W) : isDataEntry (.pref x0 x1 x2) = (true) := rfl

@[simp] theorem isPref_pref (x0 : EntHdr) (x1 : W) (x2 : W) : isPref (.pref x0 x1 x2) = (true) := rfl

@[simp] theorem entHdr_copy (h : EntHdr) (x1 : W) (x2 : W) (x3 : BitVec 16) (x4 : BitVec 16) (x5 : BitVec 16) (x6 : BitVec 16) (x7 : W32) (x8 : W32) (x9 : W32) (x10 : W32) (x11 : W32) (x12 : W32) : entHdr (.copy h x1 x2 x3 x4 x5 x6 x7 x8 x9 x10 x11 x12) = (h) := rfl
@[simp] theorem entHdr_gath (h : EntHdr) (x1 : W) (x2 : W) (x3 : W) (x4 : W32) (x5 : W32) (x6 : W) (x7 : Byte) : entHdr (.gath h x1 x2 x3 x4 x5 x6 x7) = (h) := rfl
@[simp] theorem entHdr_scat (h : EntHdr) (x1 : W) (x2 : W) (x3 : W) (x4 : W32) (x5 : W32) (x6 : W) (x7 : Byte) : entHdr (.scat h x1 x2 x3 x4 x5 x6 x7) = (h) := rfl
@[simp] theorem entHdr_xpose (h : EntHdr) (x1 : W) (x2 : W) (x3 : W32) (x4 : W32) (x5 : W) (x6 : W) : entHdr (.xpose h x1 x2 x3 x4 x5 x6) = (h) := rfl
@[simp] theorem entHdr_conv (h : EntHdr) (x1 : W) (x2 : W) (x3 : W) (x4 : W32) (x5 : Off) (x6 : BitVec 4) (x7 : Bool) (x8 : Bool) (x9 : BitVec 3) (x10 : BitVec 16) (x11 : W) : entHdr (.conv h x1 x2 x3 x4 x5 x6 x7 x8 x9 x10 x11) = (h) := rfl
@[simp] theorem entHdr_decomp (h : EntHdr) (x1 : W) (x2 : W) (x3 : W32) : entHdr (.decomp h x1 x2 x3) = (h) := rfl
@[simp] theorem entHdr_cmprs (h : EntHdr) (x1 : W) (x2 : W) (x3 : W) (x4 : W) (x5 : W32) (x6 : BitVec 3) (x7 : W) : entHdr (.cmprs h x1 x2 x3 x4 x5 x6 x7) = (h) := rfl
@[simp] theorem entHdr_mcast (h : EntHdr) (x1 : W) (x2 : W) (x3 : W32) (x4 : Byte) : entHdr (.mcast h x1 x2 x3 x4) = (h) := rfl
@[simp] theorem entHdr_red (h : EntHdr) (x1 : W) (x2 : W) (x3 : W32) (x4 : Byte) (x5 : BitVec 2) (x6 : Bool) (x7 : Byte) : entHdr (.red h x1 x2 x3 x4 x5 x6 x7) = (h) := rfl
@[simp] theorem entHdr_fill (h : EntHdr) (x1 : W) (x2 : W32) (x3 : W) : entHdr (.fill h x1 x2 x3) = (h) := rfl
@[simp] theorem entHdr_atom (h : EntHdr) (x1 : W) (x2 : W) (x3 : W) (x4 : Off) (x5 : BitVec 3) (x6 : Bool) : entHdr (.atom h x1 x2 x3 x4 x5 x6) = (h) := rfl
@[simp] theorem entHdr_sempr (h : EntHdr) (x1 : W) (x2 : W32) : entHdr (.sempr h x1 x2) = (h) := rfl
@[simp] theorem entHdr_flipv (h : EntHdr) (x1 : Byte) (x2 : Byte) (x3 : Bool) : entHdr (.flipv h x1 x2 x3) = (h) := rfl
@[simp] theorem entHdr_pref (h : EntHdr) (x1 : W) (x2 : W) : entHdr (.pref h x1 x2) = (h) := rfl

@[simp] theorem entCount_copy (x0 : EntHdr) (x1 : W) (x2 : W) (a : BitVec 16) (b : BitVec 16) (c : BitVec 16) (d : BitVec 16) (x7 : W32) (x8 : W32) (x9 : W32) (x10 : W32) (x11 : W32) (x12 : W32) : entCount (.copy x0 x1 x2 a b c d x7 x8 x9 x10 x11 x12) = (a.toNat * b.toNat * c.toNat * d.toNat) := rfl
@[simp] theorem entCount_gath (x0 : EntHdr) (x1 : W) (x2 : W) (x3 : W) (n : W32) (r : W32) (x6 : W) (x7 : Byte) : entCount (.gath x0 x1 x2 x3 n r x6 x7) = (n.toNat * r.toNat) := rfl
@[simp] theorem entCount_scat (x0 : EntHdr) (x1 : W) (x2 : W) (x3 : W) (n : W32) (r : W32) (x6 : W) (x7 : Byte) : entCount (.scat x0 x1 x2 x3 n r x6 x7) = (n.toNat * r.toNat) := rfl
@[simp] theorem entCount_xpose (x0 : EntHdr) (x1 : W) (x2 : W) (r : W32) (c : W32) (x5 : W) (x6 : W) : entCount (.xpose x0 x1 x2 r c x5 x6) = (r.toNat * c.toNat) := rfl
@[simp] theorem entCount_conv (x0 : EntHdr) (x1 : W) (x2 : W) (x3 : W) (n : W32) (x5 : Off) (x6 : BitVec 4) (x7 : Bool) (x8 : Bool) (x9 : BitVec 3) (x10 : BitVec 16) (x11 : W) : entCount (.conv x0 x1 x2 x3 n x5 x6 x7 x8 x9 x10 x11) = (n.toNat) := rfl
@[simp] theorem entCount_decomp (x0 : EntHdr) (x1 : W) (x2 : W) (n : W32) : entCount (.decomp x0 x1 x2 n) = (n.toNat) := rfl
@[simp] theorem entCount_cmprs (x0 : EntHdr) (x1 : W) (x2 : W) (x3 : W) (x4 : W) (n : W32) (x6 : BitVec 3) (x7 : W) : entCount (.cmprs x0 x1 x2 x3 x4 n x6 x7) = (n.toNat) := rfl
@[simp] theorem entCount_mcast (x0 : EntHdr) (x1 : W) (x2 : W) (n : W32) (nd : Byte) : entCount (.mcast x0 x1 x2 n nd) = (n.toNat * nd.toNat) := rfl
@[simp] theorem entCount_red (x0 : EntHdr) (x1 : W) (x2 : W) (n : W32) (x4 : Byte) (x5 : BitVec 2) (x6 : Bool) (x7 : Byte) : entCount (.red x0 x1 x2 n x4 x5 x6 x7) = (n.toNat) := rfl
@[simp] theorem entCount_fill (x0 : EntHdr) (x1 : W) (n : W32) (x3 : W) : entCount (.fill x0 x1 n x3) = (n.toNat) := rfl
@[simp] theorem entCount_atom (x0 : EntHdr) (x1 : W) (x2 : W) (x3 : W) (x4 : Off) (x5 : BitVec 3) (x6 : Bool) : entCount (.atom x0 x1 x2 x3 x4 x5 x6) = (1) := rfl
@[simp] theorem entCount_sempr (x0 : EntHdr) (x1 : W) (x2 : W32) : entCount (.sempr x0 x1 x2) = (1) := rfl
@[simp] theorem entCount_flipv (x0 : EntHdr) (x1 : Byte) (x2 : Byte) (x3 : Bool) : entCount (.flipv x0 x1 x2 x3) = (1) := rfl

/-- An event's turn runs the event, once the package is up and cool. -/
theorem eventTurn_run (s : State) (i : Instr) (h1 : isEvent i = true) (h2 : s.mgmt.stopped = false) (h3 : s.mgmt.boot = .ready) :
    eventTurn s i = .run s i := by
  have h4 : (s.mgmt.boot != .ready) = false := by rw [h3]; rfl
  cases i <;> first
    | rfl
    | (exact absurd (show false = true from h1) (by decide))
    | (show (if (!true || s.mgmt.stopped || (_ && s.mgmt.boot != .ready)) = true then Action.idle else _) = _
       rw [h2, h4, Bool.and_false]; rfl)

end Machine
end Sys2Proof
end

