-- ==== Sys2Proof/Laws/State.lean ====
section
/-! SUPPORT. One law per field for each update of the package, of a core and of an engine's control state: what the update leaves
alone, true by unfolding; and what each update writes. -/

namespace Sys2Proof
namespace Machine

/-! ### The package -/

@[simp] theorem State.setCoreAt_hbm (s : State) (c : Fin 128) (k : Core) : (s.setCoreAt c k).hbm = s.hbm := rfl
@[simp] theorem State.setCoreAt_host (s : State) (c : Fin 128) (k : Core) : (s.setCoreAt c k).host = s.host := rfl
@[simp] theorem State.setCoreAt_ctxTable (s : State) (c : Fin 128) (k : Core) : (s.setCoreAt c k).ctxTable = s.ctxTable := rfl
@[simp] theorem State.setCoreAt_regions (s : State) (c : Fin 128) (k : Core) : (s.setCoreAt c k).regions = s.regions := rfl
@[simp] theorem State.setCoreAt_queues (s : State) (c : Fin 128) (k : Core) : (s.setCoreAt c k).queues = s.queues := rfl
@[simp] theorem State.setCoreAt_parts (s : State) (c : Fin 128) (k : Core) : (s.setCoreAt c k).parts = s.parts := rfl
@[simp] theorem State.setCoreAt_tlb1 (s : State) (c : Fin 128) (k : Core) : (s.setCoreAt c k).tlb1 = s.tlb1 := rfl
@[simp] theorem State.setCoreAt_tlb2 (s : State) (c : Fin 128) (k : Core) : (s.setCoreAt c k).tlb2 = s.tlb2 := rfl
@[simp] theorem State.setCoreAt_atomics (s : State) (c : Fin 128) (k : Core) : (s.setCoreAt c k).atomics = s.atomics := rfl
@[simp] theorem State.setCoreAt_lastPort (s : State) (c : Fin 128) (k : Core) : (s.setCoreAt c k).lastPort = s.lastPort := rfl
@[simp] theorem State.setCoreAt_mgmt (s : State) (c : Fin 128) (k : Core) : (s.setCoreAt c k).mgmt = s.mgmt := rfl
@[simp] theorem State.setCoreAt_poison (s : State) (c : Fin 128) (k : Core) : (s.setCoreAt c k).poison = s.poison := rfl
@[simp] theorem State.setCoreAt_irqs (s : State) (c : Fin 128) (k : Core) : (s.setCoreAt c k).irqs = s.irqs := rfl
@[simp] theorem State.setCoreAt_reply (s : State) (c : Fin 128) (k : Core) : (s.setCoreAt c k).reply = s.reply := rfl
@[simp] theorem State.setCoreAt_peerFault (s : State) (c : Fin 128) (k : Core) : (s.setCoreAt c k).peerFault = s.peerFault := rfl
@[simp] theorem State.setCoreAt_sent (s : State) (c : Fin 128) (k : Core) : (s.setCoreAt c k).sent = s.sent := rfl
@[simp] theorem State.setCoreAt_nextId (s : State) (c : Fin 128) (k : Core) : (s.setCoreAt c k).nextId = s.nextId := rfl
@[simp] theorem State.setCoreAt_turn (s : State) (c : Fin 128) (k : Core) : (s.setCoreAt c k).turn = s.turn := rfl
@[simp] theorem State.setCoreAt_tick (s : State) (c : Fin 128) (k : Core) : (s.setCoreAt c k).tick = s.tick := rfl
@[simp] theorem State.setCoreAt_free (s : State) (c : Fin 128) (k : Core) : (s.setCoreAt c k).free = s.free := rfl
@[simp] theorem State.setCoreAt_fairAt (s : State) (c : Fin 128) (k : Core) : (s.setCoreAt c k).fairAt = s.fairAt := rfl
@[simp] theorem State.setCoreAt_fairIn (s : State) (c : Fin 128) (k : Core) : (s.setCoreAt c k).fairIn = s.fairIn := rfl
@[simp] theorem State.setCoreAt_now (s : State) (c : Fin 128) (k : Core) : (s.setCoreAt c k).now = s.now := rfl
@[simp] theorem State.setCoreAt_issue (s : State) (c : Fin 128) (k : Core) : (s.setCoreAt c k).issue = s.issue := rfl

@[simp] theorem State.setQueue_cores (s : State) (q : BitVec 10) (x : Queue) : (s.setQueue q x).cores = s.cores := rfl
@[simp] theorem State.setQueue_hbm (s : State) (q : BitVec 10) (x : Queue) : (s.setQueue q x).hbm = s.hbm := rfl
@[simp] theorem State.setQueue_host (s : State) (q : BitVec 10) (x : Queue) : (s.setQueue q x).host = s.host := rfl
@[simp] theorem State.setQueue_ctxTable (s : State) (q : BitVec 10) (x : Queue) : (s.setQueue q x).ctxTable = s.ctxTable := rfl
@[simp] theorem State.setQueue_regions (s : State) (q : BitVec 10) (x : Queue) : (s.setQueue q x).regions = s.regions := rfl
@[simp] theorem State.setQueue_parts (s : State) (q : BitVec 10) (x : Queue) : (s.setQueue q x).parts = s.parts := rfl
@[simp] theorem State.setQueue_tlb1 (s : State) (q : BitVec 10) (x : Queue) : (s.setQueue q x).tlb1 = s.tlb1 := rfl
@[simp] theorem State.setQueue_tlb2 (s : State) (q : BitVec 10) (x : Queue) : (s.setQueue q x).tlb2 = s.tlb2 := rfl
@[simp] theorem State.setQueue_atomics (s : State) (q : BitVec 10) (x : Queue) : (s.setQueue q x).atomics = s.atomics := rfl
@[simp] theorem State.setQueue_lastPort (s : State) (q : BitVec 10) (x : Queue) : (s.setQueue q x).lastPort = s.lastPort := rfl
@[simp] theorem State.setQueue_mgmt (s : State) (q : BitVec 10) (x : Queue) : (s.setQueue q x).mgmt = s.mgmt := rfl
@[simp] theorem State.setQueue_poison (s : State) (q : BitVec 10) (x : Queue) : (s.setQueue q x).poison = s.poison := rfl
@[simp] theorem State.setQueue_irqs (s : State) (q : BitVec 10) (x : Queue) : (s.setQueue q x).irqs = s.irqs := rfl
@[simp] theorem State.setQueue_reply (s : State) (q : BitVec 10) (x : Queue) : (s.setQueue q x).reply = s.reply := rfl
@[simp] theorem State.setQueue_peerFault (s : State) (q : BitVec 10) (x : Queue) : (s.setQueue q x).peerFault = s.peerFault := rfl
@[simp] theorem State.setQueue_sent (s : State) (q : BitVec 10) (x : Queue) : (s.setQueue q x).sent = s.sent := rfl
@[simp] theorem State.setQueue_nextId (s : State) (q : BitVec 10) (x : Queue) : (s.setQueue q x).nextId = s.nextId := rfl
@[simp] theorem State.setQueue_turn (s : State) (q : BitVec 10) (x : Queue) : (s.setQueue q x).turn = s.turn := rfl
@[simp] theorem State.setQueue_tick (s : State) (q : BitVec 10) (x : Queue) : (s.setQueue q x).tick = s.tick := rfl
@[simp] theorem State.setQueue_free (s : State) (q : BitVec 10) (x : Queue) : (s.setQueue q x).free = s.free := rfl
@[simp] theorem State.setQueue_fairAt (s : State) (q : BitVec 10) (x : Queue) : (s.setQueue q x).fairAt = s.fairAt := rfl
@[simp] theorem State.setQueue_fairIn (s : State) (q : BitVec 10) (x : Queue) : (s.setQueue q x).fairIn = s.fairIn := rfl
@[simp] theorem State.setQueue_now (s : State) (q : BitVec 10) (x : Queue) : (s.setQueue q x).now = s.now := rfl
@[simp] theorem State.setQueue_issue (s : State) (q : BitVec 10) (x : Queue) : (s.setQueue q x).issue = s.issue := rfl

@[simp] theorem State.setPart_cores (s : State) (p : Nat) (x : Part) : (s.setPart p x).cores = s.cores := rfl
@[simp] theorem State.setPart_hbm (s : State) (p : Nat) (x : Part) : (s.setPart p x).hbm = s.hbm := rfl
@[simp] theorem State.setPart_host (s : State) (p : Nat) (x : Part) : (s.setPart p x).host = s.host := rfl
@[simp] theorem State.setPart_ctxTable (s : State) (p : Nat) (x : Part) : (s.setPart p x).ctxTable = s.ctxTable := rfl
@[simp] theorem State.setPart_regions (s : State) (p : Nat) (x : Part) : (s.setPart p x).regions = s.regions := rfl
@[simp] theorem State.setPart_queues (s : State) (p : Nat) (x : Part) : (s.setPart p x).queues = s.queues := rfl
@[simp] theorem State.setPart_tlb1 (s : State) (p : Nat) (x : Part) : (s.setPart p x).tlb1 = s.tlb1 := rfl
@[simp] theorem State.setPart_tlb2 (s : State) (p : Nat) (x : Part) : (s.setPart p x).tlb2 = s.tlb2 := rfl
@[simp] theorem State.setPart_atomics (s : State) (p : Nat) (x : Part) : (s.setPart p x).atomics = s.atomics := rfl
@[simp] theorem State.setPart_lastPort (s : State) (p : Nat) (x : Part) : (s.setPart p x).lastPort = s.lastPort := rfl
@[simp] theorem State.setPart_mgmt (s : State) (p : Nat) (x : Part) : (s.setPart p x).mgmt = s.mgmt := rfl
@[simp] theorem State.setPart_poison (s : State) (p : Nat) (x : Part) : (s.setPart p x).poison = s.poison := rfl
@[simp] theorem State.setPart_irqs (s : State) (p : Nat) (x : Part) : (s.setPart p x).irqs = s.irqs := rfl
@[simp] theorem State.setPart_reply (s : State) (p : Nat) (x : Part) : (s.setPart p x).reply = s.reply := rfl
@[simp] theorem State.setPart_peerFault (s : State) (p : Nat) (x : Part) : (s.setPart p x).peerFault = s.peerFault := rfl
@[simp] theorem State.setPart_sent (s : State) (p : Nat) (x : Part) : (s.setPart p x).sent = s.sent := rfl
@[simp] theorem State.setPart_nextId (s : State) (p : Nat) (x : Part) : (s.setPart p x).nextId = s.nextId := rfl
@[simp] theorem State.setPart_turn (s : State) (p : Nat) (x : Part) : (s.setPart p x).turn = s.turn := rfl
@[simp] theorem State.setPart_tick (s : State) (p : Nat) (x : Part) : (s.setPart p x).tick = s.tick := rfl
@[simp] theorem State.setPart_free (s : State) (p : Nat) (x : Part) : (s.setPart p x).free = s.free := rfl
@[simp] theorem State.setPart_fairAt (s : State) (p : Nat) (x : Part) : (s.setPart p x).fairAt = s.fairAt := rfl
@[simp] theorem State.setPart_fairIn (s : State) (p : Nat) (x : Part) : (s.setPart p x).fairIn = s.fairIn := rfl
@[simp] theorem State.setPart_now (s : State) (p : Nat) (x : Part) : (s.setPart p x).now = s.now := rfl
@[simp] theorem State.setPart_issue (s : State) (p : Nat) (x : Part) : (s.setPart p x).issue = s.issue := rfl

@[simp] theorem State.raise_cores (s : State) (v : Nat) : (s.raise v).cores = s.cores := rfl
@[simp] theorem State.raise_hbm (s : State) (v : Nat) : (s.raise v).hbm = s.hbm := rfl
@[simp] theorem State.raise_host (s : State) (v : Nat) : (s.raise v).host = s.host := rfl
@[simp] theorem State.raise_ctxTable (s : State) (v : Nat) : (s.raise v).ctxTable = s.ctxTable := rfl
@[simp] theorem State.raise_regions (s : State) (v : Nat) : (s.raise v).regions = s.regions := rfl
@[simp] theorem State.raise_queues (s : State) (v : Nat) : (s.raise v).queues = s.queues := rfl
@[simp] theorem State.raise_parts (s : State) (v : Nat) : (s.raise v).parts = s.parts := rfl
@[simp] theorem State.raise_tlb1 (s : State) (v : Nat) : (s.raise v).tlb1 = s.tlb1 := rfl
@[simp] theorem State.raise_tlb2 (s : State) (v : Nat) : (s.raise v).tlb2 = s.tlb2 := rfl
@[simp] theorem State.raise_atomics (s : State) (v : Nat) : (s.raise v).atomics = s.atomics := rfl
@[simp] theorem State.raise_lastPort (s : State) (v : Nat) : (s.raise v).lastPort = s.lastPort := rfl
@[simp] theorem State.raise_mgmt (s : State) (v : Nat) : (s.raise v).mgmt = s.mgmt := rfl
@[simp] theorem State.raise_poison (s : State) (v : Nat) : (s.raise v).poison = s.poison := rfl
@[simp] theorem State.raise_reply (s : State) (v : Nat) : (s.raise v).reply = s.reply := rfl
@[simp] theorem State.raise_peerFault (s : State) (v : Nat) : (s.raise v).peerFault = s.peerFault := rfl
@[simp] theorem State.raise_sent (s : State) (v : Nat) : (s.raise v).sent = s.sent := rfl
@[simp] theorem State.raise_nextId (s : State) (v : Nat) : (s.raise v).nextId = s.nextId := rfl
@[simp] theorem State.raise_turn (s : State) (v : Nat) : (s.raise v).turn = s.turn := rfl
@[simp] theorem State.raise_tick (s : State) (v : Nat) : (s.raise v).tick = s.tick := rfl
@[simp] theorem State.raise_free (s : State) (v : Nat) : (s.raise v).free = s.free := rfl
@[simp] theorem State.raise_fairAt (s : State) (v : Nat) : (s.raise v).fairAt = s.fairAt := rfl
@[simp] theorem State.raise_fairIn (s : State) (v : Nat) : (s.raise v).fairIn = s.fairIn := rfl
@[simp] theorem State.raise_now (s : State) (v : Nat) : (s.raise v).now = s.now := rfl
@[simp] theorem State.raise_issue (s : State) (v : Nat) : (s.raise v).issue = s.issue := rfl

@[simp] theorem State.setEvt_cores (s : State) (q : BitVec 10) (b : BitVec 4) : (s.setEvt q b).cores = s.cores := rfl
@[simp] theorem State.setEvt_hbm (s : State) (q : BitVec 10) (b : BitVec 4) : (s.setEvt q b).hbm = s.hbm := rfl
@[simp] theorem State.setEvt_host (s : State) (q : BitVec 10) (b : BitVec 4) : (s.setEvt q b).host = s.host := rfl
@[simp] theorem State.setEvt_ctxTable (s : State) (q : BitVec 10) (b : BitVec 4) : (s.setEvt q b).ctxTable = s.ctxTable := rfl
@[simp] theorem State.setEvt_regions (s : State) (q : BitVec 10) (b : BitVec 4) : (s.setEvt q b).regions = s.regions := rfl
@[simp] theorem State.setEvt_parts (s : State) (q : BitVec 10) (b : BitVec 4) : (s.setEvt q b).parts = s.parts := rfl
@[simp] theorem State.setEvt_tlb1 (s : State) (q : BitVec 10) (b : BitVec 4) : (s.setEvt q b).tlb1 = s.tlb1 := rfl
@[simp] theorem State.setEvt_tlb2 (s : State) (q : BitVec 10) (b : BitVec 4) : (s.setEvt q b).tlb2 = s.tlb2 := rfl
@[simp] theorem State.setEvt_atomics (s : State) (q : BitVec 10) (b : BitVec 4) : (s.setEvt q b).atomics = s.atomics := rfl
@[simp] theorem State.setEvt_lastPort (s : State) (q : BitVec 10) (b : BitVec 4) : (s.setEvt q b).lastPort = s.lastPort := rfl
@[simp] theorem State.setEvt_mgmt (s : State) (q : BitVec 10) (b : BitVec 4) : (s.setEvt q b).mgmt = s.mgmt := rfl
@[simp] theorem State.setEvt_poison (s : State) (q : BitVec 10) (b : BitVec 4) : (s.setEvt q b).poison = s.poison := rfl
@[simp] theorem State.setEvt_reply (s : State) (q : BitVec 10) (b : BitVec 4) : (s.setEvt q b).reply = s.reply := rfl
@[simp] theorem State.setEvt_peerFault (s : State) (q : BitVec 10) (b : BitVec 4) : (s.setEvt q b).peerFault = s.peerFault := rfl
@[simp] theorem State.setEvt_sent (s : State) (q : BitVec 10) (b : BitVec 4) : (s.setEvt q b).sent = s.sent := rfl
@[simp] theorem State.setEvt_nextId (s : State) (q : BitVec 10) (b : BitVec 4) : (s.setEvt q b).nextId = s.nextId := rfl
@[simp] theorem State.setEvt_turn (s : State) (q : BitVec 10) (b : BitVec 4) : (s.setEvt q b).turn = s.turn := rfl
@[simp] theorem State.setEvt_tick (s : State) (q : BitVec 10) (b : BitVec 4) : (s.setEvt q b).tick = s.tick := rfl
@[simp] theorem State.setEvt_free (s : State) (q : BitVec 10) (b : BitVec 4) : (s.setEvt q b).free = s.free := rfl
@[simp] theorem State.setEvt_fairAt (s : State) (q : BitVec 10) (b : BitVec 4) : (s.setEvt q b).fairAt = s.fairAt := rfl
@[simp] theorem State.setEvt_fairIn (s : State) (q : BitVec 10) (b : BitVec 4) : (s.setEvt q b).fairIn = s.fairIn := rfl
@[simp] theorem State.setEvt_now (s : State) (q : BitVec 10) (b : BitVec 4) : (s.setEvt q b).now = s.now := rfl
@[simp] theorem State.setEvt_issue (s : State) (q : BitVec 10) (b : BitVec 4) : (s.setEvt q b).issue = s.issue := rfl

@[simp] theorem State.modMgmt_cores (s : State) (f : Mgmt → Mgmt) : (s.modMgmt f).cores = s.cores := rfl
@[simp] theorem State.modMgmt_hbm (s : State) (f : Mgmt → Mgmt) : (s.modMgmt f).hbm = s.hbm := rfl
@[simp] theorem State.modMgmt_host (s : State) (f : Mgmt → Mgmt) : (s.modMgmt f).host = s.host := rfl
@[simp] theorem State.modMgmt_ctxTable (s : State) (f : Mgmt → Mgmt) : (s.modMgmt f).ctxTable = s.ctxTable := rfl
@[simp] theorem State.modMgmt_regions (s : State) (f : Mgmt → Mgmt) : (s.modMgmt f).regions = s.regions := rfl
@[simp] theorem State.modMgmt_queues (s : State) (f : Mgmt → Mgmt) : (s.modMgmt f).queues = s.queues := rfl
@[simp] theorem State.modMgmt_parts (s : State) (f : Mgmt → Mgmt) : (s.modMgmt f).parts = s.parts := rfl
@[simp] theorem State.modMgmt_tlb1 (s : State) (f : Mgmt → Mgmt) : (s.modMgmt f).tlb1 = s.tlb1 := rfl
@[simp] theorem State.modMgmt_tlb2 (s : State) (f : Mgmt → Mgmt) : (s.modMgmt f).tlb2 = s.tlb2 := rfl
@[simp] theorem State.modMgmt_atomics (s : State) (f : Mgmt → Mgmt) : (s.modMgmt f).atomics = s.atomics := rfl
@[simp] theorem State.modMgmt_lastPort (s : State) (f : Mgmt → Mgmt) : (s.modMgmt f).lastPort = s.lastPort := rfl
@[simp] theorem State.modMgmt_poison (s : State) (f : Mgmt → Mgmt) : (s.modMgmt f).poison = s.poison := rfl
@[simp] theorem State.modMgmt_irqs (s : State) (f : Mgmt → Mgmt) : (s.modMgmt f).irqs = s.irqs := rfl
@[simp] theorem State.modMgmt_reply (s : State) (f : Mgmt → Mgmt) : (s.modMgmt f).reply = s.reply := rfl
@[simp] theorem State.modMgmt_peerFault (s : State) (f : Mgmt → Mgmt) : (s.modMgmt f).peerFault = s.peerFault := rfl
@[simp] theorem State.modMgmt_sent (s : State) (f : Mgmt → Mgmt) : (s.modMgmt f).sent = s.sent := rfl
@[simp] theorem State.modMgmt_nextId (s : State) (f : Mgmt → Mgmt) : (s.modMgmt f).nextId = s.nextId := rfl
@[simp] theorem State.modMgmt_turn (s : State) (f : Mgmt → Mgmt) : (s.modMgmt f).turn = s.turn := rfl
@[simp] theorem State.modMgmt_tick (s : State) (f : Mgmt → Mgmt) : (s.modMgmt f).tick = s.tick := rfl
@[simp] theorem State.modMgmt_free (s : State) (f : Mgmt → Mgmt) : (s.modMgmt f).free = s.free := rfl
@[simp] theorem State.modMgmt_fairAt (s : State) (f : Mgmt → Mgmt) : (s.modMgmt f).fairAt = s.fairAt := rfl
@[simp] theorem State.modMgmt_fairIn (s : State) (f : Mgmt → Mgmt) : (s.modMgmt f).fairIn = s.fairIn := rfl
@[simp] theorem State.modMgmt_now (s : State) (f : Mgmt → Mgmt) : (s.modMgmt f).now = s.now := rfl
@[simp] theorem State.modMgmt_issue (s : State) (f : Mgmt → Mgmt) : (s.modMgmt f).issue = s.issue := rfl

@[simp] theorem State.tickOver_hbm (s : State) : (tickOver s).hbm = s.hbm := rfl
@[simp] theorem State.tickOver_host (s : State) : (tickOver s).host = s.host := rfl
@[simp] theorem State.tickOver_ctxTable (s : State) : (tickOver s).ctxTable = s.ctxTable := rfl
@[simp] theorem State.tickOver_regions (s : State) : (tickOver s).regions = s.regions := rfl
@[simp] theorem State.tickOver_queues (s : State) : (tickOver s).queues = s.queues := rfl
@[simp] theorem State.tickOver_parts (s : State) : (tickOver s).parts = s.parts := rfl
@[simp] theorem State.tickOver_tlb1 (s : State) : (tickOver s).tlb1 = s.tlb1 := rfl
@[simp] theorem State.tickOver_tlb2 (s : State) : (tickOver s).tlb2 = s.tlb2 := rfl
@[simp] theorem State.tickOver_atomics (s : State) : (tickOver s).atomics = s.atomics := rfl
@[simp] theorem State.tickOver_lastPort (s : State) : (tickOver s).lastPort = s.lastPort := rfl
@[simp] theorem State.tickOver_mgmt (s : State) : (tickOver s).mgmt = s.mgmt := rfl
@[simp] theorem State.tickOver_poison (s : State) : (tickOver s).poison = s.poison := rfl
@[simp] theorem State.tickOver_irqs (s : State) : (tickOver s).irqs = s.irqs := rfl
@[simp] theorem State.tickOver_reply (s : State) : (tickOver s).reply = s.reply := rfl
@[simp] theorem State.tickOver_peerFault (s : State) : (tickOver s).peerFault = s.peerFault := rfl
@[simp] theorem State.tickOver_sent (s : State) : (tickOver s).sent = s.sent := rfl
@[simp] theorem State.tickOver_free (s : State) : (tickOver s).free = s.free := rfl

@[simp] theorem State.grantAll_hbm (s : State) : (s.grantAll).hbm = s.hbm := rfl
@[simp] theorem State.grantAll_host (s : State) : (s.grantAll).host = s.host := rfl
@[simp] theorem State.grantAll_ctxTable (s : State) : (s.grantAll).ctxTable = s.ctxTable := rfl
@[simp] theorem State.grantAll_regions (s : State) : (s.grantAll).regions = s.regions := rfl
@[simp] theorem State.grantAll_queues (s : State) : (s.grantAll).queues = s.queues := rfl
@[simp] theorem State.grantAll_parts (s : State) : (s.grantAll).parts = s.parts := rfl
@[simp] theorem State.grantAll_tlb1 (s : State) : (s.grantAll).tlb1 = s.tlb1 := rfl
@[simp] theorem State.grantAll_tlb2 (s : State) : (s.grantAll).tlb2 = s.tlb2 := rfl
@[simp] theorem State.grantAll_atomics (s : State) : (s.grantAll).atomics = s.atomics := rfl
@[simp] theorem State.grantAll_lastPort (s : State) : (s.grantAll).lastPort = s.lastPort := rfl
@[simp] theorem State.grantAll_mgmt (s : State) : (s.grantAll).mgmt = s.mgmt := rfl
@[simp] theorem State.grantAll_poison (s : State) : (s.grantAll).poison = s.poison := rfl
@[simp] theorem State.grantAll_irqs (s : State) : (s.grantAll).irqs = s.irqs := rfl
@[simp] theorem State.grantAll_reply (s : State) : (s.grantAll).reply = s.reply := rfl
@[simp] theorem State.grantAll_peerFault (s : State) : (s.grantAll).peerFault = s.peerFault := rfl
@[simp] theorem State.grantAll_sent (s : State) : (s.grantAll).sent = s.sent := rfl
@[simp] theorem State.grantAll_turn (s : State) : (s.grantAll).turn = s.turn := rfl
@[simp] theorem State.grantAll_tick (s : State) : (s.grantAll).tick = s.tick := rfl
@[simp] theorem State.grantAll_free (s : State) : (s.grantAll).free = s.free := rfl
@[simp] theorem State.grantAll_fairAt (s : State) : (s.grantAll).fairAt = s.fairAt := rfl
@[simp] theorem State.grantAll_fairIn (s : State) : (s.grantAll).fairIn = s.fairIn := rfl
@[simp] theorem State.grantAll_now (s : State) : (s.grantAll).now = s.now := rfl
@[simp] theorem State.grantAll_issue (s : State) : (s.grantAll).issue = s.issue := rfl

@[simp] theorem State.setPoison_cores (s : State) (st : Store) (a n : Nat) (on : Bool) : (s.setPoison st a n on).cores = s.cores := rfl
@[simp] theorem State.setPoison_hbm (s : State) (st : Store) (a n : Nat) (on : Bool) : (s.setPoison st a n on).hbm = s.hbm := rfl
@[simp] theorem State.setPoison_host (s : State) (st : Store) (a n : Nat) (on : Bool) : (s.setPoison st a n on).host = s.host := rfl
@[simp] theorem State.setPoison_ctxTable (s : State) (st : Store) (a n : Nat) (on : Bool) : (s.setPoison st a n on).ctxTable = s.ctxTable := rfl
@[simp] theorem State.setPoison_regions (s : State) (st : Store) (a n : Nat) (on : Bool) : (s.setPoison st a n on).regions = s.regions := rfl
@[simp] theorem State.setPoison_queues (s : State) (st : Store) (a n : Nat) (on : Bool) : (s.setPoison st a n on).queues = s.queues := rfl
@[simp] theorem State.setPoison_parts (s : State) (st : Store) (a n : Nat) (on : Bool) : (s.setPoison st a n on).parts = s.parts := rfl
@[simp] theorem State.setPoison_tlb1 (s : State) (st : Store) (a n : Nat) (on : Bool) : (s.setPoison st a n on).tlb1 = s.tlb1 := rfl
@[simp] theorem State.setPoison_tlb2 (s : State) (st : Store) (a n : Nat) (on : Bool) : (s.setPoison st a n on).tlb2 = s.tlb2 := rfl
@[simp] theorem State.setPoison_atomics (s : State) (st : Store) (a n : Nat) (on : Bool) : (s.setPoison st a n on).atomics = s.atomics := rfl
@[simp] theorem State.setPoison_lastPort (s : State) (st : Store) (a n : Nat) (on : Bool) : (s.setPoison st a n on).lastPort = s.lastPort := rfl
@[simp] theorem State.setPoison_mgmt (s : State) (st : Store) (a n : Nat) (on : Bool) : (s.setPoison st a n on).mgmt = s.mgmt := rfl
@[simp] theorem State.setPoison_irqs (s : State) (st : Store) (a n : Nat) (on : Bool) : (s.setPoison st a n on).irqs = s.irqs := rfl
@[simp] theorem State.setPoison_reply (s : State) (st : Store) (a n : Nat) (on : Bool) : (s.setPoison st a n on).reply = s.reply := rfl
@[simp] theorem State.setPoison_peerFault (s : State) (st : Store) (a n : Nat) (on : Bool) : (s.setPoison st a n on).peerFault = s.peerFault := rfl
@[simp] theorem State.setPoison_sent (s : State) (st : Store) (a n : Nat) (on : Bool) : (s.setPoison st a n on).sent = s.sent := rfl
@[simp] theorem State.setPoison_nextId (s : State) (st : Store) (a n : Nat) (on : Bool) : (s.setPoison st a n on).nextId = s.nextId := rfl
@[simp] theorem State.setPoison_turn (s : State) (st : Store) (a n : Nat) (on : Bool) : (s.setPoison st a n on).turn = s.turn := rfl
@[simp] theorem State.setPoison_tick (s : State) (st : Store) (a n : Nat) (on : Bool) : (s.setPoison st a n on).tick = s.tick := rfl
@[simp] theorem State.setPoison_free (s : State) (st : Store) (a n : Nat) (on : Bool) : (s.setPoison st a n on).free = s.free := rfl
@[simp] theorem State.setPoison_fairAt (s : State) (st : Store) (a n : Nat) (on : Bool) : (s.setPoison st a n on).fairAt = s.fairAt := rfl
@[simp] theorem State.setPoison_fairIn (s : State) (st : Store) (a n : Nat) (on : Bool) : (s.setPoison st a n on).fairIn = s.fairIn := rfl
@[simp] theorem State.setPoison_now (s : State) (st : Store) (a n : Nat) (on : Bool) : (s.setPoison st a n on).now = s.now := rfl
@[simp] theorem State.setPoison_issue (s : State) (st : Store) (a n : Nat) (on : Bool) : (s.setPoison st a n on).issue = s.issue := rfl

@[simp] theorem State.modMgmt_mgmt (s : State) (f : Mgmt → Mgmt) : (s.modMgmt f).mgmt = f s.mgmt := rfl
@[simp] theorem State.raise_irqs (s : State) (v : Nat) : (s.raise v).irqs = s.irqs ++ [v] := rfl

/-- A queue replaced is read back, and every other queue stays. -/
@[simp] theorem State.queue_setQueue (s : State) (q r : BitVec 10) (x : Queue) :
    (s.setQueue q x).queue r = if r = q then x else s.queue r := by
  unfold State.queue State.setQueue
  rw [vget_vset]
  by_cases h : r = q
  · rw [if_pos ⟨by rw [h], r.isLt⟩, if_pos h]
  · rw [if_neg h, if_neg (fun hh => h (BitVec.eq_of_toNat_eq hh.1.symm))]

/-- A partition replaced is read back, and every other partition stays. -/
@[simp] theorem State.part_setPart (s : State) (p r : Nat) (x : Part) :
    (s.setPart p x).part r = if p = r ∧ r < 8 then x else s.part r := by
  unfold State.part State.setPart
  exact vget_vset s.parts p r x {}

/-- A core replaced is read back, and every other core stays. -/
@[simp] theorem State.coreAt_setCoreAt (s : State) (c d : Fin 128) (k : Core) :
    (s.setCoreAt c k).coreAt d = if d = c then k else s.coreAt d := by
  unfold State.coreAt State.setCoreAt
  by_cases h : d = c
  · subst h; simp
  · have : c.val ≠ d.val := fun hh => h (Fin.ext hh.symm)
    simp [h, this]

@[simp] theorem State.coreAt_setQueue (s : State) (q : BitVec 10) (x : Queue) (c : Fin 128) :
    (s.setQueue q x).coreAt c = s.coreAt c := rfl
@[simp] theorem State.coreAt_setPart (s : State) (p : Nat) (x : Part) (c : Fin 128) : (s.setPart p x).coreAt c = s.coreAt c := rfl
@[simp] theorem State.coreAt_raise (s : State) (v : Nat) (c : Fin 128) : (s.raise v).coreAt c = s.coreAt c := rfl
@[simp] theorem State.coreAt_setEvt (s : State) (q : BitVec 10) (b : BitVec 4) (c : Fin 128) : (s.setEvt q b).coreAt c = s.coreAt c := rfl
@[simp] theorem State.coreAt_modMgmt (s : State) (f : Mgmt → Mgmt) (c : Fin 128) : (s.modMgmt f).coreAt c = s.coreAt c := rfl
@[simp] theorem State.queue_setCoreAt (s : State) (c : Fin 128) (k : Core) (q : BitVec 10) : (s.setCoreAt c k).queue q = s.queue q := rfl
@[simp] theorem State.queue_setPart (s : State) (p : Nat) (x : Part) (q : BitVec 10) : (s.setPart p x).queue q = s.queue q := rfl
@[simp] theorem State.queue_raise (s : State) (v : Nat) (q : BitVec 10) : (s.raise v).queue q = s.queue q := rfl
@[simp] theorem State.queue_modMgmt (s : State) (f : Mgmt → Mgmt) (q : BitVec 10) : (s.modMgmt f).queue q = s.queue q := rfl
@[simp] theorem State.part_setCoreAt (s : State) (c : Fin 128) (k : Core) (p : Nat) : (s.setCoreAt c k).part p = s.part p := rfl
@[simp] theorem State.part_setQueue (s : State) (q : BitVec 10) (x : Queue) (p : Nat) : (s.setQueue q x).part p = s.part p := rfl
@[simp] theorem State.part_raise (s : State) (v p : Nat) : (s.raise v).part p = s.part p := rfl
@[simp] theorem State.part_setEvt (s : State) (q : BitVec 10) (b : BitVec 4) (p : Nat) : (s.setEvt q b).part p = s.part p := rfl
@[simp] theorem State.part_modMgmt (s : State) (f : Mgmt → Mgmt) (p : Nat) : (s.modMgmt f).part p = s.part p := rfl

/-- EVT bits set: the queue keeps everything else. -/
@[simp] theorem State.queue_setEvt (s : State) (q r : BitVec 10) (b : BitVec 4) :
    (s.setEvt q b).queue r = if r = q then { s.queue q with evt := (s.queue q).evt ||| b } else s.queue r := by
  unfold State.setEvt
  rw [State.queue_raise, State.queue_setQueue]

/-! ### A core -/

@[simp] theorem Core.setStream_regs (k : Core) (n : Nat) (t : Stream) : (k.setStream n t).regs = k.regs := rfl
@[simp] theorem Core.setStream_ec (k : Core) (n : Nat) (t : Stream) : (k.setStream n t).ec = k.ec := rfl
@[simp] theorem Core.setStream_ea (k : Core) (n : Nat) (t : Stream) : (k.setStream n t).ea = k.ea := rfl
@[simp] theorem Core.setStream_ev (k : Core) (n : Nat) (t : Stream) : (k.setStream n t).ev = k.ev := rfl
@[simp] theorem Core.setStream_em (k : Core) (n : Nat) (t : Stream) : (k.setStream n t).em = k.em := rfl
@[simp] theorem Core.setStream_tok (k : Core) (n : Nat) (t : Stream) : (k.setStream n t).tok = k.tok := rfl
@[simp] theorem Core.setStream_vals (k : Core) (n : Nat) (t : Stream) : (k.setStream n t).vals = k.vals := rfl
@[simp] theorem Core.setStream_csr (k : Core) (n : Nat) (t : Stream) : (k.setStream n t).csr = k.csr := rfl
@[simp] theorem Core.setStream_tiles (k : Core) (n : Nat) (t : Stream) : (k.setStream n t).tiles = k.tiles := rfl
@[simp] theorem Core.setStream_cist (k : Core) (n : Nat) (t : Stream) : (k.setStream n t).cist = k.cist := rfl
@[simp] theorem Core.setStream_lastServed (k : Core) (n : Nat) (t : Stream) : (k.setStream n t).lastServed = k.lastServed := rfl
@[simp] theorem Core.setStream_vp (k : Core) (n : Nat) (t : Stream) : (k.setStream n t).vp = k.vp := rfl
@[simp] theorem Core.setStream_mx (k : Core) (n : Nat) (t : Stream) : (k.setStream n t).mx = k.mx := rfl
@[simp] theorem Core.setStream_samp (k : Core) (n : Nat) (t : Stream) : (k.setStream n t).samp = k.samp := rfl
@[simp] theorem Core.setStream_ref (k : Core) (n : Nat) (t : Stream) : (k.setStream n t).ref = k.ref := rfl
@[simp] theorem Core.setStream_handler (k : Core) (n : Nat) (t : Stream) : (k.setStream n t).handler = k.handler := rfl
@[simp] theorem Core.setStream_cell (k : Core) (n : Nat) (t : Stream) : (k.setStream n t).cell = k.cell := rfl
@[simp] theorem Core.setStream_kern (k : Core) (n : Nat) (t : Stream) : (k.setStream n t).kern = k.kern := rfl
@[simp] theorem Core.setStream_halted (k : Core) (n : Nat) (t : Stream) : (k.setStream n t).halted = k.halted := rfl
@[simp] theorem Core.setStream_istore (k : Core) (n : Nat) (t : Stream) : (k.setStream n t).istore = k.istore := rfl
@[simp] theorem Core.setStream_textId (k : Core) (n : Nat) (t : Stream) : (k.setStream n t).textId = k.textId := rfl
@[simp] theorem Core.setStream_textCtx (k : Core) (n : Nat) (t : Stream) : (k.setStream n t).textCtx = k.textCtx := rfl
@[simp] theorem Core.setStream_textOk (k : Core) (n : Nat) (t : Stream) : (k.setStream n t).textOk = k.textOk := rfl
@[simp] theorem Core.setStream_textLines (k : Core) (n : Nat) (t : Stream) : (k.setStream n t).textLines = k.textLines := rfl
@[simp] theorem Core.setStream_lastCtx (k : Core) (n : Nat) (t : Stream) : (k.setStream n t).lastCtx = k.lastCtx := rfl
@[simp] theorem Core.setStream_well (k : Core) (n : Nat) (t : Stream) : (k.setStream n t).well = k.well := rfl
@[simp] theorem Core.setStream_urs (k : Core) (n : Nat) (t : Stream) : (k.setStream n t).urs = k.urs := rfl
@[simp] theorem Core.setStream_waiters (k : Core) (n : Nat) (t : Stream) : (k.setStream n t).waiters = k.waiters := rfl
@[simp] theorem Core.setStream_stall (k : Core) (n : Nat) (t : Stream) : (k.setStream n t).stall = k.stall := rfl
@[simp] theorem Core.setStream_cycle (k : Core) (n : Nat) (t : Stream) : (k.setStream n t).cycle = k.cycle := rfl
@[simp] theorem Core.setStream_heldOvf (k : Core) (n : Nat) (t : Stream) : (k.setStream n t).heldOvf = k.heldOvf := rfl
@[simp] theorem Core.setStream_heldUnb (k : Core) (n : Nat) (t : Stream) : (k.setStream n t).heldUnb = k.heldUnb := rfl
@[simp] theorem Core.setStream_lateV (k : Core) (n : Nat) (t : Stream) : (k.setStream n t).lateV = k.lateV := rfl
@[simp] theorem Core.setStream_lateM (k : Core) (n : Nat) (t : Stream) : (k.setStream n t).lateM = k.lateM := rfl
@[simp] theorem Core.setStream_nextCell (k : Core) (n : Nat) (t : Stream) : (k.setStream n t).nextCell = k.nextCell := rfl

@[simp] theorem Core.setTile_regs (k : Core) (n : Nat) (x : Tile) : (k.setTile n x).regs = k.regs := rfl
@[simp] theorem Core.setTile_ec (k : Core) (n : Nat) (x : Tile) : (k.setTile n x).ec = k.ec := rfl
@[simp] theorem Core.setTile_ea (k : Core) (n : Nat) (x : Tile) : (k.setTile n x).ea = k.ea := rfl
@[simp] theorem Core.setTile_ev (k : Core) (n : Nat) (x : Tile) : (k.setTile n x).ev = k.ev := rfl
@[simp] theorem Core.setTile_em (k : Core) (n : Nat) (x : Tile) : (k.setTile n x).em = k.em := rfl
@[simp] theorem Core.setTile_tok (k : Core) (n : Nat) (x : Tile) : (k.setTile n x).tok = k.tok := rfl
@[simp] theorem Core.setTile_vals (k : Core) (n : Nat) (x : Tile) : (k.setTile n x).vals = k.vals := rfl
@[simp] theorem Core.setTile_csr (k : Core) (n : Nat) (x : Tile) : (k.setTile n x).csr = k.csr := rfl
@[simp] theorem Core.setTile_cist (k : Core) (n : Nat) (x : Tile) : (k.setTile n x).cist = k.cist := rfl
@[simp] theorem Core.setTile_streams (k : Core) (n : Nat) (x : Tile) : (k.setTile n x).streams = k.streams := rfl
@[simp] theorem Core.setTile_lastServed (k : Core) (n : Nat) (x : Tile) : (k.setTile n x).lastServed = k.lastServed := rfl
@[simp] theorem Core.setTile_vp (k : Core) (n : Nat) (x : Tile) : (k.setTile n x).vp = k.vp := rfl
@[simp] theorem Core.setTile_mx (k : Core) (n : Nat) (x : Tile) : (k.setTile n x).mx = k.mx := rfl
@[simp] theorem Core.setTile_samp (k : Core) (n : Nat) (x : Tile) : (k.setTile n x).samp = k.samp := rfl
@[simp] theorem Core.setTile_ref (k : Core) (n : Nat) (x : Tile) : (k.setTile n x).ref = k.ref := rfl
@[simp] theorem Core.setTile_handler (k : Core) (n : Nat) (x : Tile) : (k.setTile n x).handler = k.handler := rfl
@[simp] theorem Core.setTile_cell (k : Core) (n : Nat) (x : Tile) : (k.setTile n x).cell = k.cell := rfl
@[simp] theorem Core.setTile_kern (k : Core) (n : Nat) (x : Tile) : (k.setTile n x).kern = k.kern := rfl
@[simp] theorem Core.setTile_halted (k : Core) (n : Nat) (x : Tile) : (k.setTile n x).halted = k.halted := rfl
@[simp] theorem Core.setTile_istore (k : Core) (n : Nat) (x : Tile) : (k.setTile n x).istore = k.istore := rfl
@[simp] theorem Core.setTile_textId (k : Core) (n : Nat) (x : Tile) : (k.setTile n x).textId = k.textId := rfl
@[simp] theorem Core.setTile_textCtx (k : Core) (n : Nat) (x : Tile) : (k.setTile n x).textCtx = k.textCtx := rfl
@[simp] theorem Core.setTile_textOk (k : Core) (n : Nat) (x : Tile) : (k.setTile n x).textOk = k.textOk := rfl
@[simp] theorem Core.setTile_textLines (k : Core) (n : Nat) (x : Tile) : (k.setTile n x).textLines = k.textLines := rfl
@[simp] theorem Core.setTile_lastCtx (k : Core) (n : Nat) (x : Tile) : (k.setTile n x).lastCtx = k.lastCtx := rfl
@[simp] theorem Core.setTile_well (k : Core) (n : Nat) (x : Tile) : (k.setTile n x).well = k.well := rfl
@[simp] theorem Core.setTile_urs (k : Core) (n : Nat) (x : Tile) : (k.setTile n x).urs = k.urs := rfl
@[simp] theorem Core.setTile_waiters (k : Core) (n : Nat) (x : Tile) : (k.setTile n x).waiters = k.waiters := rfl
@[simp] theorem Core.setTile_stall (k : Core) (n : Nat) (x : Tile) : (k.setTile n x).stall = k.stall := rfl
@[simp] theorem Core.setTile_cycle (k : Core) (n : Nat) (x : Tile) : (k.setTile n x).cycle = k.cycle := rfl
@[simp] theorem Core.setTile_heldOvf (k : Core) (n : Nat) (x : Tile) : (k.setTile n x).heldOvf = k.heldOvf := rfl
@[simp] theorem Core.setTile_heldUnb (k : Core) (n : Nat) (x : Tile) : (k.setTile n x).heldUnb = k.heldUnb := rfl
@[simp] theorem Core.setTile_lateV (k : Core) (n : Nat) (x : Tile) : (k.setTile n x).lateV = k.lateV := rfl
@[simp] theorem Core.setTile_lateM (k : Core) (n : Nat) (x : Tile) : (k.setTile n x).lateM = k.lateM := rfl
@[simp] theorem Core.setTile_nextCell (k : Core) (n : Nat) (x : Tile) : (k.setTile n x).nextCell = k.nextCell := rfl

@[simp] theorem Core.tokPush_regs (k : Core) (e : Engine) (ds : List Engine) : (k.tokPush e ds).regs = k.regs := rfl
@[simp] theorem Core.tokPush_ec (k : Core) (e : Engine) (ds : List Engine) : (k.tokPush e ds).ec = k.ec := rfl
@[simp] theorem Core.tokPush_ea (k : Core) (e : Engine) (ds : List Engine) : (k.tokPush e ds).ea = k.ea := rfl
@[simp] theorem Core.tokPush_ev (k : Core) (e : Engine) (ds : List Engine) : (k.tokPush e ds).ev = k.ev := rfl
@[simp] theorem Core.tokPush_em (k : Core) (e : Engine) (ds : List Engine) : (k.tokPush e ds).em = k.em := rfl
@[simp] theorem Core.tokPush_vals (k : Core) (e : Engine) (ds : List Engine) : (k.tokPush e ds).vals = k.vals := rfl
@[simp] theorem Core.tokPush_csr (k : Core) (e : Engine) (ds : List Engine) : (k.tokPush e ds).csr = k.csr := rfl
@[simp] theorem Core.tokPush_tiles (k : Core) (e : Engine) (ds : List Engine) : (k.tokPush e ds).tiles = k.tiles := rfl
@[simp] theorem Core.tokPush_cist (k : Core) (e : Engine) (ds : List Engine) : (k.tokPush e ds).cist = k.cist := rfl
@[simp] theorem Core.tokPush_streams (k : Core) (e : Engine) (ds : List Engine) : (k.tokPush e ds).streams = k.streams := rfl
@[simp] theorem Core.tokPush_lastServed (k : Core) (e : Engine) (ds : List Engine) : (k.tokPush e ds).lastServed = k.lastServed := rfl
@[simp] theorem Core.tokPush_vp (k : Core) (e : Engine) (ds : List Engine) : (k.tokPush e ds).vp = k.vp := rfl
@[simp] theorem Core.tokPush_mx (k : Core) (e : Engine) (ds : List Engine) : (k.tokPush e ds).mx = k.mx := rfl
@[simp] theorem Core.tokPush_samp (k : Core) (e : Engine) (ds : List Engine) : (k.tokPush e ds).samp = k.samp := rfl
@[simp] theorem Core.tokPush_ref (k : Core) (e : Engine) (ds : List Engine) : (k.tokPush e ds).ref = k.ref := rfl
@[simp] theorem Core.tokPush_handler (k : Core) (e : Engine) (ds : List Engine) : (k.tokPush e ds).handler = k.handler := rfl
@[simp] theorem Core.tokPush_cell (k : Core) (e : Engine) (ds : List Engine) : (k.tokPush e ds).cell = k.cell := rfl
@[simp] theorem Core.tokPush_kern (k : Core) (e : Engine) (ds : List Engine) : (k.tokPush e ds).kern = k.kern := rfl
@[simp] theorem Core.tokPush_halted (k : Core) (e : Engine) (ds : List Engine) : (k.tokPush e ds).halted = k.halted := rfl
@[simp] theorem Core.tokPush_istore (k : Core) (e : Engine) (ds : List Engine) : (k.tokPush e ds).istore = k.istore := rfl
@[simp] theorem Core.tokPush_textId (k : Core) (e : Engine) (ds : List Engine) : (k.tokPush e ds).textId = k.textId := rfl
@[simp] theorem Core.tokPush_textCtx (k : Core) (e : Engine) (ds : List Engine) : (k.tokPush e ds).textCtx = k.textCtx := rfl
@[simp] theorem Core.tokPush_textOk (k : Core) (e : Engine) (ds : List Engine) : (k.tokPush e ds).textOk = k.textOk := rfl
@[simp] theorem Core.tokPush_textLines (k : Core) (e : Engine) (ds : List Engine) : (k.tokPush e ds).textLines = k.textLines := rfl
@[simp] theorem Core.tokPush_lastCtx (k : Core) (e : Engine) (ds : List Engine) : (k.tokPush e ds).lastCtx = k.lastCtx := rfl
@[simp] theorem Core.tokPush_well (k : Core) (e : Engine) (ds : List Engine) : (k.tokPush e ds).well = k.well := rfl
@[simp] theorem Core.tokPush_urs (k : Core) (e : Engine) (ds : List Engine) : (k.tokPush e ds).urs = k.urs := rfl
@[simp] theorem Core.tokPush_waiters (k : Core) (e : Engine) (ds : List Engine) : (k.tokPush e ds).waiters = k.waiters := rfl
@[simp] theorem Core.tokPush_stall (k : Core) (e : Engine) (ds : List Engine) : (k.tokPush e ds).stall = k.stall := rfl
@[simp] theorem Core.tokPush_cycle (k : Core) (e : Engine) (ds : List Engine) : (k.tokPush e ds).cycle = k.cycle := rfl
@[simp] theorem Core.tokPush_heldOvf (k : Core) (e : Engine) (ds : List Engine) : (k.tokPush e ds).heldOvf = k.heldOvf := rfl
@[simp] theorem Core.tokPush_heldUnb (k : Core) (e : Engine) (ds : List Engine) : (k.tokPush e ds).heldUnb = k.heldUnb := rfl
@[simp] theorem Core.tokPush_lateV (k : Core) (e : Engine) (ds : List Engine) : (k.tokPush e ds).lateV = k.lateV := rfl
@[simp] theorem Core.tokPush_lateM (k : Core) (e : Engine) (ds : List Engine) : (k.tokPush e ds).lateM = k.lateM := rfl
@[simp] theorem Core.tokPush_nextCell (k : Core) (e : Engine) (ds : List Engine) : (k.tokPush e ds).nextCell = k.nextCell := rfl

@[simp] theorem Core.tokPop_regs (k : Core) (e : Engine) (ds : List Engine) : (k.tokPop e ds).regs = k.regs := rfl
@[simp] theorem Core.tokPop_ec (k : Core) (e : Engine) (ds : List Engine) : (k.tokPop e ds).ec = k.ec := rfl
@[simp] theorem Core.tokPop_ea (k : Core) (e : Engine) (ds : List Engine) : (k.tokPop e ds).ea = k.ea := rfl
@[simp] theorem Core.tokPop_ev (k : Core) (e : Engine) (ds : List Engine) : (k.tokPop e ds).ev = k.ev := rfl
@[simp] theorem Core.tokPop_em (k : Core) (e : Engine) (ds : List Engine) : (k.tokPop e ds).em = k.em := rfl
@[simp] theorem Core.tokPop_vals (k : Core) (e : Engine) (ds : List Engine) : (k.tokPop e ds).vals = k.vals := rfl
@[simp] theorem Core.tokPop_csr (k : Core) (e : Engine) (ds : List Engine) : (k.tokPop e ds).csr = k.csr := rfl
@[simp] theorem Core.tokPop_tiles (k : Core) (e : Engine) (ds : List Engine) : (k.tokPop e ds).tiles = k.tiles := rfl
@[simp] theorem Core.tokPop_cist (k : Core) (e : Engine) (ds : List Engine) : (k.tokPop e ds).cist = k.cist := rfl
@[simp] theorem Core.tokPop_streams (k : Core) (e : Engine) (ds : List Engine) : (k.tokPop e ds).streams = k.streams := rfl
@[simp] theorem Core.tokPop_lastServed (k : Core) (e : Engine) (ds : List Engine) : (k.tokPop e ds).lastServed = k.lastServed := rfl
@[simp] theorem Core.tokPop_vp (k : Core) (e : Engine) (ds : List Engine) : (k.tokPop e ds).vp = k.vp := rfl
@[simp] theorem Core.tokPop_mx (k : Core) (e : Engine) (ds : List Engine) : (k.tokPop e ds).mx = k.mx := rfl
@[simp] theorem Core.tokPop_samp (k : Core) (e : Engine) (ds : List Engine) : (k.tokPop e ds).samp = k.samp := rfl
@[simp] theorem Core.tokPop_ref (k : Core) (e : Engine) (ds : List Engine) : (k.tokPop e ds).ref = k.ref := rfl
@[simp] theorem Core.tokPop_handler (k : Core) (e : Engine) (ds : List Engine) : (k.tokPop e ds).handler = k.handler := rfl
@[simp] theorem Core.tokPop_cell (k : Core) (e : Engine) (ds : List Engine) : (k.tokPop e ds).cell = k.cell := rfl
@[simp] theorem Core.tokPop_kern (k : Core) (e : Engine) (ds : List Engine) : (k.tokPop e ds).kern = k.kern := rfl
@[simp] theorem Core.tokPop_halted (k : Core) (e : Engine) (ds : List Engine) : (k.tokPop e ds).halted = k.halted := rfl
@[simp] theorem Core.tokPop_istore (k : Core) (e : Engine) (ds : List Engine) : (k.tokPop e ds).istore = k.istore := rfl
@[simp] theorem Core.tokPop_textId (k : Core) (e : Engine) (ds : List Engine) : (k.tokPop e ds).textId = k.textId := rfl
@[simp] theorem Core.tokPop_textCtx (k : Core) (e : Engine) (ds : List Engine) : (k.tokPop e ds).textCtx = k.textCtx := rfl
@[simp] theorem Core.tokPop_textOk (k : Core) (e : Engine) (ds : List Engine) : (k.tokPop e ds).textOk = k.textOk := rfl
@[simp] theorem Core.tokPop_textLines (k : Core) (e : Engine) (ds : List Engine) : (k.tokPop e ds).textLines = k.textLines := rfl
@[simp] theorem Core.tokPop_lastCtx (k : Core) (e : Engine) (ds : List Engine) : (k.tokPop e ds).lastCtx = k.lastCtx := rfl
@[simp] theorem Core.tokPop_well (k : Core) (e : Engine) (ds : List Engine) : (k.tokPop e ds).well = k.well := rfl
@[simp] theorem Core.tokPop_urs (k : Core) (e : Engine) (ds : List Engine) : (k.tokPop e ds).urs = k.urs := rfl
@[simp] theorem Core.tokPop_waiters (k : Core) (e : Engine) (ds : List Engine) : (k.tokPop e ds).waiters = k.waiters := rfl
@[simp] theorem Core.tokPop_stall (k : Core) (e : Engine) (ds : List Engine) : (k.tokPop e ds).stall = k.stall := rfl
@[simp] theorem Core.tokPop_cycle (k : Core) (e : Engine) (ds : List Engine) : (k.tokPop e ds).cycle = k.cycle := rfl
@[simp] theorem Core.tokPop_heldOvf (k : Core) (e : Engine) (ds : List Engine) : (k.tokPop e ds).heldOvf = k.heldOvf := rfl
@[simp] theorem Core.tokPop_heldUnb (k : Core) (e : Engine) (ds : List Engine) : (k.tokPop e ds).heldUnb = k.heldUnb := rfl
@[simp] theorem Core.tokPop_lateV (k : Core) (e : Engine) (ds : List Engine) : (k.tokPop e ds).lateV = k.lateV := rfl
@[simp] theorem Core.tokPop_lateM (k : Core) (e : Engine) (ds : List Engine) : (k.tokPop e ds).lateM = k.lateM := rfl
@[simp] theorem Core.tokPop_nextCell (k : Core) (e : Engine) (ds : List Engine) : (k.tokPop e ds).nextCell = k.nextCell := rfl

@[simp] theorem Core.fly_regs (k : Core) (l : Nat) (d : VDest) (fl : Flags) (i : Issue) : (k.fly l d fl i).regs = k.regs := rfl
@[simp] theorem Core.fly_ec (k : Core) (l : Nat) (d : VDest) (fl : Flags) (i : Issue) : (k.fly l d fl i).ec = k.ec := rfl
@[simp] theorem Core.fly_ea (k : Core) (l : Nat) (d : VDest) (fl : Flags) (i : Issue) : (k.fly l d fl i).ea = k.ea := rfl
@[simp] theorem Core.fly_ev (k : Core) (l : Nat) (d : VDest) (fl : Flags) (i : Issue) : (k.fly l d fl i).ev = k.ev := rfl
@[simp] theorem Core.fly_em (k : Core) (l : Nat) (d : VDest) (fl : Flags) (i : Issue) : (k.fly l d fl i).em = k.em := rfl
@[simp] theorem Core.fly_tok (k : Core) (l : Nat) (d : VDest) (fl : Flags) (i : Issue) : (k.fly l d fl i).tok = k.tok := rfl
@[simp] theorem Core.fly_vals (k : Core) (l : Nat) (d : VDest) (fl : Flags) (i : Issue) : (k.fly l d fl i).vals = k.vals := rfl
@[simp] theorem Core.fly_csr (k : Core) (l : Nat) (d : VDest) (fl : Flags) (i : Issue) : (k.fly l d fl i).csr = k.csr := rfl
@[simp] theorem Core.fly_tiles (k : Core) (l : Nat) (d : VDest) (fl : Flags) (i : Issue) : (k.fly l d fl i).tiles = k.tiles := rfl
@[simp] theorem Core.fly_cist (k : Core) (l : Nat) (d : VDest) (fl : Flags) (i : Issue) : (k.fly l d fl i).cist = k.cist := rfl
@[simp] theorem Core.fly_streams (k : Core) (l : Nat) (d : VDest) (fl : Flags) (i : Issue) : (k.fly l d fl i).streams = k.streams := rfl
@[simp] theorem Core.fly_lastServed (k : Core) (l : Nat) (d : VDest) (fl : Flags) (i : Issue) : (k.fly l d fl i).lastServed = k.lastServed := rfl
@[simp] theorem Core.fly_mx (k : Core) (l : Nat) (d : VDest) (fl : Flags) (i : Issue) : (k.fly l d fl i).mx = k.mx := rfl
@[simp] theorem Core.fly_samp (k : Core) (l : Nat) (d : VDest) (fl : Flags) (i : Issue) : (k.fly l d fl i).samp = k.samp := rfl
@[simp] theorem Core.fly_ref (k : Core) (l : Nat) (d : VDest) (fl : Flags) (i : Issue) : (k.fly l d fl i).ref = k.ref := rfl
@[simp] theorem Core.fly_handler (k : Core) (l : Nat) (d : VDest) (fl : Flags) (i : Issue) : (k.fly l d fl i).handler = k.handler := rfl
@[simp] theorem Core.fly_cell (k : Core) (l : Nat) (d : VDest) (fl : Flags) (i : Issue) : (k.fly l d fl i).cell = k.cell := rfl
@[simp] theorem Core.fly_kern (k : Core) (l : Nat) (d : VDest) (fl : Flags) (i : Issue) : (k.fly l d fl i).kern = k.kern := rfl
@[simp] theorem Core.fly_halted (k : Core) (l : Nat) (d : VDest) (fl : Flags) (i : Issue) : (k.fly l d fl i).halted = k.halted := rfl
@[simp] theorem Core.fly_istore (k : Core) (l : Nat) (d : VDest) (fl : Flags) (i : Issue) : (k.fly l d fl i).istore = k.istore := rfl
@[simp] theorem Core.fly_textId (k : Core) (l : Nat) (d : VDest) (fl : Flags) (i : Issue) : (k.fly l d fl i).textId = k.textId := rfl
@[simp] theorem Core.fly_textCtx (k : Core) (l : Nat) (d : VDest) (fl : Flags) (i : Issue) : (k.fly l d fl i).textCtx = k.textCtx := rfl
@[simp] theorem Core.fly_textOk (k : Core) (l : Nat) (d : VDest) (fl : Flags) (i : Issue) : (k.fly l d fl i).textOk = k.textOk := rfl
@[simp] theorem Core.fly_textLines (k : Core) (l : Nat) (d : VDest) (fl : Flags) (i : Issue) : (k.fly l d fl i).textLines = k.textLines := rfl
@[simp] theorem Core.fly_lastCtx (k : Core) (l : Nat) (d : VDest) (fl : Flags) (i : Issue) : (k.fly l d fl i).lastCtx = k.lastCtx := rfl
@[simp] theorem Core.fly_well (k : Core) (l : Nat) (d : VDest) (fl : Flags) (i : Issue) : (k.fly l d fl i).well = k.well := rfl
@[simp] theorem Core.fly_urs (k : Core) (l : Nat) (d : VDest) (fl : Flags) (i : Issue) : (k.fly l d fl i).urs = k.urs := rfl
@[simp] theorem Core.fly_waiters (k : Core) (l : Nat) (d : VDest) (fl : Flags) (i : Issue) : (k.fly l d fl i).waiters = k.waiters := rfl
@[simp] theorem Core.fly_stall (k : Core) (l : Nat) (d : VDest) (fl : Flags) (i : Issue) : (k.fly l d fl i).stall = k.stall := rfl
@[simp] theorem Core.fly_cycle (k : Core) (l : Nat) (d : VDest) (fl : Flags) (i : Issue) : (k.fly l d fl i).cycle = k.cycle := rfl
@[simp] theorem Core.fly_heldOvf (k : Core) (l : Nat) (d : VDest) (fl : Flags) (i : Issue) : (k.fly l d fl i).heldOvf = k.heldOvf := rfl
@[simp] theorem Core.fly_heldUnb (k : Core) (l : Nat) (d : VDest) (fl : Flags) (i : Issue) : (k.fly l d fl i).heldUnb = k.heldUnb := rfl
@[simp] theorem Core.fly_lateV (k : Core) (l : Nat) (d : VDest) (fl : Flags) (i : Issue) : (k.fly l d fl i).lateV = k.lateV := rfl
@[simp] theorem Core.fly_lateM (k : Core) (l : Nat) (d : VDest) (fl : Flags) (i : Issue) : (k.fly l d fl i).lateM = k.lateM := rfl
@[simp] theorem Core.fly_nextCell (k : Core) (l : Nat) (d : VDest) (fl : Flags) (i : Issue) : (k.fly l d fl i).nextCell = k.nextCell := rfl

@[simp] theorem Core.semWrite_regs (k : Core) (id : Nat) (off : Off) (n : Nat) : (k.semWrite id off n).regs = k.regs := rfl
@[simp] theorem Core.semWrite_ec (k : Core) (id : Nat) (off : Off) (n : Nat) : (k.semWrite id off n).ec = k.ec := rfl
@[simp] theorem Core.semWrite_ea (k : Core) (id : Nat) (off : Off) (n : Nat) : (k.semWrite id off n).ea = k.ea := rfl
@[simp] theorem Core.semWrite_ev (k : Core) (id : Nat) (off : Off) (n : Nat) : (k.semWrite id off n).ev = k.ev := rfl
@[simp] theorem Core.semWrite_em (k : Core) (id : Nat) (off : Off) (n : Nat) : (k.semWrite id off n).em = k.em := rfl
@[simp] theorem Core.semWrite_tok (k : Core) (id : Nat) (off : Off) (n : Nat) : (k.semWrite id off n).tok = k.tok := rfl
@[simp] theorem Core.semWrite_vals (k : Core) (id : Nat) (off : Off) (n : Nat) : (k.semWrite id off n).vals = k.vals := rfl
@[simp] theorem Core.semWrite_csr (k : Core) (id : Nat) (off : Off) (n : Nat) : (k.semWrite id off n).csr = k.csr := rfl
@[simp] theorem Core.semWrite_tiles (k : Core) (id : Nat) (off : Off) (n : Nat) : (k.semWrite id off n).tiles = k.tiles := rfl
@[simp] theorem Core.semWrite_cist (k : Core) (id : Nat) (off : Off) (n : Nat) : (k.semWrite id off n).cist = k.cist := rfl
@[simp] theorem Core.semWrite_streams (k : Core) (id : Nat) (off : Off) (n : Nat) : (k.semWrite id off n).streams = k.streams := rfl
@[simp] theorem Core.semWrite_lastServed (k : Core) (id : Nat) (off : Off) (n : Nat) : (k.semWrite id off n).lastServed = k.lastServed := rfl
@[simp] theorem Core.semWrite_vp (k : Core) (id : Nat) (off : Off) (n : Nat) : (k.semWrite id off n).vp = k.vp := rfl
@[simp] theorem Core.semWrite_mx (k : Core) (id : Nat) (off : Off) (n : Nat) : (k.semWrite id off n).mx = k.mx := rfl
@[simp] theorem Core.semWrite_samp (k : Core) (id : Nat) (off : Off) (n : Nat) : (k.semWrite id off n).samp = k.samp := rfl
@[simp] theorem Core.semWrite_ref (k : Core) (id : Nat) (off : Off) (n : Nat) : (k.semWrite id off n).ref = k.ref := rfl
@[simp] theorem Core.semWrite_handler (k : Core) (id : Nat) (off : Off) (n : Nat) : (k.semWrite id off n).handler = k.handler := rfl
@[simp] theorem Core.semWrite_cell (k : Core) (id : Nat) (off : Off) (n : Nat) : (k.semWrite id off n).cell = k.cell := rfl
@[simp] theorem Core.semWrite_kern (k : Core) (id : Nat) (off : Off) (n : Nat) : (k.semWrite id off n).kern = k.kern := rfl
@[simp] theorem Core.semWrite_halted (k : Core) (id : Nat) (off : Off) (n : Nat) : (k.semWrite id off n).halted = k.halted := rfl
@[simp] theorem Core.semWrite_istore (k : Core) (id : Nat) (off : Off) (n : Nat) : (k.semWrite id off n).istore = k.istore := rfl
@[simp] theorem Core.semWrite_textId (k : Core) (id : Nat) (off : Off) (n : Nat) : (k.semWrite id off n).textId = k.textId := rfl
@[simp] theorem Core.semWrite_textCtx (k : Core) (id : Nat) (off : Off) (n : Nat) : (k.semWrite id off n).textCtx = k.textCtx := rfl
@[simp] theorem Core.semWrite_textOk (k : Core) (id : Nat) (off : Off) (n : Nat) : (k.semWrite id off n).textOk = k.textOk := rfl
@[simp] theorem Core.semWrite_textLines (k : Core) (id : Nat) (off : Off) (n : Nat) : (k.semWrite id off n).textLines = k.textLines := rfl
@[simp] theorem Core.semWrite_lastCtx (k : Core) (id : Nat) (off : Off) (n : Nat) : (k.semWrite id off n).lastCtx = k.lastCtx := rfl
@[simp] theorem Core.semWrite_urs (k : Core) (id : Nat) (off : Off) (n : Nat) : (k.semWrite id off n).urs = k.urs := rfl
@[simp] theorem Core.semWrite_waiters (k : Core) (id : Nat) (off : Off) (n : Nat) : (k.semWrite id off n).waiters = k.waiters := rfl
@[simp] theorem Core.semWrite_stall (k : Core) (id : Nat) (off : Off) (n : Nat) : (k.semWrite id off n).stall = k.stall := rfl
@[simp] theorem Core.semWrite_cycle (k : Core) (id : Nat) (off : Off) (n : Nat) : (k.semWrite id off n).cycle = k.cycle := rfl
@[simp] theorem Core.semWrite_heldOvf (k : Core) (id : Nat) (off : Off) (n : Nat) : (k.semWrite id off n).heldOvf = k.heldOvf := rfl
@[simp] theorem Core.semWrite_heldUnb (k : Core) (id : Nat) (off : Off) (n : Nat) : (k.semWrite id off n).heldUnb = k.heldUnb := rfl
@[simp] theorem Core.semWrite_lateV (k : Core) (id : Nat) (off : Off) (n : Nat) : (k.semWrite id off n).lateV = k.lateV := rfl
@[simp] theorem Core.semWrite_lateM (k : Core) (id : Nat) (off : Off) (n : Nat) : (k.semWrite id off n).lateM = k.lateM := rfl
@[simp] theorem Core.semWrite_nextCell (k : Core) (id : Nat) (off : Off) (n : Nat) : (k.semWrite id off n).nextCell = k.nextCell := rfl

@[simp] theorem Core.wellWrite_regs (k : Core) (p id a : Nat) (bs : List Byte) : (k.wellWrite p id a bs).regs = k.regs := rfl
@[simp] theorem Core.wellWrite_ec (k : Core) (p id a : Nat) (bs : List Byte) : (k.wellWrite p id a bs).ec = k.ec := rfl
@[simp] theorem Core.wellWrite_ea (k : Core) (p id a : Nat) (bs : List Byte) : (k.wellWrite p id a bs).ea = k.ea := rfl
@[simp] theorem Core.wellWrite_ev (k : Core) (p id a : Nat) (bs : List Byte) : (k.wellWrite p id a bs).ev = k.ev := rfl
@[simp] theorem Core.wellWrite_em (k : Core) (p id a : Nat) (bs : List Byte) : (k.wellWrite p id a bs).em = k.em := rfl
@[simp] theorem Core.wellWrite_tok (k : Core) (p id a : Nat) (bs : List Byte) : (k.wellWrite p id a bs).tok = k.tok := rfl
@[simp] theorem Core.wellWrite_vals (k : Core) (p id a : Nat) (bs : List Byte) : (k.wellWrite p id a bs).vals = k.vals := rfl
@[simp] theorem Core.wellWrite_csr (k : Core) (p id a : Nat) (bs : List Byte) : (k.wellWrite p id a bs).csr = k.csr := rfl
@[simp] theorem Core.wellWrite_tiles (k : Core) (p id a : Nat) (bs : List Byte) : (k.wellWrite p id a bs).tiles = k.tiles := rfl
@[simp] theorem Core.wellWrite_cist (k : Core) (p id a : Nat) (bs : List Byte) : (k.wellWrite p id a bs).cist = k.cist := rfl
@[simp] theorem Core.wellWrite_streams (k : Core) (p id a : Nat) (bs : List Byte) : (k.wellWrite p id a bs).streams = k.streams := rfl
@[simp] theorem Core.wellWrite_lastServed (k : Core) (p id a : Nat) (bs : List Byte) : (k.wellWrite p id a bs).lastServed = k.lastServed := rfl
@[simp] theorem Core.wellWrite_vp (k : Core) (p id a : Nat) (bs : List Byte) : (k.wellWrite p id a bs).vp = k.vp := rfl
@[simp] theorem Core.wellWrite_mx (k : Core) (p id a : Nat) (bs : List Byte) : (k.wellWrite p id a bs).mx = k.mx := rfl
@[simp] theorem Core.wellWrite_samp (k : Core) (p id a : Nat) (bs : List Byte) : (k.wellWrite p id a bs).samp = k.samp := rfl
@[simp] theorem Core.wellWrite_ref (k : Core) (p id a : Nat) (bs : List Byte) : (k.wellWrite p id a bs).ref = k.ref := rfl
@[simp] theorem Core.wellWrite_handler (k : Core) (p id a : Nat) (bs : List Byte) : (k.wellWrite p id a bs).handler = k.handler := rfl
@[simp] theorem Core.wellWrite_cell (k : Core) (p id a : Nat) (bs : List Byte) : (k.wellWrite p id a bs).cell = k.cell := rfl
@[simp] theorem Core.wellWrite_kern (k : Core) (p id a : Nat) (bs : List Byte) : (k.wellWrite p id a bs).kern = k.kern := rfl
@[simp] theorem Core.wellWrite_halted (k : Core) (p id a : Nat) (bs : List Byte) : (k.wellWrite p id a bs).halted = k.halted := rfl
@[simp] theorem Core.wellWrite_istore (k : Core) (p id a : Nat) (bs : List Byte) : (k.wellWrite p id a bs).istore = k.istore := rfl
@[simp] theorem Core.wellWrite_textId (k : Core) (p id a : Nat) (bs : List Byte) : (k.wellWrite p id a bs).textId = k.textId := rfl
@[simp] theorem Core.wellWrite_textCtx (k : Core) (p id a : Nat) (bs : List Byte) : (k.wellWrite p id a bs).textCtx = k.textCtx := rfl
@[simp] theorem Core.wellWrite_textOk (k : Core) (p id a : Nat) (bs : List Byte) : (k.wellWrite p id a bs).textOk = k.textOk := rfl
@[simp] theorem Core.wellWrite_textLines (k : Core) (p id a : Nat) (bs : List Byte) : (k.wellWrite p id a bs).textLines = k.textLines := rfl
@[simp] theorem Core.wellWrite_lastCtx (k : Core) (p id a : Nat) (bs : List Byte) : (k.wellWrite p id a bs).lastCtx = k.lastCtx := rfl
@[simp] theorem Core.wellWrite_urs (k : Core) (p id a : Nat) (bs : List Byte) : (k.wellWrite p id a bs).urs = k.urs := rfl
@[simp] theorem Core.wellWrite_waiters (k : Core) (p id a : Nat) (bs : List Byte) : (k.wellWrite p id a bs).waiters = k.waiters := rfl
@[simp] theorem Core.wellWrite_stall (k : Core) (p id a : Nat) (bs : List Byte) : (k.wellWrite p id a bs).stall = k.stall := rfl
@[simp] theorem Core.wellWrite_cycle (k : Core) (p id a : Nat) (bs : List Byte) : (k.wellWrite p id a bs).cycle = k.cycle := rfl
@[simp] theorem Core.wellWrite_heldOvf (k : Core) (p id a : Nat) (bs : List Byte) : (k.wellWrite p id a bs).heldOvf = k.heldOvf := rfl
@[simp] theorem Core.wellWrite_heldUnb (k : Core) (p id a : Nat) (bs : List Byte) : (k.wellWrite p id a bs).heldUnb = k.heldUnb := rfl
@[simp] theorem Core.wellWrite_lateV (k : Core) (p id a : Nat) (bs : List Byte) : (k.wellWrite p id a bs).lateV = k.lateV := rfl
@[simp] theorem Core.wellWrite_lateM (k : Core) (p id a : Nat) (bs : List Byte) : (k.wellWrite p id a bs).lateM = k.lateM := rfl
@[simp] theorem Core.wellWrite_nextCell (k : Core) (p id a : Nat) (bs : List Byte) : (k.wellWrite p id a bs).nextCell = k.nextCell := rfl

@[simp] theorem Core.ursWrite_regs (k : Core) (p id a : Nat) (bs : List Byte) : (k.ursWrite p id a bs).regs = k.regs := rfl
@[simp] theorem Core.ursWrite_ec (k : Core) (p id a : Nat) (bs : List Byte) : (k.ursWrite p id a bs).ec = k.ec := rfl
@[simp] theorem Core.ursWrite_ea (k : Core) (p id a : Nat) (bs : List Byte) : (k.ursWrite p id a bs).ea = k.ea := rfl
@[simp] theorem Core.ursWrite_ev (k : Core) (p id a : Nat) (bs : List Byte) : (k.ursWrite p id a bs).ev = k.ev := rfl
@[simp] theorem Core.ursWrite_em (k : Core) (p id a : Nat) (bs : List Byte) : (k.ursWrite p id a bs).em = k.em := rfl
@[simp] theorem Core.ursWrite_tok (k : Core) (p id a : Nat) (bs : List Byte) : (k.ursWrite p id a bs).tok = k.tok := rfl
@[simp] theorem Core.ursWrite_vals (k : Core) (p id a : Nat) (bs : List Byte) : (k.ursWrite p id a bs).vals = k.vals := rfl
@[simp] theorem Core.ursWrite_csr (k : Core) (p id a : Nat) (bs : List Byte) : (k.ursWrite p id a bs).csr = k.csr := rfl
@[simp] theorem Core.ursWrite_tiles (k : Core) (p id a : Nat) (bs : List Byte) : (k.ursWrite p id a bs).tiles = k.tiles := rfl
@[simp] theorem Core.ursWrite_cist (k : Core) (p id a : Nat) (bs : List Byte) : (k.ursWrite p id a bs).cist = k.cist := rfl
@[simp] theorem Core.ursWrite_streams (k : Core) (p id a : Nat) (bs : List Byte) : (k.ursWrite p id a bs).streams = k.streams := rfl
@[simp] theorem Core.ursWrite_lastServed (k : Core) (p id a : Nat) (bs : List Byte) : (k.ursWrite p id a bs).lastServed = k.lastServed := rfl
@[simp] theorem Core.ursWrite_vp (k : Core) (p id a : Nat) (bs : List Byte) : (k.ursWrite p id a bs).vp = k.vp := rfl
@[simp] theorem Core.ursWrite_mx (k : Core) (p id a : Nat) (bs : List Byte) : (k.ursWrite p id a bs).mx = k.mx := rfl
@[simp] theorem Core.ursWrite_samp (k : Core) (p id a : Nat) (bs : List Byte) : (k.ursWrite p id a bs).samp = k.samp := rfl
@[simp] theorem Core.ursWrite_ref (k : Core) (p id a : Nat) (bs : List Byte) : (k.ursWrite p id a bs).ref = k.ref := rfl
@[simp] theorem Core.ursWrite_handler (k : Core) (p id a : Nat) (bs : List Byte) : (k.ursWrite p id a bs).handler = k.handler := rfl
@[simp] theorem Core.ursWrite_cell (k : Core) (p id a : Nat) (bs : List Byte) : (k.ursWrite p id a bs).cell = k.cell := rfl
@[simp] theorem Core.ursWrite_kern (k : Core) (p id a : Nat) (bs : List Byte) : (k.ursWrite p id a bs).kern = k.kern := rfl
@[simp] theorem Core.ursWrite_halted (k : Core) (p id a : Nat) (bs : List Byte) : (k.ursWrite p id a bs).halted = k.halted := rfl
@[simp] theorem Core.ursWrite_istore (k : Core) (p id a : Nat) (bs : List Byte) : (k.ursWrite p id a bs).istore = k.istore := rfl
@[simp] theorem Core.ursWrite_textId (k : Core) (p id a : Nat) (bs : List Byte) : (k.ursWrite p id a bs).textId = k.textId := rfl
@[simp] theorem Core.ursWrite_textCtx (k : Core) (p id a : Nat) (bs : List Byte) : (k.ursWrite p id a bs).textCtx = k.textCtx := rfl
@[simp] theorem Core.ursWrite_textOk (k : Core) (p id a : Nat) (bs : List Byte) : (k.ursWrite p id a bs).textOk = k.textOk := rfl
@[simp] theorem Core.ursWrite_textLines (k : Core) (p id a : Nat) (bs : List Byte) : (k.ursWrite p id a bs).textLines = k.textLines := rfl
@[simp] theorem Core.ursWrite_lastCtx (k : Core) (p id a : Nat) (bs : List Byte) : (k.ursWrite p id a bs).lastCtx = k.lastCtx := rfl
@[simp] theorem Core.ursWrite_well (k : Core) (p id a : Nat) (bs : List Byte) : (k.ursWrite p id a bs).well = k.well := rfl
@[simp] theorem Core.ursWrite_waiters (k : Core) (p id a : Nat) (bs : List Byte) : (k.ursWrite p id a bs).waiters = k.waiters := rfl
@[simp] theorem Core.ursWrite_stall (k : Core) (p id a : Nat) (bs : List Byte) : (k.ursWrite p id a bs).stall = k.stall := rfl
@[simp] theorem Core.ursWrite_cycle (k : Core) (p id a : Nat) (bs : List Byte) : (k.ursWrite p id a bs).cycle = k.cycle := rfl
@[simp] theorem Core.ursWrite_heldOvf (k : Core) (p id a : Nat) (bs : List Byte) : (k.ursWrite p id a bs).heldOvf = k.heldOvf := rfl
@[simp] theorem Core.ursWrite_heldUnb (k : Core) (p id a : Nat) (bs : List Byte) : (k.ursWrite p id a bs).heldUnb = k.heldUnb := rfl
@[simp] theorem Core.ursWrite_lateV (k : Core) (p id a : Nat) (bs : List Byte) : (k.ursWrite p id a bs).lateV = k.lateV := rfl
@[simp] theorem Core.ursWrite_lateM (k : Core) (p id a : Nat) (bs : List Byte) : (k.ursWrite p id a bs).lateM = k.lateM := rfl
@[simp] theorem Core.ursWrite_nextCell (k : Core) (p id a : Nat) (bs : List Byte) : (k.ursWrite p id a bs).nextCell = k.nextCell := rfl

@[simp] theorem Core.reclaim_regs (k : Core) : (k.reclaim).regs = k.regs := rfl
@[simp] theorem Core.reclaim_ec (k : Core) : (k.reclaim).ec = k.ec := rfl
@[simp] theorem Core.reclaim_ea (k : Core) : (k.reclaim).ea = k.ea := rfl
@[simp] theorem Core.reclaim_ev (k : Core) : (k.reclaim).ev = k.ev := rfl
@[simp] theorem Core.reclaim_em (k : Core) : (k.reclaim).em = k.em := rfl
@[simp] theorem Core.reclaim_tok (k : Core) : (k.reclaim).tok = k.tok := rfl
@[simp] theorem Core.reclaim_vals (k : Core) : (k.reclaim).vals = k.vals := rfl
@[simp] theorem Core.reclaim_csr (k : Core) : (k.reclaim).csr = k.csr := rfl
@[simp] theorem Core.reclaim_tiles (k : Core) : (k.reclaim).tiles = k.tiles := rfl
@[simp] theorem Core.reclaim_streams (k : Core) : (k.reclaim).streams = k.streams := rfl
@[simp] theorem Core.reclaim_lastServed (k : Core) : (k.reclaim).lastServed = k.lastServed := rfl
@[simp] theorem Core.reclaim_vp (k : Core) : (k.reclaim).vp = k.vp := rfl
@[simp] theorem Core.reclaim_mx (k : Core) : (k.reclaim).mx = k.mx := rfl
@[simp] theorem Core.reclaim_samp (k : Core) : (k.reclaim).samp = k.samp := rfl
@[simp] theorem Core.reclaim_ref (k : Core) : (k.reclaim).ref = k.ref := rfl
@[simp] theorem Core.reclaim_handler (k : Core) : (k.reclaim).handler = k.handler := rfl
@[simp] theorem Core.reclaim_cell (k : Core) : (k.reclaim).cell = k.cell := rfl
@[simp] theorem Core.reclaim_kern (k : Core) : (k.reclaim).kern = k.kern := rfl
@[simp] theorem Core.reclaim_halted (k : Core) : (k.reclaim).halted = k.halted := rfl
@[simp] theorem Core.reclaim_istore (k : Core) : (k.reclaim).istore = k.istore := rfl
@[simp] theorem Core.reclaim_textId (k : Core) : (k.reclaim).textId = k.textId := rfl
@[simp] theorem Core.reclaim_textCtx (k : Core) : (k.reclaim).textCtx = k.textCtx := rfl
@[simp] theorem Core.reclaim_textOk (k : Core) : (k.reclaim).textOk = k.textOk := rfl
@[simp] theorem Core.reclaim_textLines (k : Core) : (k.reclaim).textLines = k.textLines := rfl
@[simp] theorem Core.reclaim_lastCtx (k : Core) : (k.reclaim).lastCtx = k.lastCtx := rfl
@[simp] theorem Core.reclaim_well (k : Core) : (k.reclaim).well = k.well := rfl
@[simp] theorem Core.reclaim_urs (k : Core) : (k.reclaim).urs = k.urs := rfl
@[simp] theorem Core.reclaim_waiters (k : Core) : (k.reclaim).waiters = k.waiters := rfl
@[simp] theorem Core.reclaim_stall (k : Core) : (k.reclaim).stall = k.stall := rfl
@[simp] theorem Core.reclaim_cycle (k : Core) : (k.reclaim).cycle = k.cycle := rfl
@[simp] theorem Core.reclaim_heldOvf (k : Core) : (k.reclaim).heldOvf = k.heldOvf := rfl
@[simp] theorem Core.reclaim_heldUnb (k : Core) : (k.reclaim).heldUnb = k.heldUnb := rfl
@[simp] theorem Core.reclaim_lateV (k : Core) : (k.reclaim).lateV = k.lateV := rfl
@[simp] theorem Core.reclaim_lateM (k : Core) : (k.reclaim).lateM = k.lateM := rfl
@[simp] theorem Core.reclaim_nextCell (k : Core) : (k.reclaim).nextCell = k.nextCell := rfl

@[simp] theorem Core.setBinding_regs (k : Core) (c : Nat) (h : Fin 64) (b : Option (Fin 64)) : (k.setBinding c h b).regs = k.regs := rfl
@[simp] theorem Core.setBinding_ec (k : Core) (c : Nat) (h : Fin 64) (b : Option (Fin 64)) : (k.setBinding c h b).ec = k.ec := rfl
@[simp] theorem Core.setBinding_ea (k : Core) (c : Nat) (h : Fin 64) (b : Option (Fin 64)) : (k.setBinding c h b).ea = k.ea := rfl
@[simp] theorem Core.setBinding_ev (k : Core) (c : Nat) (h : Fin 64) (b : Option (Fin 64)) : (k.setBinding c h b).ev = k.ev := rfl
@[simp] theorem Core.setBinding_em (k : Core) (c : Nat) (h : Fin 64) (b : Option (Fin 64)) : (k.setBinding c h b).em = k.em := rfl
@[simp] theorem Core.setBinding_tok (k : Core) (c : Nat) (h : Fin 64) (b : Option (Fin 64)) : (k.setBinding c h b).tok = k.tok := rfl
@[simp] theorem Core.setBinding_vals (k : Core) (c : Nat) (h : Fin 64) (b : Option (Fin 64)) : (k.setBinding c h b).vals = k.vals := rfl
@[simp] theorem Core.setBinding_csr (k : Core) (c : Nat) (h : Fin 64) (b : Option (Fin 64)) : (k.setBinding c h b).csr = k.csr := rfl
@[simp] theorem Core.setBinding_tiles (k : Core) (c : Nat) (h : Fin 64) (b : Option (Fin 64)) : (k.setBinding c h b).tiles = k.tiles := rfl
@[simp] theorem Core.setBinding_streams (k : Core) (c : Nat) (h : Fin 64) (b : Option (Fin 64)) : (k.setBinding c h b).streams = k.streams := rfl
@[simp] theorem Core.setBinding_lastServed (k : Core) (c : Nat) (h : Fin 64) (b : Option (Fin 64)) : (k.setBinding c h b).lastServed = k.lastServed := rfl
@[simp] theorem Core.setBinding_vp (k : Core) (c : Nat) (h : Fin 64) (b : Option (Fin 64)) : (k.setBinding c h b).vp = k.vp := rfl
@[simp] theorem Core.setBinding_mx (k : Core) (c : Nat) (h : Fin 64) (b : Option (Fin 64)) : (k.setBinding c h b).mx = k.mx := rfl
@[simp] theorem Core.setBinding_samp (k : Core) (c : Nat) (h : Fin 64) (b : Option (Fin 64)) : (k.setBinding c h b).samp = k.samp := rfl
@[simp] theorem Core.setBinding_ref (k : Core) (c : Nat) (h : Fin 64) (b : Option (Fin 64)) : (k.setBinding c h b).ref = k.ref := rfl
@[simp] theorem Core.setBinding_handler (k : Core) (c : Nat) (h : Fin 64) (b : Option (Fin 64)) : (k.setBinding c h b).handler = k.handler := rfl
@[simp] theorem Core.setBinding_cell (k : Core) (c : Nat) (h : Fin 64) (b : Option (Fin 64)) : (k.setBinding c h b).cell = k.cell := rfl
@[simp] theorem Core.setBinding_kern (k : Core) (c : Nat) (h : Fin 64) (b : Option (Fin 64)) : (k.setBinding c h b).kern = k.kern := rfl
@[simp] theorem Core.setBinding_halted (k : Core) (c : Nat) (h : Fin 64) (b : Option (Fin 64)) : (k.setBinding c h b).halted = k.halted := rfl
@[simp] theorem Core.setBinding_istore (k : Core) (c : Nat) (h : Fin 64) (b : Option (Fin 64)) : (k.setBinding c h b).istore = k.istore := rfl
@[simp] theorem Core.setBinding_textId (k : Core) (c : Nat) (h : Fin 64) (b : Option (Fin 64)) : (k.setBinding c h b).textId = k.textId := rfl
@[simp] theorem Core.setBinding_textCtx (k : Core) (c : Nat) (h : Fin 64) (b : Option (Fin 64)) : (k.setBinding c h b).textCtx = k.textCtx := rfl
@[simp] theorem Core.setBinding_textOk (k : Core) (c : Nat) (h : Fin 64) (b : Option (Fin 64)) : (k.setBinding c h b).textOk = k.textOk := rfl
@[simp] theorem Core.setBinding_textLines (k : Core) (c : Nat) (h : Fin 64) (b : Option (Fin 64)) : (k.setBinding c h b).textLines = k.textLines := rfl
@[simp] theorem Core.setBinding_lastCtx (k : Core) (c : Nat) (h : Fin 64) (b : Option (Fin 64)) : (k.setBinding c h b).lastCtx = k.lastCtx := rfl
@[simp] theorem Core.setBinding_well (k : Core) (c : Nat) (h : Fin 64) (b : Option (Fin 64)) : (k.setBinding c h b).well = k.well := rfl
@[simp] theorem Core.setBinding_urs (k : Core) (c : Nat) (h : Fin 64) (b : Option (Fin 64)) : (k.setBinding c h b).urs = k.urs := rfl
@[simp] theorem Core.setBinding_waiters (k : Core) (c : Nat) (h : Fin 64) (b : Option (Fin 64)) : (k.setBinding c h b).waiters = k.waiters := rfl
@[simp] theorem Core.setBinding_stall (k : Core) (c : Nat) (h : Fin 64) (b : Option (Fin 64)) : (k.setBinding c h b).stall = k.stall := rfl
@[simp] theorem Core.setBinding_cycle (k : Core) (c : Nat) (h : Fin 64) (b : Option (Fin 64)) : (k.setBinding c h b).cycle = k.cycle := rfl
@[simp] theorem Core.setBinding_heldOvf (k : Core) (c : Nat) (h : Fin 64) (b : Option (Fin 64)) : (k.setBinding c h b).heldOvf = k.heldOvf := rfl
@[simp] theorem Core.setBinding_heldUnb (k : Core) (c : Nat) (h : Fin 64) (b : Option (Fin 64)) : (k.setBinding c h b).heldUnb = k.heldUnb := rfl
@[simp] theorem Core.setBinding_lateV (k : Core) (c : Nat) (h : Fin 64) (b : Option (Fin 64)) : (k.setBinding c h b).lateV = k.lateV := rfl
@[simp] theorem Core.setBinding_lateM (k : Core) (c : Nat) (h : Fin 64) (b : Option (Fin 64)) : (k.setBinding c h b).lateM = k.lateM := rfl
@[simp] theorem Core.setBinding_nextCell (k : Core) (c : Nat) (h : Fin 64) (b : Option (Fin 64)) : (k.setBinding c h b).nextCell = k.nextCell := rfl

@[simp] theorem Core.unbind_regs (k : Core) (c : Nat) (h : Fin 64) : (k.unbind c h).regs = k.regs := rfl
@[simp] theorem Core.unbind_ec (k : Core) (c : Nat) (h : Fin 64) : (k.unbind c h).ec = k.ec := rfl
@[simp] theorem Core.unbind_ea (k : Core) (c : Nat) (h : Fin 64) : (k.unbind c h).ea = k.ea := rfl
@[simp] theorem Core.unbind_ev (k : Core) (c : Nat) (h : Fin 64) : (k.unbind c h).ev = k.ev := rfl
@[simp] theorem Core.unbind_em (k : Core) (c : Nat) (h : Fin 64) : (k.unbind c h).em = k.em := rfl
@[simp] theorem Core.unbind_tok (k : Core) (c : Nat) (h : Fin 64) : (k.unbind c h).tok = k.tok := rfl
@[simp] theorem Core.unbind_vals (k : Core) (c : Nat) (h : Fin 64) : (k.unbind c h).vals = k.vals := rfl
@[simp] theorem Core.unbind_csr (k : Core) (c : Nat) (h : Fin 64) : (k.unbind c h).csr = k.csr := rfl
@[simp] theorem Core.unbind_tiles (k : Core) (c : Nat) (h : Fin 64) : (k.unbind c h).tiles = k.tiles := rfl
@[simp] theorem Core.unbind_streams (k : Core) (c : Nat) (h : Fin 64) : (k.unbind c h).streams = k.streams := rfl
@[simp] theorem Core.unbind_lastServed (k : Core) (c : Nat) (h : Fin 64) : (k.unbind c h).lastServed = k.lastServed := rfl
@[simp] theorem Core.unbind_vp (k : Core) (c : Nat) (h : Fin 64) : (k.unbind c h).vp = k.vp := rfl
@[simp] theorem Core.unbind_mx (k : Core) (c : Nat) (h : Fin 64) : (k.unbind c h).mx = k.mx := rfl
@[simp] theorem Core.unbind_samp (k : Core) (c : Nat) (h : Fin 64) : (k.unbind c h).samp = k.samp := rfl
@[simp] theorem Core.unbind_ref (k : Core) (c : Nat) (h : Fin 64) : (k.unbind c h).ref = k.ref := rfl
@[simp] theorem Core.unbind_handler (k : Core) (c : Nat) (h : Fin 64) : (k.unbind c h).handler = k.handler := rfl
@[simp] theorem Core.unbind_cell (k : Core) (c : Nat) (h : Fin 64) : (k.unbind c h).cell = k.cell := rfl
@[simp] theorem Core.unbind_kern (k : Core) (c : Nat) (h : Fin 64) : (k.unbind c h).kern = k.kern := rfl
@[simp] theorem Core.unbind_halted (k : Core) (c : Nat) (h : Fin 64) : (k.unbind c h).halted = k.halted := rfl
@[simp] theorem Core.unbind_istore (k : Core) (c : Nat) (h : Fin 64) : (k.unbind c h).istore = k.istore := rfl
@[simp] theorem Core.unbind_textId (k : Core) (c : Nat) (h : Fin 64) : (k.unbind c h).textId = k.textId := rfl
@[simp] theorem Core.unbind_textCtx (k : Core) (c : Nat) (h : Fin 64) : (k.unbind c h).textCtx = k.textCtx := rfl
@[simp] theorem Core.unbind_textOk (k : Core) (c : Nat) (h : Fin 64) : (k.unbind c h).textOk = k.textOk := rfl
@[simp] theorem Core.unbind_textLines (k : Core) (c : Nat) (h : Fin 64) : (k.unbind c h).textLines = k.textLines := rfl
@[simp] theorem Core.unbind_lastCtx (k : Core) (c : Nat) (h : Fin 64) : (k.unbind c h).lastCtx = k.lastCtx := rfl
@[simp] theorem Core.unbind_well (k : Core) (c : Nat) (h : Fin 64) : (k.unbind c h).well = k.well := rfl
@[simp] theorem Core.unbind_urs (k : Core) (c : Nat) (h : Fin 64) : (k.unbind c h).urs = k.urs := rfl
@[simp] theorem Core.unbind_waiters (k : Core) (c : Nat) (h : Fin 64) : (k.unbind c h).waiters = k.waiters := rfl
@[simp] theorem Core.unbind_stall (k : Core) (c : Nat) (h : Fin 64) : (k.unbind c h).stall = k.stall := rfl
@[simp] theorem Core.unbind_cycle (k : Core) (c : Nat) (h : Fin 64) : (k.unbind c h).cycle = k.cycle := rfl
@[simp] theorem Core.unbind_heldOvf (k : Core) (c : Nat) (h : Fin 64) : (k.unbind c h).heldOvf = k.heldOvf := rfl
@[simp] theorem Core.unbind_heldUnb (k : Core) (c : Nat) (h : Fin 64) : (k.unbind c h).heldUnb = k.heldUnb := rfl
@[simp] theorem Core.unbind_lateV (k : Core) (c : Nat) (h : Fin 64) : (k.unbind c h).lateV = k.lateV := rfl
@[simp] theorem Core.unbind_lateM (k : Core) (c : Nat) (h : Fin 64) : (k.unbind c h).lateM = k.lateM := rfl
@[simp] theorem Core.unbind_nextCell (k : Core) (c : Nat) (h : Fin 64) : (k.unbind c h).nextCell = k.nextCell := rfl

@[simp] theorem Core.bankWrite_regs (k : Core) (p id : Nat) (b : Fin 64) (o : Nat) (bs : List Byte) : (k.bankWrite p id b o bs).regs = k.regs := rfl
@[simp] theorem Core.bankWrite_ec (k : Core) (p id : Nat) (b : Fin 64) (o : Nat) (bs : List Byte) : (k.bankWrite p id b o bs).ec = k.ec := rfl
@[simp] theorem Core.bankWrite_ea (k : Core) (p id : Nat) (b : Fin 64) (o : Nat) (bs : List Byte) : (k.bankWrite p id b o bs).ea = k.ea := rfl
@[simp] theorem Core.bankWrite_ev (k : Core) (p id : Nat) (b : Fin 64) (o : Nat) (bs : List Byte) : (k.bankWrite p id b o bs).ev = k.ev := rfl
@[simp] theorem Core.bankWrite_em (k : Core) (p id : Nat) (b : Fin 64) (o : Nat) (bs : List Byte) : (k.bankWrite p id b o bs).em = k.em := rfl
@[simp] theorem Core.bankWrite_tok (k : Core) (p id : Nat) (b : Fin 64) (o : Nat) (bs : List Byte) : (k.bankWrite p id b o bs).tok = k.tok := rfl
@[simp] theorem Core.bankWrite_vals (k : Core) (p id : Nat) (b : Fin 64) (o : Nat) (bs : List Byte) : (k.bankWrite p id b o bs).vals = k.vals := rfl
@[simp] theorem Core.bankWrite_csr (k : Core) (p id : Nat) (b : Fin 64) (o : Nat) (bs : List Byte) : (k.bankWrite p id b o bs).csr = k.csr := rfl
@[simp] theorem Core.bankWrite_tiles (k : Core) (p id : Nat) (b : Fin 64) (o : Nat) (bs : List Byte) : (k.bankWrite p id b o bs).tiles = k.tiles := rfl
@[simp] theorem Core.bankWrite_streams (k : Core) (p id : Nat) (b : Fin 64) (o : Nat) (bs : List Byte) : (k.bankWrite p id b o bs).streams = k.streams := rfl
@[simp] theorem Core.bankWrite_lastServed (k : Core) (p id : Nat) (b : Fin 64) (o : Nat) (bs : List Byte) : (k.bankWrite p id b o bs).lastServed = k.lastServed := rfl
@[simp] theorem Core.bankWrite_vp (k : Core) (p id : Nat) (b : Fin 64) (o : Nat) (bs : List Byte) : (k.bankWrite p id b o bs).vp = k.vp := rfl
@[simp] theorem Core.bankWrite_mx (k : Core) (p id : Nat) (b : Fin 64) (o : Nat) (bs : List Byte) : (k.bankWrite p id b o bs).mx = k.mx := rfl
@[simp] theorem Core.bankWrite_samp (k : Core) (p id : Nat) (b : Fin 64) (o : Nat) (bs : List Byte) : (k.bankWrite p id b o bs).samp = k.samp := rfl
@[simp] theorem Core.bankWrite_ref (k : Core) (p id : Nat) (b : Fin 64) (o : Nat) (bs : List Byte) : (k.bankWrite p id b o bs).ref = k.ref := rfl
@[simp] theorem Core.bankWrite_handler (k : Core) (p id : Nat) (b : Fin 64) (o : Nat) (bs : List Byte) : (k.bankWrite p id b o bs).handler = k.handler := rfl
@[simp] theorem Core.bankWrite_cell (k : Core) (p id : Nat) (b : Fin 64) (o : Nat) (bs : List Byte) : (k.bankWrite p id b o bs).cell = k.cell := rfl
@[simp] theorem Core.bankWrite_kern (k : Core) (p id : Nat) (b : Fin 64) (o : Nat) (bs : List Byte) : (k.bankWrite p id b o bs).kern = k.kern := rfl
@[simp] theorem Core.bankWrite_halted (k : Core) (p id : Nat) (b : Fin 64) (o : Nat) (bs : List Byte) : (k.bankWrite p id b o bs).halted = k.halted := rfl
@[simp] theorem Core.bankWrite_istore (k : Core) (p id : Nat) (b : Fin 64) (o : Nat) (bs : List Byte) : (k.bankWrite p id b o bs).istore = k.istore := rfl
@[simp] theorem Core.bankWrite_textId (k : Core) (p id : Nat) (b : Fin 64) (o : Nat) (bs : List Byte) : (k.bankWrite p id b o bs).textId = k.textId := rfl
@[simp] theorem Core.bankWrite_textCtx (k : Core) (p id : Nat) (b : Fin 64) (o : Nat) (bs : List Byte) : (k.bankWrite p id b o bs).textCtx = k.textCtx := rfl
@[simp] theorem Core.bankWrite_textOk (k : Core) (p id : Nat) (b : Fin 64) (o : Nat) (bs : List Byte) : (k.bankWrite p id b o bs).textOk = k.textOk := rfl
@[simp] theorem Core.bankWrite_textLines (k : Core) (p id : Nat) (b : Fin 64) (o : Nat) (bs : List Byte) : (k.bankWrite p id b o bs).textLines = k.textLines := rfl
@[simp] theorem Core.bankWrite_lastCtx (k : Core) (p id : Nat) (b : Fin 64) (o : Nat) (bs : List Byte) : (k.bankWrite p id b o bs).lastCtx = k.lastCtx := rfl
@[simp] theorem Core.bankWrite_well (k : Core) (p id : Nat) (b : Fin 64) (o : Nat) (bs : List Byte) : (k.bankWrite p id b o bs).well = k.well := rfl
@[simp] theorem Core.bankWrite_urs (k : Core) (p id : Nat) (b : Fin 64) (o : Nat) (bs : List Byte) : (k.bankWrite p id b o bs).urs = k.urs := rfl
@[simp] theorem Core.bankWrite_waiters (k : Core) (p id : Nat) (b : Fin 64) (o : Nat) (bs : List Byte) : (k.bankWrite p id b o bs).waiters = k.waiters := rfl
@[simp] theorem Core.bankWrite_stall (k : Core) (p id : Nat) (b : Fin 64) (o : Nat) (bs : List Byte) : (k.bankWrite p id b o bs).stall = k.stall := rfl
@[simp] theorem Core.bankWrite_cycle (k : Core) (p id : Nat) (b : Fin 64) (o : Nat) (bs : List Byte) : (k.bankWrite p id b o bs).cycle = k.cycle := rfl
@[simp] theorem Core.bankWrite_heldOvf (k : Core) (p id : Nat) (b : Fin 64) (o : Nat) (bs : List Byte) : (k.bankWrite p id b o bs).heldOvf = k.heldOvf := rfl
@[simp] theorem Core.bankWrite_heldUnb (k : Core) (p id : Nat) (b : Fin 64) (o : Nat) (bs : List Byte) : (k.bankWrite p id b o bs).heldUnb = k.heldUnb := rfl
@[simp] theorem Core.bankWrite_lateV (k : Core) (p id : Nat) (b : Fin 64) (o : Nat) (bs : List Byte) : (k.bankWrite p id b o bs).lateV = k.lateV := rfl
@[simp] theorem Core.bankWrite_lateM (k : Core) (p id : Nat) (b : Fin 64) (o : Nat) (bs : List Byte) : (k.bankWrite p id b o bs).lateM = k.lateM := rfl
@[simp] theorem Core.bankWrite_nextCell (k : Core) (p id : Nat) (b : Fin 64) (o : Nat) (bs : List Byte) : (k.bankWrite p id b o bs).nextCell = k.nextCell := rfl

@[simp] theorem Core.halt_regs (k : Core) (h : HaltInfo) : (k.halt h).regs = k.regs := rfl
@[simp] theorem Core.halt_ec (k : Core) (h : HaltInfo) : (k.halt h).ec = k.ec := rfl
@[simp] theorem Core.halt_ea (k : Core) (h : HaltInfo) : (k.halt h).ea = k.ea := rfl
@[simp] theorem Core.halt_ev (k : Core) (h : HaltInfo) : (k.halt h).ev = k.ev := rfl
@[simp] theorem Core.halt_em (k : Core) (h : HaltInfo) : (k.halt h).em = k.em := rfl
@[simp] theorem Core.halt_tok (k : Core) (h : HaltInfo) : (k.halt h).tok = k.tok := rfl
@[simp] theorem Core.halt_vals (k : Core) (h : HaltInfo) : (k.halt h).vals = k.vals := rfl
@[simp] theorem Core.halt_csr (k : Core) (h : HaltInfo) : (k.halt h).csr = k.csr := rfl
@[simp] theorem Core.halt_tiles (k : Core) (h : HaltInfo) : (k.halt h).tiles = k.tiles := rfl
@[simp] theorem Core.halt_cist (k : Core) (h : HaltInfo) : (k.halt h).cist = k.cist := rfl
@[simp] theorem Core.halt_streams (k : Core) (h : HaltInfo) : (k.halt h).streams = k.streams := rfl
@[simp] theorem Core.halt_lastServed (k : Core) (h : HaltInfo) : (k.halt h).lastServed = k.lastServed := rfl
@[simp] theorem Core.halt_vp (k : Core) (h : HaltInfo) : (k.halt h).vp = k.vp := rfl
@[simp] theorem Core.halt_mx (k : Core) (h : HaltInfo) : (k.halt h).mx = k.mx := rfl
@[simp] theorem Core.halt_samp (k : Core) (h : HaltInfo) : (k.halt h).samp = k.samp := rfl
@[simp] theorem Core.halt_ref (k : Core) (h : HaltInfo) : (k.halt h).ref = k.ref := rfl
@[simp] theorem Core.halt_handler (k : Core) (h : HaltInfo) : (k.halt h).handler = k.handler := rfl
@[simp] theorem Core.halt_cell (k : Core) (h : HaltInfo) : (k.halt h).cell = k.cell := rfl
@[simp] theorem Core.halt_kern (k : Core) (h : HaltInfo) : (k.halt h).kern = k.kern := rfl
@[simp] theorem Core.halt_istore (k : Core) (h : HaltInfo) : (k.halt h).istore = k.istore := rfl
@[simp] theorem Core.halt_textId (k : Core) (h : HaltInfo) : (k.halt h).textId = k.textId := rfl
@[simp] theorem Core.halt_textCtx (k : Core) (h : HaltInfo) : (k.halt h).textCtx = k.textCtx := rfl
@[simp] theorem Core.halt_textOk (k : Core) (h : HaltInfo) : (k.halt h).textOk = k.textOk := rfl
@[simp] theorem Core.halt_textLines (k : Core) (h : HaltInfo) : (k.halt h).textLines = k.textLines := rfl
@[simp] theorem Core.halt_lastCtx (k : Core) (h : HaltInfo) : (k.halt h).lastCtx = k.lastCtx := rfl
@[simp] theorem Core.halt_well (k : Core) (h : HaltInfo) : (k.halt h).well = k.well := rfl
@[simp] theorem Core.halt_urs (k : Core) (h : HaltInfo) : (k.halt h).urs = k.urs := rfl
@[simp] theorem Core.halt_stall (k : Core) (h : HaltInfo) : (k.halt h).stall = k.stall := rfl
@[simp] theorem Core.halt_cycle (k : Core) (h : HaltInfo) : (k.halt h).cycle = k.cycle := rfl
@[simp] theorem Core.halt_heldOvf (k : Core) (h : HaltInfo) : (k.halt h).heldOvf = k.heldOvf := rfl
@[simp] theorem Core.halt_heldUnb (k : Core) (h : HaltInfo) : (k.halt h).heldUnb = k.heldUnb := rfl
@[simp] theorem Core.halt_lateV (k : Core) (h : HaltInfo) : (k.halt h).lateV = k.lateV := rfl
@[simp] theorem Core.halt_lateM (k : Core) (h : HaltInfo) : (k.halt h).lateM = k.lateM := rfl
@[simp] theorem Core.halt_nextCell (k : Core) (h : HaltInfo) : (k.halt h).nextCell = k.nextCell := rfl

@[simp] theorem Core.setCtx_regs (k : Core) (e : Engine) (x : EngineCtx) : (k.setCtx e x).regs = k.regs := by cases e <;> rfl
@[simp] theorem Core.setCtx_tok (k : Core) (e : Engine) (x : EngineCtx) : (k.setCtx e x).tok = k.tok := by cases e <;> rfl
@[simp] theorem Core.setCtx_vals (k : Core) (e : Engine) (x : EngineCtx) : (k.setCtx e x).vals = k.vals := by cases e <;> rfl
@[simp] theorem Core.setCtx_csr (k : Core) (e : Engine) (x : EngineCtx) : (k.setCtx e x).csr = k.csr := by cases e <;> rfl
@[simp] theorem Core.setCtx_tiles (k : Core) (e : Engine) (x : EngineCtx) : (k.setCtx e x).tiles = k.tiles := by cases e <;> rfl
@[simp] theorem Core.setCtx_cist (k : Core) (e : Engine) (x : EngineCtx) : (k.setCtx e x).cist = k.cist := by cases e <;> rfl
@[simp] theorem Core.setCtx_streams (k : Core) (e : Engine) (x : EngineCtx) : (k.setCtx e x).streams = k.streams := by cases e <;> rfl
@[simp] theorem Core.setCtx_lastServed (k : Core) (e : Engine) (x : EngineCtx) : (k.setCtx e x).lastServed = k.lastServed := by cases e <;> rfl
@[simp] theorem Core.setCtx_vp (k : Core) (e : Engine) (x : EngineCtx) : (k.setCtx e x).vp = k.vp := by cases e <;> rfl
@[simp] theorem Core.setCtx_mx (k : Core) (e : Engine) (x : EngineCtx) : (k.setCtx e x).mx = k.mx := by cases e <;> rfl
@[simp] theorem Core.setCtx_samp (k : Core) (e : Engine) (x : EngineCtx) : (k.setCtx e x).samp = k.samp := by cases e <;> rfl
@[simp] theorem Core.setCtx_ref (k : Core) (e : Engine) (x : EngineCtx) : (k.setCtx e x).ref = k.ref := by cases e <;> rfl
@[simp] theorem Core.setCtx_handler (k : Core) (e : Engine) (x : EngineCtx) : (k.setCtx e x).handler = k.handler := by cases e <;> rfl
@[simp] theorem Core.setCtx_cell (k : Core) (e : Engine) (x : EngineCtx) : (k.setCtx e x).cell = k.cell := by cases e <;> rfl
@[simp] theorem Core.setCtx_kern (k : Core) (e : Engine) (x : EngineCtx) : (k.setCtx e x).kern = k.kern := by cases e <;> rfl
@[simp] theorem Core.setCtx_halted (k : Core) (e : Engine) (x : EngineCtx) : (k.setCtx e x).halted = k.halted := by cases e <;> rfl
@[simp] theorem Core.setCtx_istore (k : Core) (e : Engine) (x : EngineCtx) : (k.setCtx e x).istore = k.istore := by cases e <;> rfl
@[simp] theorem Core.setCtx_textId (k : Core) (e : Engine) (x : EngineCtx) : (k.setCtx e x).textId = k.textId := by cases e <;> rfl
@[simp] theorem Core.setCtx_textCtx (k : Core) (e : Engine) (x : EngineCtx) : (k.setCtx e x).textCtx = k.textCtx := by cases e <;> rfl
@[simp] theorem Core.setCtx_textOk (k : Core) (e : Engine) (x : EngineCtx) : (k.setCtx e x).textOk = k.textOk := by cases e <;> rfl
@[simp] theorem Core.setCtx_textLines (k : Core) (e : Engine) (x : EngineCtx) : (k.setCtx e x).textLines = k.textLines := by cases e <;> rfl
@[simp] theorem Core.setCtx_lastCtx (k : Core) (e : Engine) (x : EngineCtx) : (k.setCtx e x).lastCtx = k.lastCtx := by cases e <;> rfl
@[simp] theorem Core.setCtx_well (k : Core) (e : Engine) (x : EngineCtx) : (k.setCtx e x).well = k.well := by cases e <;> rfl
@[simp] theorem Core.setCtx_urs (k : Core) (e : Engine) (x : EngineCtx) : (k.setCtx e x).urs = k.urs := by cases e <;> rfl
@[simp] theorem Core.setCtx_waiters (k : Core) (e : Engine) (x : EngineCtx) : (k.setCtx e x).waiters = k.waiters := by cases e <;> rfl
@[simp] theorem Core.setCtx_stall (k : Core) (e : Engine) (x : EngineCtx) : (k.setCtx e x).stall = k.stall := by cases e <;> rfl
@[simp] theorem Core.setCtx_cycle (k : Core) (e : Engine) (x : EngineCtx) : (k.setCtx e x).cycle = k.cycle := by cases e <;> rfl
@[simp] theorem Core.setCtx_heldOvf (k : Core) (e : Engine) (x : EngineCtx) : (k.setCtx e x).heldOvf = k.heldOvf := by cases e <;> rfl
@[simp] theorem Core.setCtx_heldUnb (k : Core) (e : Engine) (x : EngineCtx) : (k.setCtx e x).heldUnb = k.heldUnb := by cases e <;> rfl
@[simp] theorem Core.setCtx_lateV (k : Core) (e : Engine) (x : EngineCtx) : (k.setCtx e x).lateV = k.lateV := by cases e <;> rfl
@[simp] theorem Core.setCtx_lateM (k : Core) (e : Engine) (x : EngineCtx) : (k.setCtx e x).lateM = k.lateM := by cases e <;> rfl
@[simp] theorem Core.setCtx_nextCell (k : Core) (e : Engine) (x : EngineCtx) : (k.setCtx e x).nextCell = k.nextCell := by cases e <;> rfl

@[simp] theorem Core.modCtx_regs (k : Core) (e : Engine) (f : EngineCtx → EngineCtx) : (k.modCtx e f).regs = k.regs := Core.setCtx_regs k e _
@[simp] theorem Core.modCtx_tok (k : Core) (e : Engine) (f : EngineCtx → EngineCtx) : (k.modCtx e f).tok = k.tok := Core.setCtx_tok k e _
@[simp] theorem Core.modCtx_vals (k : Core) (e : Engine) (f : EngineCtx → EngineCtx) : (k.modCtx e f).vals = k.vals := Core.setCtx_vals k e _
@[simp] theorem Core.modCtx_csr (k : Core) (e : Engine) (f : EngineCtx → EngineCtx) : (k.modCtx e f).csr = k.csr := Core.setCtx_csr k e _
@[simp] theorem Core.modCtx_tiles (k : Core) (e : Engine) (f : EngineCtx → EngineCtx) : (k.modCtx e f).tiles = k.tiles := Core.setCtx_tiles k e _
@[simp] theorem Core.modCtx_cist (k : Core) (e : Engine) (f : EngineCtx → EngineCtx) : (k.modCtx e f).cist = k.cist := Core.setCtx_cist k e _
@[simp] theorem Core.modCtx_streams (k : Core) (e : Engine) (f : EngineCtx → EngineCtx) : (k.modCtx e f).streams = k.streams := Core.setCtx_streams k e _
@[simp] theorem Core.modCtx_lastServed (k : Core) (e : Engine) (f : EngineCtx → EngineCtx) : (k.modCtx e f).lastServed = k.lastServed := Core.setCtx_lastServed k e _
@[simp] theorem Core.modCtx_vp (k : Core) (e : Engine) (f : EngineCtx → EngineCtx) : (k.modCtx e f).vp = k.vp := Core.setCtx_vp k e _
@[simp] theorem Core.modCtx_mx (k : Core) (e : Engine) (f : EngineCtx → EngineCtx) : (k.modCtx e f).mx = k.mx := Core.setCtx_mx k e _
@[simp] theorem Core.modCtx_samp (k : Core) (e : Engine) (f : EngineCtx → EngineCtx) : (k.modCtx e f).samp = k.samp := Core.setCtx_samp k e _
@[simp] theorem Core.modCtx_ref (k : Core) (e : Engine) (f : EngineCtx → EngineCtx) : (k.modCtx e f).ref = k.ref := Core.setCtx_ref k e _
@[simp] theorem Core.modCtx_handler (k : Core) (e : Engine) (f : EngineCtx → EngineCtx) : (k.modCtx e f).handler = k.handler := Core.setCtx_handler k e _
@[simp] theorem Core.modCtx_cell (k : Core) (e : Engine) (f : EngineCtx → EngineCtx) : (k.modCtx e f).cell = k.cell := Core.setCtx_cell k e _
@[simp] theorem Core.modCtx_kern (k : Core) (e : Engine) (f : EngineCtx → EngineCtx) : (k.modCtx e f).kern = k.kern := Core.setCtx_kern k e _
@[simp] theorem Core.modCtx_halted (k : Core) (e : Engine) (f : EngineCtx → EngineCtx) : (k.modCtx e f).halted = k.halted := Core.setCtx_halted k e _
@[simp] theorem Core.modCtx_istore (k : Core) (e : Engine) (f : EngineCtx → EngineCtx) : (k.modCtx e f).istore = k.istore := Core.setCtx_istore k e _
@[simp] theorem Core.modCtx_textId (k : Core) (e : Engine) (f : EngineCtx → EngineCtx) : (k.modCtx e f).textId = k.textId := Core.setCtx_textId k e _
@[simp] theorem Core.modCtx_textCtx (k : Core) (e : Engine) (f : EngineCtx → EngineCtx) : (k.modCtx e f).textCtx = k.textCtx := Core.setCtx_textCtx k e _
@[simp] theorem Core.modCtx_textOk (k : Core) (e : Engine) (f : EngineCtx → EngineCtx) : (k.modCtx e f).textOk = k.textOk := Core.setCtx_textOk k e _
@[simp] theorem Core.modCtx_textLines (k : Core) (e : Engine) (f : EngineCtx → EngineCtx) : (k.modCtx e f).textLines = k.textLines := Core.setCtx_textLines k e _
@[simp] theorem Core.modCtx_lastCtx (k : Core) (e : Engine) (f : EngineCtx → EngineCtx) : (k.modCtx e f).lastCtx = k.lastCtx := Core.setCtx_lastCtx k e _
@[simp] theorem Core.modCtx_well (k : Core) (e : Engine) (f : EngineCtx → EngineCtx) : (k.modCtx e f).well = k.well := Core.setCtx_well k e _
@[simp] theorem Core.modCtx_urs (k : Core) (e : Engine) (f : EngineCtx → EngineCtx) : (k.modCtx e f).urs = k.urs := Core.setCtx_urs k e _
@[simp] theorem Core.modCtx_waiters (k : Core) (e : Engine) (f : EngineCtx → EngineCtx) : (k.modCtx e f).waiters = k.waiters := Core.setCtx_waiters k e _
@[simp] theorem Core.modCtx_stall (k : Core) (e : Engine) (f : EngineCtx → EngineCtx) : (k.modCtx e f).stall = k.stall := Core.setCtx_stall k e _
@[simp] theorem Core.modCtx_cycle (k : Core) (e : Engine) (f : EngineCtx → EngineCtx) : (k.modCtx e f).cycle = k.cycle := Core.setCtx_cycle k e _
@[simp] theorem Core.modCtx_heldOvf (k : Core) (e : Engine) (f : EngineCtx → EngineCtx) : (k.modCtx e f).heldOvf = k.heldOvf := Core.setCtx_heldOvf k e _
@[simp] theorem Core.modCtx_heldUnb (k : Core) (e : Engine) (f : EngineCtx → EngineCtx) : (k.modCtx e f).heldUnb = k.heldUnb := Core.setCtx_heldUnb k e _
@[simp] theorem Core.modCtx_lateV (k : Core) (e : Engine) (f : EngineCtx → EngineCtx) : (k.modCtx e f).lateV = k.lateV := Core.setCtx_lateV k e _
@[simp] theorem Core.modCtx_lateM (k : Core) (e : Engine) (f : EngineCtx → EngineCtx) : (k.modCtx e f).lateM = k.lateM := Core.setCtx_lateM k e _
@[simp] theorem Core.modCtx_nextCell (k : Core) (e : Engine) (f : EngineCtx → EngineCtx) : (k.modCtx e f).nextCell = k.nextCell := Core.setCtx_nextCell k e _

@[simp] theorem Core.stallOn_regs (k : Core) (e : Engine) (w : Wait) : (k.stallOn e w).regs = k.regs := Core.setCtx_regs k e _
@[simp] theorem Core.stallOn_tok (k : Core) (e : Engine) (w : Wait) : (k.stallOn e w).tok = k.tok := Core.setCtx_tok k e _
@[simp] theorem Core.stallOn_vals (k : Core) (e : Engine) (w : Wait) : (k.stallOn e w).vals = k.vals := Core.setCtx_vals k e _
@[simp] theorem Core.stallOn_csr (k : Core) (e : Engine) (w : Wait) : (k.stallOn e w).csr = k.csr := Core.setCtx_csr k e _
@[simp] theorem Core.stallOn_tiles (k : Core) (e : Engine) (w : Wait) : (k.stallOn e w).tiles = k.tiles := Core.setCtx_tiles k e _
@[simp] theorem Core.stallOn_cist (k : Core) (e : Engine) (w : Wait) : (k.stallOn e w).cist = k.cist := Core.setCtx_cist k e _
@[simp] theorem Core.stallOn_streams (k : Core) (e : Engine) (w : Wait) : (k.stallOn e w).streams = k.streams := Core.setCtx_streams k e _
@[simp] theorem Core.stallOn_lastServed (k : Core) (e : Engine) (w : Wait) : (k.stallOn e w).lastServed = k.lastServed := Core.setCtx_lastServed k e _
@[simp] theorem Core.stallOn_vp (k : Core) (e : Engine) (w : Wait) : (k.stallOn e w).vp = k.vp := Core.setCtx_vp k e _
@[simp] theorem Core.stallOn_mx (k : Core) (e : Engine) (w : Wait) : (k.stallOn e w).mx = k.mx := Core.setCtx_mx k e _
@[simp] theorem Core.stallOn_samp (k : Core) (e : Engine) (w : Wait) : (k.stallOn e w).samp = k.samp := Core.setCtx_samp k e _
@[simp] theorem Core.stallOn_ref (k : Core) (e : Engine) (w : Wait) : (k.stallOn e w).ref = k.ref := Core.setCtx_ref k e _
@[simp] theorem Core.stallOn_handler (k : Core) (e : Engine) (w : Wait) : (k.stallOn e w).handler = k.handler := Core.setCtx_handler k e _
@[simp] theorem Core.stallOn_cell (k : Core) (e : Engine) (w : Wait) : (k.stallOn e w).cell = k.cell := Core.setCtx_cell k e _
@[simp] theorem Core.stallOn_kern (k : Core) (e : Engine) (w : Wait) : (k.stallOn e w).kern = k.kern := Core.setCtx_kern k e _
@[simp] theorem Core.stallOn_halted (k : Core) (e : Engine) (w : Wait) : (k.stallOn e w).halted = k.halted := Core.setCtx_halted k e _
@[simp] theorem Core.stallOn_istore (k : Core) (e : Engine) (w : Wait) : (k.stallOn e w).istore = k.istore := Core.setCtx_istore k e _
@[simp] theorem Core.stallOn_textId (k : Core) (e : Engine) (w : Wait) : (k.stallOn e w).textId = k.textId := Core.setCtx_textId k e _
@[simp] theorem Core.stallOn_textCtx (k : Core) (e : Engine) (w : Wait) : (k.stallOn e w).textCtx = k.textCtx := Core.setCtx_textCtx k e _
@[simp] theorem Core.stallOn_textOk (k : Core) (e : Engine) (w : Wait) : (k.stallOn e w).textOk = k.textOk := Core.setCtx_textOk k e _
@[simp] theorem Core.stallOn_textLines (k : Core) (e : Engine) (w : Wait) : (k.stallOn e w).textLines = k.textLines := Core.setCtx_textLines k e _
@[simp] theorem Core.stallOn_lastCtx (k : Core) (e : Engine) (w : Wait) : (k.stallOn e w).lastCtx = k.lastCtx := Core.setCtx_lastCtx k e _
@[simp] theorem Core.stallOn_well (k : Core) (e : Engine) (w : Wait) : (k.stallOn e w).well = k.well := Core.setCtx_well k e _
@[simp] theorem Core.stallOn_urs (k : Core) (e : Engine) (w : Wait) : (k.stallOn e w).urs = k.urs := Core.setCtx_urs k e _
@[simp] theorem Core.stallOn_waiters (k : Core) (e : Engine) (w : Wait) : (k.stallOn e w).waiters = k.waiters := Core.setCtx_waiters k e _
@[simp] theorem Core.stallOn_stall (k : Core) (e : Engine) (w : Wait) : (k.stallOn e w).stall = k.stall := Core.setCtx_stall k e _
@[simp] theorem Core.stallOn_cycle (k : Core) (e : Engine) (w : Wait) : (k.stallOn e w).cycle = k.cycle := Core.setCtx_cycle k e _
@[simp] theorem Core.stallOn_heldOvf (k : Core) (e : Engine) (w : Wait) : (k.stallOn e w).heldOvf = k.heldOvf := Core.setCtx_heldOvf k e _
@[simp] theorem Core.stallOn_heldUnb (k : Core) (e : Engine) (w : Wait) : (k.stallOn e w).heldUnb = k.heldUnb := Core.setCtx_heldUnb k e _
@[simp] theorem Core.stallOn_lateV (k : Core) (e : Engine) (w : Wait) : (k.stallOn e w).lateV = k.lateV := Core.setCtx_lateV k e _
@[simp] theorem Core.stallOn_lateM (k : Core) (e : Engine) (w : Wait) : (k.stallOn e w).lateM = k.lateM := Core.setCtx_lateM k e _
@[simp] theorem Core.stallOn_nextCell (k : Core) (e : Engine) (w : Wait) : (k.stallOn e w).nextCell = k.nextCell := Core.setCtx_nextCell k e _

@[simp] theorem Core.setS_ec (k : Core) (e : Engine) (d : Reg) (x : W) : (k.setS e d x).ec = k.ec := by rw [Core.setS_rest]
@[simp] theorem Core.setS_ea (k : Core) (e : Engine) (d : Reg) (x : W) : (k.setS e d x).ea = k.ea := by rw [Core.setS_rest]
@[simp] theorem Core.setS_ev (k : Core) (e : Engine) (d : Reg) (x : W) : (k.setS e d x).ev = k.ev := by rw [Core.setS_rest]
@[simp] theorem Core.setS_em (k : Core) (e : Engine) (d : Reg) (x : W) : (k.setS e d x).em = k.em := by rw [Core.setS_rest]
@[simp] theorem Core.setS_tok (k : Core) (e : Engine) (d : Reg) (x : W) : (k.setS e d x).tok = k.tok := by rw [Core.setS_rest]
@[simp] theorem Core.setS_vals (k : Core) (e : Engine) (d : Reg) (x : W) : (k.setS e d x).vals = k.vals := by rw [Core.setS_rest]
@[simp] theorem Core.setS_csr (k : Core) (e : Engine) (d : Reg) (x : W) : (k.setS e d x).csr = k.csr := by rw [Core.setS_rest]
@[simp] theorem Core.setS_tiles (k : Core) (e : Engine) (d : Reg) (x : W) : (k.setS e d x).tiles = k.tiles := by rw [Core.setS_rest]
@[simp] theorem Core.setS_cist (k : Core) (e : Engine) (d : Reg) (x : W) : (k.setS e d x).cist = k.cist := by rw [Core.setS_rest]
@[simp] theorem Core.setS_streams (k : Core) (e : Engine) (d : Reg) (x : W) : (k.setS e d x).streams = k.streams := by rw [Core.setS_rest]
@[simp] theorem Core.setS_lastServed (k : Core) (e : Engine) (d : Reg) (x : W) : (k.setS e d x).lastServed = k.lastServed := by rw [Core.setS_rest]
@[simp] theorem Core.setS_vp (k : Core) (e : Engine) (d : Reg) (x : W) : (k.setS e d x).vp = k.vp := by rw [Core.setS_rest]
@[simp] theorem Core.setS_mx (k : Core) (e : Engine) (d : Reg) (x : W) : (k.setS e d x).mx = k.mx := by rw [Core.setS_rest]
@[simp] theorem Core.setS_samp (k : Core) (e : Engine) (d : Reg) (x : W) : (k.setS e d x).samp = k.samp := by rw [Core.setS_rest]
@[simp] theorem Core.setS_ref (k : Core) (e : Engine) (d : Reg) (x : W) : (k.setS e d x).ref = k.ref := by rw [Core.setS_rest]
@[simp] theorem Core.setS_handler (k : Core) (e : Engine) (d : Reg) (x : W) : (k.setS e d x).handler = k.handler := by rw [Core.setS_rest]
@[simp] theorem Core.setS_cell (k : Core) (e : Engine) (d : Reg) (x : W) : (k.setS e d x).cell = k.cell := by rw [Core.setS_rest]
@[simp] theorem Core.setS_kern (k : Core) (e : Engine) (d : Reg) (x : W) : (k.setS e d x).kern = k.kern := by rw [Core.setS_rest]
@[simp] theorem Core.setS_istore (k : Core) (e : Engine) (d : Reg) (x : W) : (k.setS e d x).istore = k.istore := by rw [Core.setS_rest]
@[simp] theorem Core.setS_textId (k : Core) (e : Engine) (d : Reg) (x : W) : (k.setS e d x).textId = k.textId := by rw [Core.setS_rest]
@[simp] theorem Core.setS_textCtx (k : Core) (e : Engine) (d : Reg) (x : W) : (k.setS e d x).textCtx = k.textCtx := by rw [Core.setS_rest]
@[simp] theorem Core.setS_textOk (k : Core) (e : Engine) (d : Reg) (x : W) : (k.setS e d x).textOk = k.textOk := by rw [Core.setS_rest]
@[simp] theorem Core.setS_textLines (k : Core) (e : Engine) (d : Reg) (x : W) : (k.setS e d x).textLines = k.textLines := by rw [Core.setS_rest]
@[simp] theorem Core.setS_lastCtx (k : Core) (e : Engine) (d : Reg) (x : W) : (k.setS e d x).lastCtx = k.lastCtx := by rw [Core.setS_rest]
@[simp] theorem Core.setS_well (k : Core) (e : Engine) (d : Reg) (x : W) : (k.setS e d x).well = k.well := by rw [Core.setS_rest]
@[simp] theorem Core.setS_urs (k : Core) (e : Engine) (d : Reg) (x : W) : (k.setS e d x).urs = k.urs := by rw [Core.setS_rest]
@[simp] theorem Core.setS_waiters (k : Core) (e : Engine) (d : Reg) (x : W) : (k.setS e d x).waiters = k.waiters := by rw [Core.setS_rest]
@[simp] theorem Core.setS_stall (k : Core) (e : Engine) (d : Reg) (x : W) : (k.setS e d x).stall = k.stall := by rw [Core.setS_rest]
@[simp] theorem Core.setS_cycle (k : Core) (e : Engine) (d : Reg) (x : W) : (k.setS e d x).cycle = k.cycle := by rw [Core.setS_rest]
@[simp] theorem Core.setS_heldOvf (k : Core) (e : Engine) (d : Reg) (x : W) : (k.setS e d x).heldOvf = k.heldOvf := by rw [Core.setS_rest]
@[simp] theorem Core.setS_heldUnb (k : Core) (e : Engine) (d : Reg) (x : W) : (k.setS e d x).heldUnb = k.heldUnb := by rw [Core.setS_rest]
@[simp] theorem Core.setS_lateV (k : Core) (e : Engine) (d : Reg) (x : W) : (k.setS e d x).lateV = k.lateV := by rw [Core.setS_rest]
@[simp] theorem Core.setS_lateM (k : Core) (e : Engine) (d : Reg) (x : W) : (k.setS e d x).lateM = k.lateM := by rw [Core.setS_rest]
@[simp] theorem Core.setS_nextCell (k : Core) (e : Engine) (d : Reg) (x : W) : (k.setS e d x).nextCell = k.nextCell := by rw [Core.setS_rest]

/-- A stream replaced is read back, and every other stream stays. -/
@[simp] theorem Core.stream_setStream (k : Core) (n m : Nat) (t : Stream) :
    (k.setStream n t).stream m = if n = m ∧ m < 4 then t else k.stream m := vget_vset k.streams n m t {}

/-- A tile replaced is read back, and every other tile stays. -/
@[simp] theorem Core.tile_setTile (k : Core) (n m : Nat) (x : Tile) :
    (k.setTile n x).tile m = if n = m ∧ m < 256 then x else k.tile m := vget_vset k.tiles n m x {}

/-! ### An engine's control state -/

@[simp] theorem EngineCtx.past_line (x : EngineCtx) (i : Issue) : (x.past i).line = x.line := rfl
@[simp] theorem EngineCtx.past_pend (x : EngineCtx) (i : Issue) : (x.past i).pend = x.pend := rfl
@[simp] theorem EngineCtx.past_inDelay (x : EngineCtx) (i : Issue) : (x.past i).inDelay = x.inDelay := rfl
@[simp] theorem EngineCtx.past_seqNext (x : EngineCtx) (i : Issue) : (x.past i).seqNext = x.seqNext := rfl
@[simp] theorem EngineCtx.past_stack (x : EngineCtx) (i : Issue) : (x.past i).stack = x.stack := rfl
@[simp] theorem EngineCtx.past_loop (x : EngineCtx) (i : Issue) : (x.past i).loop = x.loop := rfl
@[simp] theorem EngineCtx.past_arms (x : EngineCtx) (i : Issue) : (x.past i).arms = x.arms := rfl
@[simp] theorem EngineCtx.past_outq (x : EngineCtx) (i : Issue) : (x.past i).outq = x.outq := rfl
@[simp] theorem EngineCtx.past_pushes (x : EngineCtx) (i : Issue) : (x.past i).pushes = x.pushes := rfl
@[simp] theorem EngineCtx.past_textErr (x : EngineCtx) (i : Issue) : (x.past i).textErr = x.textErr := rfl
@[simp] theorem EngineCtx.past_ended (x : EngineCtx) (i : Issue) : (x.past i).ended = x.ended := rfl
@[simp] theorem EngineCtx.past_rfret (x : EngineCtx) (i : Issue) : (x.past i).rfret = x.rfret := rfl

@[simp] theorem EngineCtx.unstall_line (x : EngineCtx) : (x.unstall).line = x.line := rfl
@[simp] theorem EngineCtx.unstall_lane (x : EngineCtx) : (x.unstall).lane = x.lane := rfl
@[simp] theorem EngineCtx.unstall_pend (x : EngineCtx) : (x.unstall).pend = x.pend := rfl
@[simp] theorem EngineCtx.unstall_inDelay (x : EngineCtx) : (x.unstall).inDelay = x.inDelay := rfl
@[simp] theorem EngineCtx.unstall_seqNext (x : EngineCtx) : (x.unstall).seqNext = x.seqNext := rfl
@[simp] theorem EngineCtx.unstall_stack (x : EngineCtx) : (x.unstall).stack = x.stack := rfl
@[simp] theorem EngineCtx.unstall_loop (x : EngineCtx) : (x.unstall).loop = x.loop := rfl
@[simp] theorem EngineCtx.unstall_arms (x : EngineCtx) : (x.unstall).arms = x.arms := rfl
@[simp] theorem EngineCtx.unstall_outq (x : EngineCtx) : (x.unstall).outq = x.outq := rfl
@[simp] theorem EngineCtx.unstall_pushes (x : EngineCtx) : (x.unstall).pushes = x.pushes := rfl
@[simp] theorem EngineCtx.unstall_granted (x : EngineCtx) : (x.unstall).granted = x.granted := rfl
@[simp] theorem EngineCtx.unstall_textErr (x : EngineCtx) : (x.unstall).textErr = x.textErr := rfl
@[simp] theorem EngineCtx.unstall_ended (x : EngineCtx) : (x.unstall).ended = x.ended := rfl
@[simp] theorem EngineCtx.unstall_rfret (x : EngineCtx) : (x.unstall).rfret = x.rfret := rfl

@[simp] theorem EngineCtx.owe_line (x : EngineCtx) (at_ : Line × Nat) (ds : List Engine) : (x.owe at_ ds).line = x.line := by rw [EngineCtx.owe_eq]
@[simp] theorem EngineCtx.owe_lane (x : EngineCtx) (at_ : Line × Nat) (ds : List Engine) : (x.owe at_ ds).lane = x.lane := by rw [EngineCtx.owe_eq]
@[simp] theorem EngineCtx.owe_pend (x : EngineCtx) (at_ : Line × Nat) (ds : List Engine) : (x.owe at_ ds).pend = x.pend := by rw [EngineCtx.owe_eq]
@[simp] theorem EngineCtx.owe_inDelay (x : EngineCtx) (at_ : Line × Nat) (ds : List Engine) : (x.owe at_ ds).inDelay = x.inDelay := by rw [EngineCtx.owe_eq]
@[simp] theorem EngineCtx.owe_seqNext (x : EngineCtx) (at_ : Line × Nat) (ds : List Engine) : (x.owe at_ ds).seqNext = x.seqNext := by rw [EngineCtx.owe_eq]
@[simp] theorem EngineCtx.owe_stack (x : EngineCtx) (at_ : Line × Nat) (ds : List Engine) : (x.owe at_ ds).stack = x.stack := by rw [EngineCtx.owe_eq]
@[simp] theorem EngineCtx.owe_loop (x : EngineCtx) (at_ : Line × Nat) (ds : List Engine) : (x.owe at_ ds).loop = x.loop := by rw [EngineCtx.owe_eq]
@[simp] theorem EngineCtx.owe_arms (x : EngineCtx) (at_ : Line × Nat) (ds : List Engine) : (x.owe at_ ds).arms = x.arms := by rw [EngineCtx.owe_eq]
@[simp] theorem EngineCtx.owe_outq (x : EngineCtx) (at_ : Line × Nat) (ds : List Engine) : (x.owe at_ ds).outq = x.outq := by rw [EngineCtx.owe_eq]
@[simp] theorem EngineCtx.owe_wait (x : EngineCtx) (at_ : Line × Nat) (ds : List Engine) : (x.owe at_ ds).wait = x.wait := by rw [EngineCtx.owe_eq]
@[simp] theorem EngineCtx.owe_granted (x : EngineCtx) (at_ : Line × Nat) (ds : List Engine) : (x.owe at_ ds).granted = x.granted := by rw [EngineCtx.owe_eq]
@[simp] theorem EngineCtx.owe_textErr (x : EngineCtx) (at_ : Line × Nat) (ds : List Engine) : (x.owe at_ ds).textErr = x.textErr := by rw [EngineCtx.owe_eq]
@[simp] theorem EngineCtx.owe_ended (x : EngineCtx) (at_ : Line × Nat) (ds : List Engine) : (x.owe at_ ds).ended = x.ended := by rw [EngineCtx.owe_eq]
@[simp] theorem EngineCtx.owe_rfret (x : EngineCtx) (at_ : Line × Nat) (ds : List Engine) : (x.owe at_ ds).rfret = x.rfret := by rw [EngineCtx.owe_eq]

/-! ### A partition and the management block -/

@[simp] theorem Part.stopRun_dies (p : Part) (now : Nat) : (p.stopRun now).dies = p.dies := rfl
@[simp] theorem Part.stopRun_ucap (p : Part) (now : Nat) : (p.stopRun now).ucap = p.ucap := rfl
@[simp] theorem Part.stopRun_tslice (p : Part) (now : Nat) : (p.stopRun now).tslice = p.tslice := rfl
@[simp] theorem Part.stopRun_since (p : Part) (now : Nat) : (p.stopRun now).since = p.since := rfl
@[simp] theorem Part.stopRun_chargeFrom (p : Part) (now : Nat) : (p.stopRun now).chargeFrom = p.chargeFrom := rfl
@[simp] theorem Part.stopRun_sliceFrom (p : Part) (now : Nat) : (p.stopRun now).sliceFrom = p.sliceFrom := rfl
@[simp] theorem Part.stopRun_resident (p : Part) (now : Nat) : (p.stopRun now).resident = p.resident := rfl

@[simp] theorem Part.begin_dies (p : Part) (q : BitVec 10) (ss : SStep) (now : Nat) : (p.begin q ss now).dies = p.dies := rfl
@[simp] theorem Part.begin_ucap (p : Part) (q : BitVec 10) (ss : SStep) (now : Nat) : (p.begin q ss now).ucap = p.ucap := rfl
@[simp] theorem Part.begin_tslice (p : Part) (q : BitVec 10) (ss : SStep) (now : Nat) : (p.begin q ss now).tslice = p.tslice := rfl
@[simp] theorem Part.begin_urgentRun (p : Part) (q : BitVec 10) (ss : SStep) (now : Nat) : (p.begin q ss now).urgentRun = p.urgentRun := rfl
@[simp] theorem Part.begin_returned (p : Part) (q : BitVec 10) (ss : SStep) (now : Nat) : (p.begin q ss now).returned = p.returned := rfl
@[simp] theorem Part.begin_resident (p : Part) (q : BitVec 10) (ss : SStep) (now : Nat) : (p.begin q ss now).resident = p.resident := rfl
@[simp] theorem Part.begin_urgent (p : Part) (q : BitVec 10) (ss : SStep) (now : Nat) : (p.begin q ss now).urgent = p.urgent := rfl

@[simp] theorem Mgmt.run_boot (m : Mgmt) (slot : Bool) : (m.run slot).boot = m.boot := rfl
@[simp] theorem Mgmt.run_fuseKey (m : Mgmt) (slot : Bool) : (m.run slot).fuseKey = m.fuseKey := rfl
@[simp] theorem Mgmt.run_fw (m : Mgmt) (slot : Bool) : (m.run slot).fw = m.fw := rfl
@[simp] theorem Mgmt.run_slotSvn0 (m : Mgmt) (slot : Bool) : (m.run slot).slotSvn0 = m.slotSvn0 := rfl
@[simp] theorem Mgmt.run_slotSvn1 (m : Mgmt) (slot : Bool) : (m.run slot).slotSvn1 = m.slotSvn1 := rfl
@[simp] theorem Mgmt.run_failcode (m : Mgmt) (slot : Bool) : (m.run slot).failcode = m.failcode := rfl
@[simp] theorem Mgmt.run_cecnt (m : Mgmt) (slot : Bool) : (m.run slot).cecnt = m.cecnt := rfl
@[simp] theorem Mgmt.run_sigused (m : Mgmt) (slot : Bool) : (m.run slot).sigused = m.sigused := rfl
@[simp] theorem Mgmt.run_leaf (m : Mgmt) (slot : Bool) : (m.run slot).leaf = m.leaf := rfl
@[simp] theorem Mgmt.run_cfg (m : Mgmt) (slot : Bool) : (m.run slot).cfg = m.cfg := rfl
@[simp] theorem Mgmt.run_log (m : Mgmt) (slot : Bool) : (m.run slot).log = m.log := rfl
@[simp] theorem Mgmt.run_runMeas (m : Mgmt) (slot : Bool) : (m.run slot).runMeas = m.runMeas := rfl
@[simp] theorem Mgmt.run_oldMeas (m : Mgmt) (slot : Bool) : (m.run slot).oldMeas = m.oldMeas := rfl
@[simp] theorem Mgmt.run_keys (m : Mgmt) (slot : Bool) : (m.run slot).keys = m.keys := rfl
@[simp] theorem Mgmt.run_hbeat (m : Mgmt) (slot : Bool) : (m.run slot).hbeat = m.hbeat := rfl
@[simp] theorem Mgmt.run_rollback (m : Mgmt) (slot : Bool) : (m.run slot).rollback = m.rollback := rfl
@[simp] theorem Mgmt.run_hbFailed (m : Mgmt) (slot : Bool) : (m.run slot).hbFailed = m.hbFailed := rfl
@[simp] theorem Mgmt.run_upd (m : Mgmt) (slot : Bool) : (m.run slot).upd = m.upd := rfl
@[simp] theorem Mgmt.run_updImage (m : Mgmt) (slot : Bool) : (m.run slot).updImage = m.updImage := rfl
@[simp] theorem Mgmt.run_fetchHeld (m : Mgmt) (slot : Bool) : (m.run slot).fetchHeld = m.fetchHeld := rfl
@[simp] theorem Mgmt.run_fwRunning (m : Mgmt) (slot : Bool) : (m.run slot).fwRunning = m.fwRunning := rfl
@[simp] theorem Mgmt.run_beatAt (m : Mgmt) (slot : Bool) : (m.run slot).beatAt = m.beatAt := rfl
@[simp] theorem Mgmt.run_updAt (m : Mgmt) (slot : Bool) : (m.run slot).updAt = m.updAt := rfl
@[simp] theorem Mgmt.run_conns (m : Mgmt) (slot : Bool) : (m.run slot).conns = m.conns := rfl
@[simp] theorem Mgmt.run_mbReq (m : Mgmt) (slot : Bool) : (m.run slot).mbReq = m.mbReq := rfl
@[simp] theorem Mgmt.run_mbResp (m : Mgmt) (slot : Bool) : (m.run slot).mbResp = m.mbResp := rfl
@[simp] theorem Mgmt.run_mbBusy (m : Mgmt) (slot : Bool) : (m.run slot).mbBusy = m.mbBusy := rfl
@[simp] theorem Mgmt.run_mbDone (m : Mgmt) (slot : Bool) : (m.run slot).mbDone = m.mbDone := rfl
@[simp] theorem Mgmt.run_mbLen (m : Mgmt) (slot : Bool) : (m.run slot).mbLen = m.mbLen := rfl
@[simp] theorem Mgmt.run_mbPend (m : Mgmt) (slot : Bool) : (m.run slot).mbPend = m.mbPend := rfl
@[simp] theorem Mgmt.run_mbStatus (m : Mgmt) (slot : Bool) : (m.run slot).mbStatus = m.mbStatus := rfl
@[simp] theorem Mgmt.run_mbRlen (m : Mgmt) (slot : Bool) : (m.run slot).mbRlen = m.mbRlen := rfl
@[simp] theorem Mgmt.run_mbClass (m : Mgmt) (slot : Bool) : (m.run slot).mbClass = m.mbClass := rfl
@[simp] theorem Mgmt.run_mbReply (m : Mgmt) (slot : Bool) : (m.run slot).mbReply = m.mbReply := rfl
@[simp] theorem Mgmt.run_doeReply (m : Mgmt) (slot : Bool) : (m.run slot).doeReply = m.doeReply := rfl
@[simp] theorem Mgmt.run_policy (m : Mgmt) (slot : Bool) : (m.run slot).policy = m.policy := rfl
@[simp] theorem Mgmt.run_sdbase (m : Mgmt) (slot : Bool) : (m.run slot).sdbase = m.sdbase := rfl
@[simp] theorem Mgmt.run_sdlen (m : Mgmt) (slot : Bool) : (m.run slot).sdlen = m.sdlen := rfl
@[simp] theorem Mgmt.run_sdReqBase (m : Mgmt) (slot : Bool) : (m.run slot).sdReqBase = m.sdReqBase := rfl
@[simp] theorem Mgmt.run_sdReqLen (m : Mgmt) (slot : Bool) : (m.run slot).sdReqLen = m.sdReqLen := rfl
@[simp] theorem Mgmt.run_sdctx (m : Mgmt) (slot : Bool) : (m.run slot).sdctx = m.sdctx := rfl
@[simp] theorem Mgmt.run_sdall (m : Mgmt) (slot : Bool) : (m.run slot).sdall = m.sdall := rfl
@[simp] theorem Mgmt.run_sdBusy (m : Mgmt) (slot : Bool) : (m.run slot).sdBusy = m.sdBusy := rfl
@[simp] theorem Mgmt.run_sdDone (m : Mgmt) (slot : Bool) : (m.run slot).sdDone = m.sdDone := rfl
@[simp] theorem Mgmt.run_fqbase (m : Mgmt) (slot : Bool) : (m.run slot).fqbase = m.fqbase := rfl
@[simp] theorem Mgmt.run_fqlog (m : Mgmt) (slot : Bool) : (m.run slot).fqlog = m.fqlog := rfl
@[simp] theorem Mgmt.run_fqprod (m : Mgmt) (slot : Bool) : (m.run slot).fqprod = m.fqprod := rfl
@[simp] theorem Mgmt.run_fqcons (m : Mgmt) (slot : Bool) : (m.run slot).fqcons = m.fqcons := rfl
@[simp] theorem Mgmt.run_fqHeld (m : Mgmt) (slot : Bool) : (m.run slot).fqHeld = m.fqHeld := rfl
@[simp] theorem Mgmt.run_fqWaiting (m : Mgmt) (slot : Bool) : (m.run slot).fqWaiting = m.fqWaiting := rfl
@[simp] theorem Mgmt.run_msix (m : Mgmt) (slot : Bool) : (m.run slot).msix = m.msix := rfl
@[simp] theorem Mgmt.run_stopped (m : Mgmt) (slot : Bool) : (m.run slot).stopped = m.stopped := rfl
@[simp] theorem Mgmt.run_linksDown (m : Mgmt) (slot : Bool) : (m.run slot).linksDown = m.linksDown := rfl

/-! ### Reset -/

/-- Every memory of the package is in its canonical form at reset. -/
theorem State.reset_wf : State.reset.hbm.base.wf = true ∧ State.reset.host.base.wf = true
    ∧ ∀ c, (State.reset.coreAt c).well.base.wf = true ∧ (State.reset.coreAt c).urs.base.wf = true
      ∧ (State.reset.coreAt c).cist.data.base.wf = true ∧ (State.reset.coreAt c).istore.wf = true := by
  refine ⟨rfl, rfl, fun c => ?_⟩
  have : State.reset.coreAt c = {} := by simp [State.coreAt, State.reset]
  rw [this]
  exact ⟨rfl, rfl, rfl, rfl⟩

end Machine
end Sys2Proof
end

