-- ==== Sys2Proof/Laws/Visible.lean ====
section
/-! SUPPORT. What making writes performed can do (R300-R306): only who sees a write changes, and in a well where it stands once it
arrives. The registers, the queues and the canonical form of every memory stay. -/

namespace Sys2Proof
namespace Machine

/-- Only the visibility of writes has changed in one memory. -/
structure VMem.Shown (v w : VMem) : Prop where
  latest : ∀ a, w.latest a = v.latest a
  wf : v.base.wf = true → w.base.wf = true

theorem VMem.Shown.refl (v : VMem) : v.Shown v := ⟨fun _ => rfl, id⟩

theorem VMem.Shown.trans {u v w : VMem} (h : u.Shown v) (h' : v.Shown w) : u.Shown w :=
  ⟨fun a => (h'.latest a).trans (h.latest a), fun hw => h'.wf (h.wf hw)⟩

/-- Writes shown to more observers, and the leading ones that all have seen settled. -/
theorem VMem.shown_map (full : Nat) (v : VMem) (f : PWrite → PWrite) (hf : ∀ w, (f w).cells = w.cells) :
    v.Shown (settle full v.base (v.pend.map f)) := by
  refine ⟨fun a => ?_, fun h => settle_wf full v.base _ h⟩
  rw [settle_latest]
  unfold VMem.latest
  rw [List.foldl_map]
  simp only [hf]

theorem VMem.shown_perform (v : VMem) (ids : List Nat) (m : Nat) : v.Shown (v.perform ids m) :=
  VMem.shown_map globalAll v _ (fun w => by split <;> rfl)

/-- No write is pending to byte `a` of a well that has not arrived there (R20, R302). -/
def VMem.AllIn (v : VMem) (a : Nat) : Prop := ∀ w ∈ v.pend, w.seen = 0 → ∀ c ∈ w.cells, c.1 ≠ a

/-- In one well writes have become visible, and some have arrived, each at the end of the coherence order. -/
structure VMem.Arrived (v w : VMem) : Prop where
  late : ∀ x ∈ w.pend, x.seen = 0 → ∃ y ∈ v.pend, y.seen = 0 ∧ y.cells = x.cells
  latest : ∀ a, v.AllIn a → w.latest a = v.latest a
  wf : v.base.wf = true → w.base.wf = true

theorem VMem.Arrived.refl (v : VMem) : v.Arrived v := ⟨fun x h h0 => ⟨x, h, h0, rfl⟩, fun _ _ => rfl, id⟩

theorem VMem.Arrived.allIn {v w : VMem} (h : v.Arrived w) {a : Nat} (ha : v.AllIn a) : w.AllIn a := by
  intro x hx h0
  obtain ⟨y, hy, hy0, hc⟩ := h.late x hx h0
  exact hc ▸ ha y hy hy0

theorem VMem.Arrived.trans {u v w : VMem} (h : u.Arrived v) (h' : v.Arrived w) : u.Arrived w where
  late x hx h0 := by
    obtain ⟨y, hy, hy0, hc⟩ := h'.late x hx h0
    obtain ⟨z, hz, hz0, hc'⟩ := h.late y hy hy0
    exact ⟨z, hz, hz0, hc'.trans hc⟩
  latest a ha := (h'.latest a (h.allIn ha)).trans (h.latest a ha)
  wf hw := h'.wf (h.wf hw)

theorem mem_of_mem_settle {full : Nat} {base : Memory} {l : List PWrite} {w : PWrite} (h : w ∈ (settle full base l).pend) : w ∈ l := by
  induction l generalizing base with
  | nil => exact h
  | cons x r ih =>
    unfold settle at h
    split at h
    · exact .tail _ (ih h)
    · exact h

/-- A write without a byte at `a` has no place in the order of the writes there. -/
theorem latest_filter (p : PWrite → Bool) (l : List PWrite) (a : Nat) (hl : ∀ w ∈ l, p w = false → ∀ c ∈ w.cells, c.1 ≠ a) (z : Byte) :
    (l.filter p).foldl (fun acc w => (List.lookup a w.cells).getD acc) z = l.foldl (fun acc w => (List.lookup a w.cells).getD acc) z := by
  induction l generalizing z with
  | nil => rfl
  | cons w r ih =>
    have hr := fun x hx => hl x (.tail _ hx)
    by_cases hp : p w = true
    · simp only [List.filter_cons, hp, if_true, List.foldl_cons, ih hr]
    · have hn : List.lookup a w.cells = none := by
        rw [List.lookup_eq_none_iff]
        intro c hc
        simpa using (hl w (.head _) (by simpa using hp) c hc).symm
      simp only [List.filter_cons, hp, if_false, List.foldl_cons, hn, Option.getD_none, ih hr, Bool.false_eq_true]

/-- Writes that arrive in a well take their place at the end of its coherence order (R20, R302). -/
theorem VMem.arrived_performWell (x : Nat) (v : VMem) (ids : List Nat) (m : Nat) (rel : Bool) : v.Arrived (v.performWell x ids m rel) := by
  refine ⟨fun w hw h0 => ?_, fun a ha => ?_, fun h => settle_wf wellAll v.base _ h⟩
  · obtain ⟨y, hy, rfl⟩ := List.mem_map.1 (mem_of_mem_settle hw)
    have hv : y ∈ v.pend := by
      rcases List.mem_append.1 hy with h | h <;> exact (List.mem_filter.1 h).1
    refine ⟨y, hv, ?_, ?_⟩
    · split at h0
      · exact (Nat.or_eq_zero_iff.1 (Nat.or_eq_zero_iff.1 h0).1).1
      · exact h0
    · split <;> rfl
  · have hc : ∀ w : PWrite, (if ids.contains w.id then
      { w with seen := w.seen ||| wellMask (grain w (if w.seen = 0 then m ||| atomicSet w x else m)) ||| (if rel then pathsAll else 0) }
      else w).cells = w.cells := fun w => by split <;> rfl
    have h0 : ∀ w ∈ v.pend, (ids.contains w.id && w.seen == 0) = true → ∀ c ∈ w.cells, c.1 ≠ a :=
      fun w hw h => ha w hw (by simpa using (Bool.and_eq_true_iff.1 h).2)
    unfold VMem.performWell
    rw [settle_latest]
    unfold VMem.latest
    rw [List.foldl_map]
    simp only [hc]
    have e := latest_filter (fun _ => false) (v.pend.filter (fun w => ids.contains w.id && w.seen == 0)) a
      (fun w hw _ => h0 w (List.mem_filter.1 hw).1 (List.mem_filter.1 hw).2)
    simp only [List.filter_false, List.foldl_nil] at e
    rw [List.foldl_append, ← e]
    exact latest_filter (fun w => !(ids.contains w.id && w.seen == 0)) v.pend a
      (fun w hw hp => h0 w hw (by simpa only [Bool.not_eq_false'] using hp)) _

theorem VMem.shown_show (full : Nat) (v : VMem) (p : PWrite → Bool) (obs : Nat) : v.Shown (v.show_ full p obs) :=
  VMem.shown_map full v _ (fun w => by split <;> rfl)

/-- Only the visibility of writes in HBM, host memory and the wells has changed. -/
structure State.Shown (s t : State) : Prop where
  eq : t = { s with hbm := t.hbm, host := t.host, cores := t.cores }
  core : ∀ c, t.coreAt c = { s.coreAt c with well := (t.coreAt c).well }
  hbm : s.hbm.Shown t.hbm
  host : s.host.Shown t.host
  well : ∀ c, (s.coreAt c).well.Arrived (t.coreAt c).well

theorem State.Shown.refl (s : State) : s.Shown s :=
  ⟨rfl, fun _ => rfl, .refl _, .refl _, fun _ => .refl _⟩

theorem State.Shown.trans {s t u : State} (h : s.Shown t) (h' : t.Shown u) : s.Shown u where
  eq := by rw [h'.eq, h.eq]
  core c := by rw [h'.core c, h.core c]
  hbm := h.hbm.trans h'.hbm
  host := h.host.trans h'.host
  well c := (h.well c).trans (h'.well c)

theorem State.shown_showIds (s : State) (ids : List Nat) (m : Nat) (rel : Bool) : s.Shown (s.showIds ids m rel) := by
  unfold State.showIds
  split
  · exact .refl s
  · refine ⟨rfl, fun c => ?_, VMem.shown_perform _ _ _, VMem.shown_perform _ _ _, fun c => ?_⟩
    · simp only [State.coreAt, Vector.getElem_ofFn]
    · simp only [State.coreAt, Vector.getElem_ofFn]
      exact VMem.arrived_performWell _ _ _ _ _

theorem State.shown_performIds (fuel : Nat) (s : State) (ids : List Nat) (m : Nat) : s.Shown (State.performIds fuel s ids m) := by
  induction fuel generalizing s ids m with
  | zero => exact State.shown_showIds s ids m false
  | succ n ih =>
    unfold State.performIds
    refine State.Shown.trans (State.Shown.trans ?_ (State.shown_showIds _ (s.withEarlier ids) m false)) (State.shown_showIds _ _ 0 true)
    generalize s.pending (s.withEarlier ids) = ws
    generalize s.withEarlier ids = is
    induction ws generalizing s with
    | nil => exact .refl s
    | cons w r ihr =>
      rw [List.foldl_cons]
      refine State.Shown.trans ?_ (ihr _)
      split
      · exact .refl s
      · exact (ih s (s.withMates w.deps) w.scope).trans (State.shown_showIds _ _ _ true)

/-- Writes of some identifiers become performed: nothing changes but who sees what (R300). -/
theorem State.shown_perform (s : State) (ids : List Nat) (m : Nat) : s.Shown (s.perform ids m) :=
  State.shown_performIds s.relFuel s ids m

theorem State.shown_performDest (s : State) (core : Nat) (ids : List Nat) : s.Shown (s.performDest core ids) := by
  unfold State.performDest
  generalize s.pending ids = ws
  induction ws generalizing s with
  | nil => exact .refl s
  | cons w r ih =>
    rw [List.foldl_cons]
    exact (State.shown_perform s _ _).trans (ih _)

theorem State.shown_arrive (s : State) (c : Fin 128) (p : PWrite → Bool) : s.Shown (s.arrive c p) := by
  unfold State.arrive
  dsimp only
  split
  · exact .refl s
  · exact State.shown_perform s _ _

theorem State.shown_flushTarget (s : State) (t : Target) (n : Nat) : s.Shown (s.flushTarget t n) := by
  unfold State.flushTarget
  split
  · exact State.shown_perform s _ _
  · exact .refl s

/-- A read first performs writes to its bytes, and nothing else changes (R300, R310). -/
theorem State.shown_beforeRead (s : State) (c : Fin 128) (n : Nat) (sp : WSpace) (own : Bool) (a len : Nat) :
    s.Shown (s.beforeRead c n sp own a len) := by
  unfold State.beforeRead
  dsimp only
  refine State.Shown.trans (t := if (s.ownIds c n sp a len).isEmpty then s else s.perform (s.ownIds c n sp a len) (2 ^ c.val)) ?_ ?_
  · split
    · exact .refl s
    · exact State.shown_perform s _ _
  · generalize (if (s.ownIds c n sp a len).isEmpty then s else s.perform (s.ownIds c n sp a len) (2 ^ c.val)) = u
    generalize List.filter _ _ = ws
    induction ws generalizing u with
    | nil => exact .refl u
    | cons w r ih => exact (State.shown_perform u _ _).trans (ih _)

/-- A read of a core's own well through path P performs writes to the bytes, and the stream notes whose writes it took (R306). -/
theorem State.pathRead_cases (s : State) (c : Fin 128) (n a len : Nat) :
    ∃ u, s.Shown u ∧ (s.pathRead c n a len = u
      ∨ ∃ ids, s.pathRead c n a len = u.modStream c n (fun t => { t with readIds := (t.readIds ++ ids).dedup })) := by
  refine ⟨s.beforeRead c n (.well c) true a len, State.shown_beforeRead s c n (.well c) true a len, ?_⟩
  unfold State.pathRead
  dsimp only
  split
  · exact .inl rfl
  · exact .inr ⟨_, rfl⟩

/-- A read of bytes to which no write is pending changes nothing. -/
theorem State.pathRead_quiet (s : State) (c : Fin 128) (n a len : Nat)
    (h : ∀ w ∈ (s.coreAt c).well.pend, w.touches (.well c) a len = false) : s.pathRead c n a len = s := by
  have hf : ∀ f : PWrite → Bool, (s.coreAt c).well.pend.filter (fun w => f w && w.touches (.well c) a len) = [] := fun f =>
    List.filter_eq_nil_iff.2 (fun w hw => by simp [h w hw])
  have hg : ∀ f g : PWrite → Bool, (s.coreAt c).well.pend.filter (fun w => f w && w.touches (.well c) a len && g w) = [] := fun f g =>
    List.filter_eq_nil_iff.2 (fun w hw => by simp [h w hw])
  simp [State.pathRead, State.beforeRead, State.readIdsAt, State.ownIds, State.vmem, hf, hg]

theorem State.shown_releaseCores (s : State) (dies : List Nat) : s.Shown (s.releaseCores dies) := State.shown_perform s _ _

theorem State.Shown.queue {s t : State} (h : s.Shown t) (q : BitVec 10) : t.queue q = s.queue q := by rw [h.eq]; rfl
theorem State.Shown.part {s t : State} (h : s.Shown t) (p : Nat) : t.part p = s.part p := by rw [h.eq]; rfl
theorem State.Shown.mgmt {s t : State} (h : s.Shown t) : t.mgmt = s.mgmt := by rw [h.eq]
theorem State.Shown.regs {s t : State} (h : s.Shown t) (c : Fin 128) : (t.coreAt c).regs = (s.coreAt c).regs := by rw [h.core c]

/-! ### Writes of the front end, the host and the save engine -/

/-- What a write to a translated target can do: bytes of HBM, host memory or one well, or a message sent. -/
structure State.Stored (s t : State) : Prop where
  eq : t = { s with hbm := t.hbm, host := t.host, cores := t.cores, sent := t.sent }
  core : ∀ c, t.coreAt c = { s.coreAt c with well := (t.coreAt c).well }

theorem State.Stored.refl (s : State) : s.Stored s := ⟨rfl, fun _ => rfl⟩

theorem State.Stored.trans {s t u : State} (h : s.Stored t) (h' : t.Stored u) : s.Stored u where
  eq := by rw [h'.eq, h.eq]
  core c := by rw [h'.core c, h.core c]

theorem State.Shown.stored {s t : State} (h : s.Shown t) : s.Stored t := ⟨by rw [h.eq], h.core⟩

theorem State.stored_writeTarget (s : State) (t : Target) (bs : List Byte) : s.Stored (s.writeTarget t bs) := by
  cases t <;> unfold State.writeTarget <;> dsimp only
  case hbm pa pte => split <;> exact ⟨rfl, fun _ => rfl⟩
  case host => exact ⟨rfl, fun _ => rfl⟩
  case window c o pte =>
    refine ⟨rfl, fun d => ?_⟩
    rw [State.coreAt_setCoreAt]
    split
    · subst_vars; rfl
    · rfl
  case peer => exact ⟨rfl, fun _ => rfl⟩
  all_goals exact .refl s

theorem State.stored_statusWrite (s : State) (ctx : BitVec 12) (va : W) (n : Nat) : s.Stored (s.statusWrite ctx va n) := by
  unfold State.statusWrite
  split
  · exact .refl s
  · split
    · exact .refl s
    · split
      · exact State.stored_writeTarget s _ _
      · exact .refl s

theorem State.stored_signalWrite (s : State) (ctx : BitVec 12) (va v : W) (add : Bool) : s.Stored (s.signalWrite ctx va v add) := by
  unfold State.signalWrite
  split
  · exact .refl s
  · split
    · exact .refl s
    · split
      · exact ⟨rfl, fun _ => rfl⟩
      · split
        · exact .refl s
        · exact (State.shown_flushTarget s _ 8).stored.trans (State.stored_writeTarget _ _ _)
      · exact State.stored_writeTarget s _ _

theorem State.Stored.queue {s t : State} (h : s.Stored t) (q : BitVec 10) : t.queue q = s.queue q := by rw [h.eq]; rfl
theorem State.Stored.part {s t : State} (h : s.Stored t) (p : Nat) : t.part p = s.part p := by rw [h.eq]; rfl
theorem State.Stored.mgmt {s t : State} (h : s.Stored t) : t.mgmt = s.mgmt := by rw [h.eq]

/-! ### Fault records -/

/-- A record reaches the hub: only its two lists grow, together by that record (R325). -/
theorem State.postRecord_eq (s : State) (r : Record) :
    s.postRecord r = { s with mgmt := { s.mgmt with
      fqHeld := (s.postRecord r).mgmt.fqHeld, fqWaiting := (s.postRecord r).mgmt.fqWaiting } } := by
  unfold State.postRecord
  dsimp only
  split <;> rfl

end Machine
end Sys2Proof
end

