-- ==== Sys2Proof/Tests/Slice0.lean ====
section
/-! SUPPORT. Tests of the model on small states: ill-formed terms, words written out from the manual's encodings, results computed by
hand from the rules, and for each statement with hypotheses a state that meets them. -/

namespace Sys2Proof
namespace Tests
open Sys2Proof.Machine

set_option maxRecDepth 100000
set_option Elab.async false

/-! ### Helpers -/

/-- A kernel with a text of 200 lines and its handler at line 100, and a cell of it. -/
def kern : Kernel := { trapv := 100, textlen := 200, viewt := 0x8000, viewa := 0x20000, wlim := 65536 }
def cell : Cell := { id := 0, queue := 3, part := 0, ctx := 0, linear := 0, wave := 0, sstep := 0, idx := [], kern := kern }
def core0 : Core := { cell := some cell, kern := some kern }
/-- Core 0 as given, and engine `e`'s turn with a one-lane instruction at lane 1. -/
def at_ (e : Engine) (k : Core) : State :=
  { State.reset.setCoreAt 0 k with turn := { eng := e }, issue := { lane := 1, nextLane := 2, word := 0xABCD } }
/-- The state after, and core 0 after. -/
def after (o : Host.Outcome State Fault Refusal) : State :=
  match o with
  | .next t => t
  | _ => State.reset
def run (i : Instr) (e : Engine) (k : Core) : Core := (after (exec i (at_ e k))).coreAt 0
/-- A register of an engine holds a value. -/
def withS (e : Engine) (xs : List (Reg × W)) (k : Core) : Core := xs.foldl (fun k x => k.setS e x.1 x.2) k
def wellOf (a : Nat) (bs : List Byte) : VMem := { base := memOf a bs }
def hbmOf (s : State) (m : Memory) : State := { s with hbm := { base := m } }

/-! ### Ill-formed terms are refused, by the check that forbids them (R105, R110) -/

theorem test_wf_register_past_file : wellFormed .a (.add 32 0 0) = false ∧ wellFormed .m (.li 16 0) = false := by decide
theorem test_wf_send_to_itself : wellFormed .v (.send 1 .v) = false := by decide
theorem test_wf_wrong_engine : wellFormed .a .rett = false ∧ wellFormed .c .brf = false ∧ wellFormed .c (.mvx 0 0) = false := by decide
theorem test_wf_csr_unassigned : wellFormed .c (.csrr 1 0x007) = false := by decide
theorem test_wf_mcw_read_only : wellFormed .c (.mcw 1 0x040) = false := by decide
theorem test_wf_vector_destination : wellFormed .v (.vmov 60 1 4) = false ∧ wellFormed .v (.vmov 1 63 4) = false := by decide
theorem test_wf_vadd_float_type : wellFormed .v (.vadd 1 2 3 12) = false := by decide
theorem test_wf_vshl_float : wellFormed .v (.vshl 1 2 3 10) = false := by decide
theorem test_wf_rounding : wellFormed .v (.vfma 1 2 3 4 10 10 false 5) = false ∧ wellFormed .v (.vfma 1 2 3 4 10 10 true 1) = false := by decide
theorem test_wf_vcvt_width : wellFormed .v (.vcvt 1 2 4 2 false 0) = false := by decide
theorem test_wf_vdot_types : wellFormed .v (.vdot 1 2 3 4 4 4) = false := by decide
theorem test_wf_areg : wellFormed .m (.azero 8) = false := by decide
theorem test_wf_msrd_index : wellFormed .m (.msrd 1 0x10D) = false ∧ wellFormed .m (.mswr 1 0x112) = false := by decide
theorem test_wf_entry_flags : entryOk (.fill { spD := 1, ftile := 3 } 0 1 0) = false := by decide
theorem test_wf_entry_space : entryOk (.fill { spD := 3 } 0 1 0) = false := by decide
theorem test_wf_entry_cist : entryOk (.fill { spD := 2, esz := 1 } 0 1 0) = false := by decide
theorem test_wf_entry_flipv : entryOk (.flipv {} 1 2 true) = false := by decide
theorem test_wf_entry_fence : entryOk (.chainFence 3 0) = false ∧ entryOk (.chainFence 0 5) = false := by decide

/-! ### Words written out bit by bit -/

theorem test_word_addi : decodeInstr .c 0b100001_000001_000010_11111111111111#32 0 = some (.addi 1 2 0x3FFF) := by decide
theorem test_word_cmp : decodeInstr .m 0b101000_000011_000100_000101_111111_10#32 0 = some (.cmpLt 3 4 5 63) := by decide
theorem test_word_bins : decodeInstr .a 0b101011_000001_000010_001000_000111_00#32 0 = some (.bins 1 2 8 7) := by decide
theorem test_word_addr : decodeInstr .v 0b101111_000001_000010_000011_11_111111#32 0 = some (.addr 1 2 3 3 63) := by decide
theorem test_word_semw_reg : decodeInstr .c 0b111000_000010_00000111_0_000101_00000#32 0 = some (.semwReg 2 7 5) := by decide
theorem test_word_fence : decodeInstr .a 0b111111_000010_00011_11000_0000000000#32 0 = some (.fence 3 24) := by decide
theorem test_word_recv : decodeInstr .c 0b111111_000101_000111_10_000000000000#32 0 = some (.recv 7 .v) := by decide
theorem test_word_loopb : decodeInstr .c 0b000010_000001_0000111_110_0011_0101_00#32 0 = some (.loopb 1 7 6 3 5) := by decide
theorem test_word_csrw : decodeInstr .c 0b000100_000001_000000000101_00000000#32 0 = some (.csrw 1 5) := by decide
theorem test_word_tset : decodeInstr .a 0b000101_000000_000010_00000011_10_0000#32 0 = some (.tset 2 3 2) := by decide
theorem test_word_vldt : decodeInstr .v 0b000010_000001_000010_00000011_000000#32 0 = some (.vldt 1 2 3) := by decide
theorem test_word_vscan : decodeInstr .v 0b010010_000001_000010_000000_0100_0_1_10#32 0 = some (.vscan 1 2 4 true 2) := by decide
theorem test_word_vbnet : decodeInstr .v 0b010101_000001_000010_000000_0000_0_101#32 0 = some (.vbnet 1 2 5) := by decide
theorem test_word_mcfg_shadow : decodeInstr .m 0b000010_000001_1_00000000001_00000000#32 0 = some (.mcfgSh 1 1) := by decide
theorem test_word_msamp : decodeInstr .m 0b001010_00000000000000000000000000#32 0 = some .msamp := by decide
theorem test_word_guard : decodePfx .v 0b111100_00_000101_000011_1_00000000000#32 = some (.grd (.bit 5 3 true)) := by decide
theorem test_word_tok : decodePfx .a 0b111101_100_001_00000000000000000000#32 = some (.tok [.c] [.m]) := by decide
theorem test_word_reserved_bit : decodeInstr .c 0b101011_000001_000010_001000_000111_01#32 0 = none := by decide
theorem test_table_word : decodeTableWord 32 0b000001_01_011_000101_111111_1_0_101_0000 = some (.call 3 5 63 true 5) := by decide
theorem test_entry_jmp : decodeEntry ([0x24] ++ List.replicate 15 0 ++ [0xFE, 0xFF, 0xFF, 0xFF] ++ List.replicate 44 0)
    = some (.jmp 0xFFFFFFFE) := by decide
theorem test_entry_reserved_flag : decodeEntry ([0x0A, 0x80, 0x04, 3] ++ List.replicate 60 0) = none := by decide

/-! ### Results by hand from the rules -/

theorem test_add_wraps : (run (.add 1 2 3) .a (withS .a [(2, 0xFFFFFFFFFFFFFFFF), (3, 2)] core0)).getS .a 1 = 1 := by decide
theorem test_register_zero : (run (.addi 0 0 5) .c core0).getS .c 0 = 0 := by decide
theorem test_sra_signed : (run (.srai 1 1 4) .m (withS .m [(1, 0x8000000000000000)] core0)).getS .m 1 = 0xF800000000000000 := by decide
theorem test_mulh_negative : (run (.mulh 1 1 2) .c (withS .c [(1, 0xFFFFFFFFFFFFFFFF), (2, 2)] core0)).getS .c 1 = 0xFFFFFFFFFFFFFFFF := by
  decide
theorem test_div_by_zero : (run (.div 1 1 0) .a (withS .a [(1, 7)] core0)).getS .a 1 = 0xFFFFFFFFFFFFFFFF
    ∧ (run (.div 1 1 0) .a (withS .a [(1, 7)] core0)).csr.xflg = 2 := by decide
theorem test_div_overflow : (run (.div 1 1 2) .c (withS .c [(1, 0x8000000000000000), (2, 0xFFFFFFFFFFFFFFFF)] core0)).getS .c 1
    = 0x8000000000000000 := by decide
theorem test_rem_sign : (run (.rem 1 1 2) .c (withS .c [(1, 0xFFFFFFFFFFFFFFF9), (2, 2)] core0)).getS .c 1 = 0xFFFFFFFFFFFFFFFF := by
  decide
theorem test_clz_zero : (run (.clz 1 0) .c core0).getS .c 1 = 64 := by decide
theorem test_bins_field : (run (.bins 1 2 60 3) .c (withS .c [(1, 1), (2, 0xFF)] core0)).getS .c 1 = 0xF000000000000001 := by decide
theorem test_lui_sign : (run (.lui 1 0x80000) .c core0).getS .c 1 = 0xFFFFFFFE00000000 := by decide
theorem test_cmp_bit : (run (.cmpLt 1 2 3 63) .c (withS .c [(1, 1), (2, 0xFFFFFFFFFFFFFFFF)] core0)).getS .c 1 = 0x8000000000000001 := by
  decide
theorem test_scalar_in_v_waits : (run (.addi 1 0 5) .v core0).getS .v 1 = 0 ∧ (run (.addi 1 0 5) .v core0).vp.flights.length = 1 := by decide
theorem test_lds_extends : (run (.lds 1 0 0 3) .c { core0 with well := wellOf 3 [0x80] }).getS .c 1 = 0xFFFFFFFFFFFFFF80 := by decide
theorem test_ld_aligns : (run (.ld 1 2 1 0) .c (withS .c [(2, 5)] { core0 with well := wellOf 4 [1, 2] })).getS .c 1 = 0x201 := by decide
theorem test_st_own_path : (run (.st 1 0 0 9) .m (withS .m [(1, 0x1FF)] core0)).well.get 3 9 = 0xFF
    ∧ (run (.st 1 0 0 9) .m (withS .m [(1, 0x1FF)] core0)).well.get 0 9 = 0 := by decide
theorem test_semp_saturates : (run (.semp 0 0 1) .c { core0 with well := wellOf 0 [0xFF, 0xFF, 0xFF, 0xFF] }).csr.xflg = 4 := by decide
theorem test_semw_subtracts : (run (.semw 0 0 2) .c { core0 with well := wellOf 0 [3] }).semCount 0 = 1 := by decide
theorem test_trap_saves : (run (.trap 0x1234) .a core0).csr.tcause = 0x0E ∧ (run (.trap 0x1234) .a core0).csr.tinfo = 0x1234
    ∧ (run (.trap 0x1234) .a core0).ec.line = 100 := by decide
theorem test_trap_halts_without_handler : (run (.trap 1) .a { core0 with kern := some { kern with trapv := 0 } }).halted
    = some { code := 0x0E, eng := .a, info := 1, tline := 0b0_01_001_000000000000 } := by decide
theorem test_call_pushes_line : (run (.callUncond 2 0) .c core0).ec.stack = [.line 2] := by decide
theorem test_call_at_4094 : ((after (exec (.callUncond 2 0) { at_ .c core0 with issue := { line := 4094, lane := 1, nextLane := 2 } })).coreAt
    0).ec.stack = [.line 4096] := by decide
theorem test_prep : (run (.prep 2 0x1FFF) .c { core0 with ec := { line := 5 } }).regs.b[2] = 0xFFF := by decide
theorem test_loopb_arms : (run (.loopb 1 7 4 3 5) .c (withS .c [(1, 9)] core0)).em.outq = [.arm 9 8 4 3 5]
    ∧ (run (.loopb 1 7 4 3 5) .c (withS .c [(1, 9)] core0)).ec.seqNext = some 9 := by decide
theorem test_csrw_rounding : (run (.csrw 1 1) .c (withS .c [(1, 0x1D)] core0)).csr.vmode = 1 := by decide
theorem test_csrw_flag_clear : (run (.csrw 1 4) .c (withS .c [(1, 0x11)] { core0 with csr := { vflg := 0x1F } })).csr.vflg = 0x0E := by decide
theorem test_vst_offset_unsigned : (run (.vst 60 0 8192) .v { core0 with vp := { bp0 := 0xA5 } }).well.get 2 0x80000 = 0xA5 := by decide +kernel
theorem test_vadds_inexact : (run (.vadds 1 60 61 0) .v { core0 with vp := { bp0 := 0x7F, bp1 := 1 } }).vp.flights.map (·.flags) = [20] := by
  decide +kernel
theorem test_mvx_head : (run (.mvx 1 2) .a (withS .a [(1, 0x17F)] core0)).streams[2].queued.map (·.khead) = [0x140] := by decide
theorem test_tdef_tget : (run (.tget 3 2 0) .a (withS .a [(2, 7)] { core0 with
    tiles := vset core0.tiles 7 { base := 0x200, len := 0x400, state := .ready } })).getS .a 3 = 0x0200040000000200 := by decide
theorem test_astat : (run (.astat 1 3) .m { core0 with mx := { valid := 8 } }).getS .m 1 = 1 := by decide
theorem test_cstat_unbound : (run (.cstatClr 1 3) .m { core0 with cist := { unb := true } }).getS .m 1 = 0x0000400100000000 := by decide
theorem test_doorbell_overrun : ((after (exec (.doorbell 3 17) { State.reset with
    queues := vset State.reset.queues 3 { state := .active, logm := 4 } })).queue 3).state = .overrun := by decide
theorem test_corrected_error_saturates : vget (after (exec (.correctedError 2) { State.reset with
    mgmt := { State.reset.mgmt with cecnt := vset State.reset.mgmt.cecnt 2 0xFFFFFFFF } })).mgmt.cecnt 2 0 = 0xFFFFFFFF := by decide
theorem test_cas : atomNew 6 4 5 9 5 = 9 ∧ atomNew 6 4 5 9 4 = 5 ∧ atomNew 0 4 0xFFFFFFFF 2 0 = 1 := by decide

/-! ### Witnesses: for each statement with hypotheses, clause by clause, a state and operands that meet them -/

theorem witness_RegisterFile : sReg .c 63 = true ∧ sReg .a 31 = true ∧ sReg .v 31 = true ∧ sReg .m 15 = true ∧ sReg .m 0 = true := by
  decide
theorem witness_ScalarResults :
    ((at_ .c core0).eng ≠ .v ∧ wellFormed (at_ .c core0).eng (.div 63 1 0) = true
      ∧ aluResult (at_ .c core0).src (.div 63 1 0) = some (63, 0xFFFFFFFFFFFFFFFF, true))
    ∧ ((at_ .v core0).eng = .v ∧ wellFormed (at_ .v core0).eng (.addi 0 1 5) = true
      ∧ aluResult (at_ .v core0).src (.addi 0 1 5) = some (0, 5, false)) := by decide
theorem witness_Loads : sReg (at_ .a core0).eng 31 = true ∧ (at_ .a core0).poisoned (.well (at_ .a core0).turn.core)
    (((at_ .a core0).src 31).toNat % 2 ^ 23 / 8 * 8) 8 = false := by decide
/-- Semaphore 8 with a count of 2. -/
def semCore : Core := { core0 with well := wellOf 8 [2] }
theorem witness_Semaphores :
    (smOperands (at_ .a semCore).src (.semw 0 1 0) = some (true, 8, 0) ∧ (at_ .a semCore).core.quiet)
    ∧ (smOperands (at_ .a semCore).src (.semw 0 1 2) = some (true, 8, 2) ∧ ((at_ .a semCore).core.ctx .a).granted = none
      ∧ (2 : W32) ≠ 0 ∧ (2 : W32).toNat ≤ (at_ .a semCore).core.semCount 8)
    ∧ (smOperands (at_ .a semCore).src (.semw 0 1 3) = some (true, 8, 3) ∧ (at_ .a semCore).core.semCount 8 < (3 : W32).toNat)
    ∧ (smOperands (at_ .a semCore).src (.semp 0 1 1) = some (false, 8, 1) ∧ (at_ .a semCore).core.cell.isSome = true
      ∧ (at_ .a semCore).core.waiters = [])
    ∧ ((at_ .a { semCore with waiters := [(.v, 8, 3)] }).core.waiters = [(.v, 8, 3)]
      ∧ (3 : W32).toNat ≤ (at_ .a { semCore with waiters := [(.v, 8, 3)] }).core.semCount 8 + 1) := by
  refine ⟨⟨by decide, by unfold Core.quiet; decide⟩, by decide, by decide, by decide, by decide⟩
theorem witness_Semaphores_granted :
    ((at_ .a { semCore with ea := { granted := some {} } }).core.ctx .a).granted.isSome = true
      ∧ (at_ .a { semCore with ea := { granted := some {} } }).core.quiet
      ∧ (at_ .a semCore).poisoned (.well (at_ .a semCore).turn.core) (semAt 8) 8 = false :=
  ⟨by decide, by unfold Core.quiet; decide, by decide⟩
def eaCore (o : List Outc) (st : List RetEntry) : Core := { core0 with ea := { outq := o, stack := st } }
theorem witness_FollowerBranch :
    (brfKindOf .brfCall = some .call ∧ ((at_ .a (eaCore [.branch .call true 7] (List.replicate 7 (.line 1)))).core.ctx .a).outq
        = [.branch .call true 7]
      ∧ ((at_ .a (eaCore [.branch .call true 7] (List.replicate 7 (.line 1)))).core.ctx .a).stack.length < 8)
    ∧ (brfKindOf .brfRet = some .ret ∧ ∃ l r, ((at_ .a (eaCore [.branch .ret true 0] [.line 9])).core.ctx .a).stack = .line l :: r)
    ∧ (brfKindOf .brf = some .jump ∧ ((at_ .m { core0 with em := { outq := [.branch .jump false 7] } }).core.ctx .m).outq
        = [.branch .jump false 7]) := ⟨by decide, ⟨by decide, _, _, rfl⟩, by decide⟩
theorem witness_RoutineJoinReturn :
    (((at_ .a { core0 with ea := { outq := [.routine 5], stack := List.replicate 7 (.line 1) } }).core.ctx .a).outq = [.routine 5]
      ∧ ((at_ .a { core0 with ea := { outq := [.routine 5], stack := List.replicate 7 (.line 1) } }).core.ctx .a).stack.length < 8)
    ∧ (((at_ .a { core0 with ea := { outq := [.release 4095] } }).core.ctx .a).outq = [.release 4095] ∧ (4095 : LineIx).toNat < 4096)
    ∧ (((at_ .a { core0 with ea := { outq := [.release 4096] } }).core.ctx .a).outq = [.release 4096] ∧ 4096 ≤ (4096 : LineIx).toNat
      ∧ (at_ .a core0).core.handler = none ∧ (at_ .a core0).core.trapv ≠ 0 ∧ (at_ .a core0).issue.pushes = []
      ∧ ((at_ .a { core0 with ea := { outq := [.release 4096] } }).core.ctx .a).pushes = [])
    ∧ ((at_ .a { core0 with ea := { stack := [.ctrl 5 2] } }).core.handler = none
      ∧ ((at_ .a { core0 with ea := { stack := [.ctrl 5 2] } }).core.ctx .a).stack = [.ctrl 5 2]) := by decide
theorem witness_NopAndFence : (4 : Nat) < 5 ∧ (classMask 31).testBit 4 = true ∧ (classMask 31).testBit pathP = true ∧ (31 : BitVec 5) ≠ 0
    ∧ (classMask 8).testBit 4 = false
    -- a write of M's path to each store, which no other path sees yet; none has arrived in part
    ∧ (let w : PWrite := { id := 1, cells := [(0, 1)], seen := 8, path := 3 }
      let s := at_ .a { core0 with well := { pend := [w] }, urs := { pend := [w] } }
      (∀ w ∈ s.core.well.pend, w.seen ≠ 0) ∧ w ∈ s.core.urs.pend ∧ (classMask 31).testBit w.path = true
        ∧ w.seen.testBit w.path = true)
    -- a write of a stream of the core which has not arrived, and whose command is over
    ∧ (let w : PWrite := { id := 1, cells := [(0, 1)], seen := 0, path := 4, core := 0, cmd := 7 }
      let s := at_ .a { core0 with well := { pend := [w] } }
      w ∈ s.core.well.pend ∧ w.core = s.turn.core.val ∧ w.seen = 0 ∧ s.chunkOpen s.core.well pathP w = false
        ∧ (∃ x ∈ (s.arriveWell 0).core.well.pend, x.id = w.id)) := by decide
theorem witness_EndOfEngine :
    ((at_ .a core0).core.handler = none ∧ (at_ .a core0).core.ref.pc = .idle ∧ ((at_ .a core0).core.ctx .a).outq = []
      ∧ (at_ .a core0).issue.pushes = [] ∧ ((at_ .a core0).core.ctx .c).ended = false)
    ∧ ∀ x, x ≠ .a → ((at_ .a { core0 with ec := { ended := true }, ev := { ended := true }, em := { ended := true } }).core.ctx x).ended
        = true := by
  refine ⟨by decide, fun x hx => ?_⟩
  cases x
  · decide
  · exact absurd rfl hx
  · decide
  · decide
theorem witness_SendReceive : sReg (at_ .a core0).eng 31 = true
    ∧ (vget (at_ .a { core0 with vals := vset core0.vals 6 (List.replicate 7 1) }).core.vals
        (4 * (engNum .a).toNat + (engNum .v).toNat) []).length < 8
    ∧ 8 ≤ (vget (at_ .a { core0 with vals := vset core0.vals 6 (List.replicate 8 1) }).core.vals
        (4 * (engNum .a).toNat + (engNum .v).toNat) []).length
    ∧ vget (at_ .a { core0 with vals := vset core0.vals 9 [4, 5] }).core.vals (4 * (engNum .v).toNat + (engNum .a).toNat) [] = 4 :: [5]
    ∧ vget (at_ .a core0).core.vals (4 * (engNum .v).toNat + (engNum .a).toNat) [] = [] := by decide
/-- C with a return stack of `n` lines, and A's queue of `m` outcomes. -/
def brCore (n m : Nat) : Core :=
  { core0 with ec := { stack := List.replicate n (.line 3) }, ea := { outq := List.replicate m (.release 0) } }
def handler0 (code : BitVec 8) : Handler := { saved := {}, depth := 0, eng := .a, code := code, info := 0, tline := 0 }
theorem witness_CTransfers_handler :
    (at_ .c { core0 with handler := some (handler0 1) }).core.handler = some (handler0 1) ∧ (4 : BitVec 3) ≠ 0
      ∧ transferOf (at_ .c { core0 with handler := some (handler0 1) }) (.callUncond 1 4) = some (.call, true, 0, 4) := by decide
theorem witness_CTransfers :
    ((at_ .c (brCore 7 7)).eng = .c ∧ transferOf (at_ .c (brCore 7 7)) (.callUncond 1 4) = some (.call, true, 0, 4)
      ∧ (at_ .c (brCore 7 7)).core.handler = none ∧ (at_ .c (brCore 7 7)).core.ec.stack.length < 8
      ∧ (∀ e ∈ maskEngines 4, ((at_ .c (brCore 7 7)).core.ctx e).outq.length < (at_ .c (brCore 7 7)).core.slipw))
    ∧ (transferOf (at_ .c (brCore 1 8)) (.retUncond 4) = some (.ret, true, 0, 4) ∧ (at_ .c (brCore 1 8)).core.ec.stack = [.line 3]
      ∧ (∃ e ∈ maskEngines 4, (at_ .c (brCore 1 8)).core.slipw ≤ ((at_ .c (brCore 1 8)).core.ctx e).outq.length))
    ∧ ((at_ .c (brCore 0 7)).core.handler = none
      ∧ (∀ e, e ≠ .c → ((at_ .c (brCore 0 7)).core.ctx e).outq.length < (at_ .c (brCore 0 7)).core.slipw))
    ∧ ∃ e, e ≠ .c ∧ (at_ .c (brCore 0 8)).core.slipw ≤ ((at_ .c (brCore 0 8)).core.ctx e).outq.length := by
  refine ⟨by decide, ⟨by decide, by decide, .a, by decide, by decide⟩, ⟨by decide, fun e _ => ?_⟩, .a, by decide, by decide⟩
  cases e <;> decide
theorem witness_ControlRegisters : (at_ .c core0).eng = .c ∧ csrOk 0x001 = true ∧ csrOk 0x006 = true ∧ csrOk 0x01A = true
    ∧ csrOk 0x010 = true ∧ csrOk 0x015 = true ∧ csrOk 0x020 = true ∧ sReg .c 63 = true := by decide
/-- The team's point 0 as given, for the cell of core 0. -/
def teamAt (e : Engine) (x : Point) (k : Core) : State :=
  let s := at_ e k
  s.setPart 0 { s.part 0 with run := some (3, { index := 0, points := vset (Vector.replicate 24 {}) 0 x }) }
def tm (x : Point) : SStep := { index := 0, points := vset (Vector.replicate 24 {}) 0 x }
theorem witness_RendezvousPoints :
    ((teamAt .c {} core0).team = some (0, 3, tm {}, cell) ∧ (teamAt .c {} core0).core.handler = none ∧ (0 : BitVec 5).toNat < 24
      ∧ ((teamAt .c {} (withS .c [(1, 65535)] core0)).src 1).toNat = 65535 ∧ (tm {}).point 0 = {})
    ∧ (let x : Point := { now := 1, next := 0 }
      (tm x).point 0 = x ∧ x.count = none ∧ ((teamAt .c x (withS .c [(1, 1)] core0)).src 1).toNat = 1 ∧ 1 ≤ x.now ∧ x.next < 1)
    ∧ (let x : Point := { now := 1, next := 1 }
      x.count = none ∧ 1 ≤ x.now ∧ 1 ≤ x.next)
    ∧ (let x : Point := { count := some 2, now := 1, next := 2 }
      x.arrival cell.linear = x.phase ∧ 2 ≤ x.now + 1 ∧ 2 ≤ x.next)
    ∧ (let x : Point := { count := some 3, now := 1 }
      x.arrival cell.linear = x.phase ∧ x.now + 1 < 3)
    ∧ (let x : Point := { count := some 2, now := 1, next := 1 }
      x.arrival cell.linear = x.phase ∧ 2 ≤ x.now + 1 ∧ x.next < 2)
    ∧ (let x : Point := { arrivals := [(0, 1)] }
      x.count = none ∧ x.arrival cell.linear = x.phase + 1)
    ∧ (let x : Point := { arrivals := [(0, 2)] }
      x.phase + 2 ≤ x.arrival cell.linear)
    ∧ ((teamAt .c { phase := 1 } core0).src 0).toNat < (1 : Nat)
    ∧ ((teamAt .c {} core0).core.trapv ≠ 0 ∧ 24 ≤ (24 : BitVec 5).toNat
      ∧ ((tm { count := some 1 }).point 0).count ≠ none ∧ (teamAt .c {} core0).src 0 = 0
      ∧ 65535 < ((teamAt .c {} (withS .c [(1, 65536)] core0)).src 1).toNat)
    ∧ (({ phase := 1 } : Point).arrival cell.linear < ({ phase := 1 } : Point).phase
      ∧ ({} : Point).phase + 1 < ((teamAt .c {} (withS .c [(1, 2)] core0)).src 1).toNat)
    ∧ (let x : Point := { count := some 3, now := 2, arrivals := [(0, 1)] }
      (∀ c, x.count = some c → x.now < c) ∧ x.arrival cell.linear = x.phase + 1)
    ∧ (0 ≤ ((teamAt .c {} core0).src 0).toNat ∧ ((teamAt .c {} (withS .c [(1, 1)] core0)).src 1).toNat ≤ 0 + 1) :=
  ⟨by decide, by decide, by decide, by decide, by decide, by decide, by decide, by decide, by decide, by decide, by decide,
    ⟨fun c h => by cases h; decide, by decide⟩, by decide⟩
/-- A well-formed REFINE block at 128: n 1, offsets at multiples of 8, rungs 0, all actions stop, routines in the text. -/
def rfCore : Core := { core0 with
  well := wellOf 128 ([1, 0, 0, 0, 5, 0, 0, 0] ++ [0, 1, 0, 0] ++ [0, 2, 0, 0] ++ [0, 3, 0, 0] ++ List.replicate 28 0 ++ [10, 0, 20, 0, 30, 0])
  istore := memOf 0 (leBytes 4 0xFFFFFF0) }
theorem witness_RefineStarts :
    let s := at_ .c rfCore
    s.eng = .c ∧ s.core.handler = none ∧ (s.src 0 + (128 : BitVec 14).signExtend 64).toNat % 2 ^ 23 % 128 = 0
      ∧ blockOk s.core.textLen ((List.range 128).map (fun j => s.core.well.get (pathOf .m)
          (((s.src 0 + (128 : BitVec 14).signExtend 64).toNat % 2 ^ 23 + j) % 2 ^ 23))) = true
      ∧ s.core.ec.stack.length < 8 ∧ s.core.ref.pc = .idle ∧ laterC s.core s.issue = false
      ∧ s.poisoned (.well s.turn.core) ((s.src 0 + (128 : BitVec 14).signExtend 64).toNat % 2 ^ 23) 64 = false := by decide
/-- Page tables that map every address of context 0 below 32 GiB to itself, with every right. -/
def identityMap : Memory := [(0x10000, 1), (0x10004, 2), (0x20000, 0x0F), (0x20001, 0x08)]
def mapped (s : State) (m : Memory) : State :=
  { s with ctxTable := vset s.ctxTable 0 0x1000000001, hbm := { base := identityMap.putAll m } }
theorem test_walk : walk (mapped State.reset []) 0 0x12345678 = .ok (2, 0x80F) := by decide
theorem test_walk_not_valid : walk (mapped State.reset []) 0 0x0080000000000000 = .error (1, 3) := by decide
/-- Queue 3 as given, over the identity map. -/
def queued (x : Queue) (s : State) : State := (mapped s []).setQueue 3 x
def q0 : Queue := { rbase := 0x100000, idxva := 0x200000, saveva := 0x300000, logm := 4, tickets := 1, state := .active }
theorem witness_LaunchStatus :
    let s := at_ .c (withS .c [(1, 3), (2, 1024)] core0)
    (s.eng = .c ∧ sReg .c 63 = true ∧ s.poisoned (.well s.turn.core) ((s.src 0).toNat % 2 ^ 23 / 64 * 64) 64 = false)
    ∧ 1023 < (s.src 2).toNat
    ∧ ((s.src 1).toNat ≤ 1023 ∧ (s.queue 3).state = .unbound)
    ∧ (let s := queued { q0 with state := .overrun } s
      (s.src 1).toNat ≤ 1023 ∧ (s.queue 3).state = .overrun ∧ BitVec.ofNat 12 (s.queue 3).ctx.toNat = (s.core.cell.map (·.ctx)).getD 0)
    ∧ (let s := queued { q0 with idxva := 0x0080000000000000 } s
      (s.queue 3).state = .active ∧ BitVec.ofNat 12 (s.queue 3).ctx.toNat = (s.core.cell.map (·.ctx)).getD 0
        ∧ ringTarget s (s.queue 3) (s.queue 3).idxva .rmw = none)
    ∧ (let s := queued q0 s
      let tg : Target := .hbm 0x200000 0x80F
      let s0 := s.flushTarget tg 8
      (s.src 1).toNat ≤ 1023 ∧ (s.queue 3).state = .active ∧ ringTarget s (s.queue 3) (s.queue 3).idxva .rmw = some tg
        ∧ (ringRead s (s.queue 3) (s.queue 3).idxva 8).isSome = true
        ∧ (s.memory true).pend = [] ∧ (s.memory false).pend = []
        ∧ BitVec.ofNat 64 (leNat (latestTarget s0 tg 8)) = (0 : W)
        ∧ ringTarget s (s.queue 3) (slotVA (s.queue 3) 0) .write = some (.hbm 0x100000 0x80F)
        ∧ ((0 : W) - (s.queue 3).read).toNat < 2 ^ (s.queue 3).logm.toNat)
    ∧ (let s := queued { q0 with read := 0 - 16 } s
      BitVec.ofNat 64 (leNat (latestTarget (s.flushTarget (.hbm 0x200000 0x80F) 8) (.hbm 0x200000 0x80F) 8)) = (0 : W)
        ∧ 2 ^ (s.queue 3).logm.toNat ≤ ((0 : W) - (s.queue 3).read).toNat)
    ∧ (let s := queued { q0 with rbase := 0x0080000000000000 } s
      BitVec.ofNat 64 (leNat (latestTarget (s.flushTarget (.hbm 0x200000 0x80F) 8) (.hbm 0x200000 0x80F) 8)) = (0 : W)
        ∧ ringTarget s (s.queue 3) (slotVA (s.queue 3) 0) .write = none) := by decide
theorem witness_LaunchStatus_places :
    plainTarget (.hbm 0x100000 0x80F) 64 ∧ plainTarget (.hbm 0x200000 0x80F) 8
      ∧ (∀ h y, ¬ (targetHas (.hbm 0x200000 0x80F) 8 h y ∧ targetHas (.hbm 0x100000 0x80F) 64 h y))
      ∧ ¬ targetHas (.hbm 0x200000 0x80F) 8 false 0 ∧ ¬ targetHas (.hbm 0x100000 0x80F) 64 false 0 := by
  refine ⟨⟨by decide, by decide⟩, ⟨by decide, by decide⟩, ?_, fun h => absurd h.2.1 (by decide), fun h => absurd h.2.1 (by decide)⟩
  rintro h y ⟨⟨_, a, _⟩, ⟨_, _, b⟩⟩
  omega
theorem witness_TrapEntry : ((at_ .a core0).core.handler = none ∧ (at_ .a core0).core.trapv ≠ 0)
    ∧ ((at_ .a { core0 with kern := some { kern with trapv := 0 } }).core.cell = some cell
      ∧ (at_ .a { core0 with kern := some { kern with trapv := 0 } }).core.halted = none
      ∧ (at_ .a { core0 with kern := some { kern with trapv := 0 } }).core.handler = none
      ∧ (at_ .a { core0 with kern := some { kern with trapv := 0 } }).core.trapv = 0)
    ∧ (at_ .c { core0 with handler := some (handler0 1) }).core.handler = some (handler0 1) := by decide
theorem witness_ReturnFromHandler :
    ((at_ .c { core0 with handler := some (handler0 0x0E) }).eng = .c
      ∧ (at_ .c { core0 with handler := some (handler0 0x0E) }).core.handler = some (handler0 0x0E)
      ∧ (at_ .c { core0 with handler := some (handler0 0x0E) }).core.ec.stack.length = (handler0 0x0E).depth
      ∧ [0x01, 0x09, 0x0C, 0x0D, 0x0E, 0x10].contains (handler0 0x0E).code.toNat = true)
    ∧ (at_ .c { core0 with handler := some (handler0 0x0E), ec := { stack := [.line 1] } }).core.ec.stack.length ≠ (handler0 0x0E).depth
    ∧ [0x01, 0x09, 0x0C, 0x0D, 0x0E, 0x10].contains (handler0 0x02).code.toNat = false := by decide
theorem canTrap_core0 : core0.canTrap := ⟨rfl, by decide⟩
theorem witness_ControlTraps : (at_ .a core0).core.canTrap
    ∧ (brfKindOf .brf = some .jump ∧ ((at_ .a { core0 with ea := { outq := [.branch .call true 1] } }).core.ctx .a).outq
        = [.branch .call true 1] ∧ TKind.call ≠ .jump)
    ∧ 8 ≤ ((at_ .a { core0 with ea := { outq := [.branch .call true 1], stack := List.replicate 8 (.line 0) } }).core.ctx .a).stack.length
    ∧ (((at_ .a { core0 with ea := { outq := [.branch .ret true 1] } }).core.ctx .a).outq = [.branch .ret true 1]
      ∧ ((at_ .a { core0 with ea := { outq := [.branch .ret true 1] } }).core.ctx .a).stack = [])
    ∧ ((at_ .c (brCore 8 0)).eng = .c ∧ 8 ≤ (at_ .c (brCore 8 0)).core.ec.stack.length)
    ∧ (at_ .c core0).core.ec.stack = []
    ∧ ((at_ .a { core0 with ea := { outq := [.routine 1], stack := List.replicate 8 (.line 0) } }).core.ctx .a).outq = [.routine 1]
    ∧ ((at_ .a core0).core.ctx .a).stack = []
    ∧ (at_ .a { core0 with ref := { pc := .inRoutine } }).core.ref.pc ≠ .idle
    ∧ ((teamAt .c {} core0).team = some (0, 3, tm {}, cell) ∧ 24 ≤ (24 : BitVec 5).toNat)
    ∧ ((tm { count := some 1 }).point 0).count ≠ none ∧ (teamAt .c {} core0).src 0 = 0
    ∧ 65535 < ((teamAt .c {} (withS .c [(1, 65536)] core0)).src 1).toNat :=
  ⟨⟨by decide, by decide⟩, by decide, by decide, by decide, by decide, by decide, by decide, by decide, by decide, by decide,
    by decide, by decide, by decide⟩
def strmCore (x : Stream) : Core := { core0 with streams := vset core0.streams 2 x }
def chain0 : Chain := { khead := 0, cell := 0, tag := 0 }
theorem witness_AInstructions : (at_ .a core0).eng = .a
    ∧ ((at_ .a (strmCore { queued := List.replicate 3 chain0 })).core.stream 2).queued.length < 4
    ∧ 4 ≤ ((at_ .a (strmCore { queued := List.replicate 4 chain0 })).core.stream 2).queued.length
    ∧ (((at_ .a core0).core.stream 2).state = .idle ∧ ((at_ .a core0).core.stream 2).queued = [])
    ∧ ((at_ .a (strmCore { state := .active })).core.stream 2).state ≠ .idle
    ∧ ((at_ .a (strmCore { queued := [chain0] })).core.stream 2).queued ≠ []
    ∧ (vget (at_ .a core0).core.tiles (((at_ .a core0).src 0).toNat % 256 + 255) {}).held = none
    ∧ (vget (at_ .a { core0 with tiles := vset core0.tiles 255 { held := some 1 } }).core.tiles
        ((((at_ .a core0).src 0).toNat + (255 : BitVec 8).toNat) % 256) {}).held ≠ none := by decide
/-- Stream 2 suspended with one counted fault, on a core whose last context is 0. -/
def suspCore : Core := { strmCore { state := .suspended, flt := true, faults := 1 } with lastCtx := some 0 }
theorem witness_StreamsStopAndResume :
    ((at_ .a core0).eng = .a ∧ ((at_ .a core0).core.stream 2).inAtomic = false ∧ ((at_ .a core0).core.stream 2).state = .idle
      ∧ ((at_ .a core0).core.stream 2).queued = [])
    ∧ ((at_ .a (strmCore { state := .active })).core.stream 2).state ≠ .idle
    ∧ ((2 : Nat) < 4 ∧ (1 : Nat) < 2 ^ 30 ∧ (((at_ .a suspCore).coreAt 0).stream 2).state = .suspended
      ∧ (((at_ .a suspCore).coreAt 0).stream 2).flt = true ∧ ((at_ .a suspCore).coreAt 0).lastCtx = some 0
      ∧ (((at_ .a suspCore).coreAt 0).stream 2).faults % 2 ^ 30 = 1)
    ∧ (((at_ .a suspCore).coreAt 0).stream 2).faults % 2 ^ 30 ≠ 2 := by decide
theorem sound_at (e : Engine) (k : Core) : (at_ e k).sound := fun p hp => absurd hp (by simp [at_, State.reset, State.setCoreAt])
theorem allSound_at (e : Engine) (k : Core) : (at_ e k).allSound := fun p hp => absurd hp (by simp [at_, State.reset, State.setCoreAt])
def latchCore : Core := { core0 with csr := { vmode := 2 } }
theorem witness_VectorResults :
    ((at_ .v latchCore).sound ∧ vectorShape (.vadd 1 2 3 4) = some (1, 0, 1, 0, false)
      ∧ (at_ .v latchCore).core.csr.vmode.getLsbD 1 = true)
    ∧ ((at_ .v core0).sound ∧ vectorShape (.vfma 63 2 3 4 8 10 false 0) = some (63, 2, 2, 256, true)
      ∧ (at_ .v core0).core.csr.vmode.getLsbD 1 = false)
    ∧ vectorShape (.vwid 59 2 0 2 false 0) = some (59, 5, 2, 512, false) :=
  ⟨⟨sound_at .v _, rfl, by decide⟩, ⟨sound_at .v _, rfl, by decide⟩, rfl⟩
theorem witness_IntegerLanes : (at_ .v core0).sound ∧ (∃ f, laneValue (at_ .v core0) (.vadds 1 2 3 0) = some (1, 0, true, f))
    ∧ ∃ f, laneValue (at_ .v core0) (.vmul 63 2 3 6) = some (63, 6, false, f) := ⟨sound_at .v _, ⟨_, rfl⟩, _, rfl⟩
theorem witness_VectorToScalar : (at_ .v core0).sound ∧ typeInt 0 = true ∧ typeInt 7 = true ∧ typeInt 5 = true
    ∧ (∃ f u, (5 : BitVec 4) = 5 ∧ f = Nat.xor ∧ u = 0) ∧ ((8 : BitVec 4).toNat ∈ [8, 9, 10, 11] ∧ (11 : BitVec 4).toNat ∈ [8, 9, 10, 11]
      ∧ (2 : BitVec 4).toNat < 3) := ⟨sound_at .v _, by decide, by decide, by decide, ⟨_, _, rfl, rfl, rfl⟩, by decide⟩
theorem witness_VectorLoadsStores : (at_ .v core0).sound
    ∧ ((at_ .v { core0 with tiles := vset core0.tiles 255 { len := 512, state := .ready } }).core.tile 255).state = .ready
    ∧ ((at_ .v core0).core.tile 255).state ≠ .ready := ⟨sound_at .v _, by decide, by decide⟩
theorem witness_PatternsAndLatches : ((at_ .v core0).sound ∧ (at_ .v core0).core.csr.vmode.getLsbD 1 = false)
    ∧ ((at_ .v latchCore).sound ∧ (at_ .v latchCore).core.csr.vmode.getLsbD 1 = true) :=
  ⟨⟨sound_at .v _, by decide⟩, sound_at .v _, by decide⟩
/-- A VCHAIN descriptor: i32, one ADD, two elements, sources at 64 and 128, result at 192. -/
def chainBytes : List Byte := leBytes 4 64 ++ leBytes 4 128 ++ leBytes 4 192 ++ leBytes 4 2 ++ [4, 1] ++ List.replicate 46 0
def vchain0 : VChain := { src0 := 64, src1 := 128, dst := 192, n := 2, typ := 4, nops := 1, rm := 0, daz := false, k0 := 0, k1 := 0,
                          ops := List.replicate 8 0, e := 0, issue := (at_ .v core0).issue }
theorem witness_ChainElements : (at_ .v { core0 with well := wellOf 0 chainBytes }).sound
    ∧ readChain false ((List.range 64).map (fun j => (at_ .v core0).core.well.get (pathOf .v) ((0 + j) % 2 ^ 23))) (at_ .v core0).issue = none
    ∧ readChain false ((List.range 64).map (fun j => (at_ .v { core0 with well := wellOf 0 chainBytes }).core.well.get (pathOf .v)
        ((0 + j) % 2 ^ 23))) (at_ .v core0).issue = some vchain0
    ∧ (at_ .v core0).core.csr.vmode.getLsbD 0 = false
    ∧ ((at_ .v { core0 with vp := { chain := some vchain0 } }).core.vp.chain = some vchain0 ∧ vchain0.typ.toNat ∈ [4, 8, 9, 10]
      ∧ vchain0.rm.toNat < 4)
    ∧ (let c : VChain := { vchain0 with typ := 8, rm := 3, nops := 8, ops := [0x10, 0x21, 2, 3, 4, 5, 6, 0x17], daz := true, k0 := 0x3F80 }
      (at_ .v { core0 with vp := { chain := some c } }).core.vp.chain = some c ∧ c.typ.toNat ∈ [4, 8, 9, 10] ∧ c.rm.toNat < 4) :=
  ⟨sound_at .v _, by decide, by decide, by decide, by decide, by decide⟩
/-- R242, R243: 5 of SRC0 plus 7 of SRC1 times the constant K0 = 3, by hand. -/
theorem test_vchain_two_operations : (run .vchainElement .v { core0 with
    well := { base := memOf 64 [5] |>.putAll [(128, 7)] }
    vp := { chain := some { vchain0 with nops := 2, k0 := 3, ops := [0x00, 0x12] } } }).well.get 2 192 = 36 := by decide
def flying (d : VDest) : Core :=
  { core0 with vp := { flights := [{ rem := 0, dest := d, flags := 4, pushes := [] }, { rem := 1, dest := .none, flags := 0, pushes := [] }] } }
theorem witness_ResultLands :
    (∃ f rest, (at_ .v (flying (.scalar 1 5))).core.vp.flights = f :: rest ∧ f.rem = 0 ∧ (∀ g ∈ rest, g.rem ≠ 0) ∧ f.dest = .scalar 1 5)
    ∧ (∃ f rest, (at_ .v (flying (.pattern 7 0))).core.vp.flights = f :: rest ∧ f.rem = 0 ∧ (∀ g ∈ rest, g.rem ≠ 0)
        ∧ f.dest = .pattern 7 0)
    ∧ (∃ f rest, (at_ .v (flying (.latch 7 [0]))).core.vp.flights = f :: rest ∧ f.rem = 0 ∧ (∀ g ∈ rest, g.rem ≠ 0)
        ∧ f.dest = .latch 7 [0])
    ∧ (∃ f rest, (at_ .v (flying (.transient [1]))).core.vp.flights = f :: rest ∧ f.rem = 0 ∧ (∀ g ∈ rest, g.rem ≠ 0)
        ∧ f.dest = .transient [1])
    ∧ (∃ f rest, (at_ .v (flying (.vec 59 [(1, 255)]))).core.vp.flights = f :: rest ∧ f.rem = 0 ∧ (∀ g ∈ rest, g.rem ≠ 0)
        ∧ f.dest = .vec 59 [(1, 255)])
    ∧ ∀ g ∈ (at_ .v core0).core.vp.flights, g.rem ≠ 0 :=
  ⟨⟨_, _, rfl, rfl, by decide, rfl⟩, ⟨_, _, rfl, rfl, by decide, rfl⟩, ⟨_, _, rfl, rfl, by decide, rfl⟩,
    ⟨_, _, rfl, rfl, by decide, rfl⟩, ⟨_, _, rfl, rfl, by decide, rfl⟩, by decide⟩
theorem witness_MatrixRegisters : (0x3F : BitVec 11).toNat < 0x40 ∧ ((5 : Nat) < 6 ∧ (0x45 : BitVec 11).toNat = 0x40 + 5)
    ∧ 0x100 ≤ (0x115 : BitVec 12).toNat ∧ (at_ .m core0).core.bankOf (at_ .m core0).core.cellId (handleOf 63) = none
    ∧ (at_ .m core0).core.cist.free.length < 128 := by decide
/-- Handle 5 of the cell bound to bank 9; a stream owns it when `own`. -/
def boundCore (own : Bool) : Core :=
  { core0 with cist := {
      free := (List.finRange 64).filter (· != 9)
      sets := [{ cell := 0, binds := vset (Vector.replicate 64 none) 5 (some 9) }]
      own := if own then [{ stream := 1, cmd := 0, opnd := 0, of := .bank 9, lo := 0, hi := 3 }] else [] } }
theorem witness_AccumulatorsReleased :
    ((at_ .m (boundCore false)).core.bankOf (at_ .m (boundCore false)).core.cellId (handleOf 5) = some 9
      ∧ (at_ .m (boundCore false)).core.bankOwned 9 = false)
    ∧ ((at_ .m core0).core.bankOf (at_ .m core0).core.cellId (handleOf 5) = none ∧ (at_ .m core0).core.handler = none
      ∧ (at_ .m core0).core.trapv ≠ 0) := by decide
theorem witness_AccumulatorCopy :
    ((at_ .m (boundCore false)).allSound ∧ acpyOperands (.acpyAddI32ChA 5 7) = some (true, true, true, 5, 7)
      ∧ (∀ x, (at_ .m (boundCore false)).core.mx.held = some x → x.tgt ≠ .handle (handleOf 5) ∧ x.tgt ≠ .areg (aregOf 7))
      ∧ (at_ .m (boundCore false)).core.bankOf (at_ .m (boundCore false)).core.cellId (handleOf 5) = some 9
      ∧ (at_ .m (boundCore false)).core.bankOwned 9 = false)
    ∧ acpyOperands (.acpyACh 7 5) = some (false, false, false, 5, 7)
    ∧ ((at_ .m core0).core.bankOf (at_ .m core0).core.cellId (handleOf 5) = none
      ∧ (at_ .m core0).core.handleOwned (at_ .m core0).core.cellId (handleOf 5) = false ∧ (at_ .m core0).core.cist.free ≠ [])
    ∧ ((at_ .m { core0 with cist := { free := [] } }).core.canTrap ∧ (at_ .m { core0 with cist := { free := [] } }).core.cist.own = []
      ∧ (at_ .m { core0 with cist := { free := [] } }).core.cist.free = [])
    ∧ ((at_ .m (boundCore true)).core.bankOf (at_ .m (boundCore true)).core.cellId (handleOf 5) = some 9
      ∧ (at_ .m (boundCore true)).core.bankOwned 9 = true) :=
  ⟨⟨allSound_at .m _, rfl, fun x hx => absurd (show none = some x from hx) (by simp), by decide, by decide⟩, rfl, by decide,
    ⟨⟨by decide, by decide⟩, by decide, by decide⟩, by decide⟩
def held0 : Held := { tgt := .areg 0, acc := List.replicate 4096 0, mlim := 64, nlim := 64, actM := 0, actN := 0 }
def holdCore (t : MTarget) (k : Core) : Core := { k with mx := { k.mx with held := some { held0 with tgt := t } } }
/-- What is held for an a-register can be written back at once. -/
theorem writeBack_areg (s : State) (k : Core) (h : Held) (n : Fin 8) (hk : k.mx.held = some h) (ht : h.tgt = .areg n) :
    ∃ k1, k.writeBack s.tick s.nextId = .done k1 := by
  simp [Core.writeBack, hk, ht]
/-- An ACPY that names the held target, and one of another. -/
theorem witness_AccumulatorCopy_named :
    (let s := at_ .m (holdCore (.areg 7) (boundCore false));
      (∃ x, s.core.mx.held = some x ∧ (x.tgt = .handle (handleOf 5) ∨ x.tgt = .areg (aregOf 7)))
        ∧ ∃ k, s.core.writeBack s.tick s.nextId = .done k)
    ∧ (let s := at_ .m (holdCore (.areg 6) (boundCore false));
      ¬ ∃ x, s.core.mx.held = some x ∧ (x.tgt = .handle (handleOf 5) ∨ x.tgt = .areg (aregOf 7))) := by
  refine ⟨⟨⟨_, rfl, .inr (by decide)⟩, writeBack_areg _ _ _ 7 rfl rfl⟩, ?_⟩
  intro s ⟨x, hx, h⟩
  cases Option.some.inj hx
  rcases h with h | h <;> exact absurd h (by decide)
/-- A configuration bank of one step, i8 by i8, no tiles, target a0; and one with a reserved bit set. -/
def bank1 : Vector W 64 := Vector.replicate 64 0
def badBank : Vector W 64 := vset bank1 0 0x10000
theorem witness_NestStarts :
    (bankOk (at_ .m core0).core.mx.shadow = true ∧ (at_ .m core0).core.mx.held = none)
    ∧ (∃ k, (at_ .m core0).core.writeBack (at_ .m core0).tick (at_ .m core0).nextId = .done k)
    ∧ (bankOk (at_ .m { core0 with mx := { shadow := badBank } }).core.mx.shadow = false
      ∧ (at_ .m { core0 with mx := { shadow := badBank } }).core.canTrap)
    ∧ bankOk (at_ .m { core0 with mx := { active := badBank } }).core.mx.active = false :=
  ⟨by decide, ⟨_, rfl⟩, ⟨by decide, by decide, by decide⟩, by decide⟩
def nestCore : Core := { core0 with mx := { run := .nest false .start (BitVec.allOnes 64) (BitVec.allOnes 64) 0 {} } }
/-- The same with a source A from tile 255, which is not READY. -/
def tiledBank : Vector W 64 := vset (vset bank1 0 0x10) 9 255
theorem areg_writable (k : Core) (n : Fin 8) : k.writable (.areg n) := fun _ h => by cases h
theorem witness_MatrixSteps :
    ((at_ .m nestCore).allSound
      ∧ (at_ .m nestCore).core.mx.run = .nest false .start (BitVec.allOnes 64) (BitVec.allOnes 64) 0 {}
      ∧ (at_ .m nestCore).core.stepReady ∧ bankOk (at_ .m nestCore).core.mx.active = true)
    ∧ ((at_ .m { nestCore with mx := { nestCore.mx with active := tiledBank } }).core.mx.run
        = .nest false .start (BitVec.allOnes 64) (BitVec.allOnes 64) 0 {}
      ∧ (let s := at_ .m { nestCore with mx := { nestCore.mx with active := tiledBank } }
        bankOk s.core.mx.active = true ∧ ∃ e ∈ stepTiles s.core.mx.active s.core.mx.pos, (s.core.tile e).state ≠ .ready))
    ∧ Core.stepReady { core0 with mx := { core0.mx with pos := Vector.replicate 6 0, nstep := 0 } }
    ∧ (boundCore false).writable (.handle (handleOf 5))
    ∧ core0.writable (.handle (handleOf 5)) :=
  ⟨⟨allSound_at .m _, rfl, ⟨by decide, fun h hh => absurd (show none = some h from hh) (by simp), areg_writable _ 0⟩, by decide⟩,
    ⟨rfl, by decide, 255, by decide, by decide⟩,
    ⟨by decide, fun h hh => absurd (show none = some h from hh) (by simp), areg_writable _ 0⟩,
    fun h hh => by cases hh; exact .inl ⟨9, by decide, by decide⟩,
    fun h hh => by cases hh; exact .inr ⟨by decide, by decide, by decide⟩⟩
/-- Another target is held, whose write-back is possible, and the step's tiles are READY. -/
theorem witness_MatrixSteps_other :
    let s := at_ .m (holdCore (.areg 5) nestCore);
    (∃ h k1, s.core.mx.held = some h ∧ h.tgt ≠ targetAt s.core.mx.active (sigC s.core.mx.active s.core.mx.pos)
        ∧ s.core.writeBack s.tick s.nextId = .done k1 ∧ k1.writable (targetAt s.core.mx.active (sigC s.core.mx.active s.core.mx.pos)))
      ∧ (∀ e ∈ stepTiles s.core.mx.active s.core.mx.pos, (s.core.tile e).state = .ready)
      ∧ s.core.writable (.areg 5) := by
  obtain ⟨k1, h⟩ := writeBack_areg (at_ .m (holdCore (.areg 5) nestCore)) (at_ .m (holdCore (.areg 5) nestCore)).core _ 5 rfl rfl
  exact ⟨⟨_, k1, rfl, by decide, h, areg_writable _ 0⟩, by decide, areg_writable _ 5⟩
/-- Banks of f16 by f16 and of scaled e4m3 by e5m2. -/
def fpBank : Vector W 64 := vset bank1 0 0x9900
def mxBank : Vector W 64 := vset bank1 0 0xEDC0
theorem witness_IntegerProducts_float :
    (Bank.isInt fpBank = false ∧ typeWidth (Bank.atype fpBank) = typeWidth (Bank.btype fpBank) ∧ typeWidth (Bank.atype fpBank) = 16
      ∧ limitK fpBank (roleAt fpBank (Vector.replicate 6 0) 3 true) ≤ 1536 / typeWidth (Bank.atype fpBank))
    ∧ (Bank.isInt mxBank = false ∧ typeWidth (Bank.atype mxBank) = typeWidth (Bank.btype mxBank) ∧ typeWidth (Bank.atype mxBank) = 8
      ∧ Bank.sca mxBank = true ∧ Bank.scb mxBank = true
      ∧ limitK mxBank (roleAt mxBank (Vector.replicate 6 0) 3 true) ≤ 1536 / typeWidth (Bank.atype mxBank)) := by decide
theorem witness_IntegerProducts : ({ core0 with mx := { held := some held0 } } : Core).mx.held = some held0 ∧ held0.tgt = .areg 0
    ∧ held0.acc.length = 4096 ∧ Bank.atype bank1 = Bank.btype bank1 ∧ Bank.atype bank1 = 0
    ∧ limitK bank1 (roleAt bank1 (Vector.replicate 6 0) 3 true) ≤ 1536 / typeWidth (Bank.atype bank1) :=
  ⟨rfl, rfl, List.length_replicate, by decide, by decide, by decide⟩
/-- Sampling registers that both MALIAS and MSAMP accept: K = 256, SMAX 200; an f32 bank. -/
def samp0 : Vector W 32 := vset (vset (Vector.replicate 32 0) 1 256) 0xB 200
def fbank : Vector W 64 := vset bank1 0 0x8800
def sampCore (r : MRun) (h : Option Held) (c : Vector W 32) : Core := { core0 with samp := c, mx := { active := fbank, run := r, held := h } }
theorem witness_Sampling :
    ((at_ .m (sampCore .idle none samp0)).allSound ∧ (at_ .m (sampCore .idle none samp0)).core.mx.run = .idle
      ∧ aliasOk (at_ .m (sampCore .idle none samp0)).core.samp = true
      ∧ sampOk (at_ .m (sampCore .idle none samp0)).core.samp (at_ .m (sampCore .idle none samp0)).core.mx.active = true
      ∧ (at_ .m (sampCore .idle none samp0)).core.mx.held = none
      ∧ (vget (at_ .m (sampCore .idle none samp0)).core.samp 0x11 0).toNat % 4 = 0)
    ∧ ((at_ .m (sampCore (.table 0x7FFFF8 [1, 2] 3 0 0 none {}) none samp0)).core.mx.run = .table 0x7FFFF8 (1 :: [2]) 3 0 0 none {}
      ∧ (0 : Nat) < 8 - 0x7FFFF8 % 64 / 8)
    ∧ (at_ .m (sampCore (.table 8 [] 3 0 0 none {}) none samp0)).core.mx.run = .table 8 [] 3 0 0 none {}
    ∧ (aliasOk (at_ .m core0).core.samp = false ∧ sampOk (at_ .m core0).core.samp (at_ .m core0).core.mx.active = false
      ∧ (at_ .m core0).core.mx.run = .idle ∧ (at_ .m core0).core.canTrap)
    ∧ (sampOk (vset samp0 0x11 2) fbank = true ∧ (vget (vset samp0 0x11 2) 0x11 0).toNat % 4 ≠ 0
      ∧ (sampCore .idle none (vset samp0 0x11 2)).writable (targetAt fbank 0))
    ∧ ((at_ .m (sampCore (.samp (vset samp0 0xA 200) false 0 {}) (some held0) samp0)).core.mx.run = .samp (vset samp0 0xA 200) false 0 {}
      ∧ (at_ .m (sampCore (.samp (vset samp0 0xA 200) false 0 {}) (some held0) samp0)).core.mx.held = some held0
      ∧ (vget samp0 0x12 0).toNat + 1536 / typeWidth (Bank.atype fbank) < (vget (vset samp0 0xA 200) 0xA 0).toNat
      ∧ (vget samp0 0x12 0).toNat + 1536 / typeWidth (Bank.atype fbank) < (vget (vset samp0 0xA 200) 0xB 0).toNat)
    ∧ ((vget (vset samp0 0xB 96) 0xB 0).toNat ≤ (vget samp0 0x12 0).toNat + 1536 / typeWidth (Bank.atype fbank)
      ∧ (sampCore .idle none samp0).writable held0.tgt) :=
  ⟨⟨allSound_at .m _, rfl, by decide, by decide, by decide, by decide⟩, ⟨rfl, by decide⟩, rfl,
    ⟨by decide, by decide, rfl, by decide, by decide⟩, ⟨by decide, by decide, areg_writable _ 0⟩, ⟨rfl, rfl, by decide, by decide⟩,
    by decide, areg_writable _ 0⟩
/-- A target held before MSAMP. -/
theorem witness_Sampling_held :
    ∃ k1, (at_ .m (sampCore .idle (some { held0 with tgt := .areg 5 }) samp0)).core.writeBack
      (at_ .m (sampCore .idle (some { held0 with tgt := .areg 5 }) samp0)).tick
      (at_ .m (sampCore .idle (some { held0 with tgt := .areg 5 }) samp0)).nextId = .done k1 := writeBack_areg _ _ _ 5 rfl rfl
/-- A group after which MSAMP stops by its variance: no draw counts (a norm of zero) and STAU is infinite. -/
def samp1 : Vector W 32 := vset samp0 0xC 0x7FF0000000000000
def held1 : Held := { held0 with mlim := 0 }
theorem witness_Sampling_stop :
    let k := sampCore (.samp samp1 false 0 {}) (some held1) samp1
    let r := k.draws samp1 5000 96 0 96
    let h1 : Held := { held1 with acc := (sampSums r.1 fbank r.2 held1).1 }
    (decide ((vget samp1 0xA 0).toNat ≤ 96) && varStop (sampVar (vget samp1 0x10 0).toNat 96 (norm2 h1)) (vget samp1 0xC 0).toNat) = true := by
  decide +kernel
/-- The controller at a point, over a block with ACT `act`; A's queue holds `m` outcomes. -/
def refAt (pc : RfPc) (act : W32) (m : Nat) : Core :=
  { core0 with
    ref := { pc := pc, n := 1, off := 128, act := act, itmax := 5, tau := 0x3FF0000000000000, rung1 := 1 }
    ea := { outq := List.replicate m (.release 0) } }
/-- The controller at its test: residual and norm of b as given, TAU 0.5, RHO 1, after the etas of `hist`. -/
def testAt (r : Byte × Byte) (act : W32) (k : W32) (hist : List W) (line : Line) : Core :=
  { core0 with
    ref := {
      pc := .test, n := 1, off := 128, roff := 512, act := act, itmax := 5, k := k, tau := 0x3FE0000000000000, rho := 0x3FF0000000000000
      bn := 0x3FF0000000000000, hist := hist, rung1 := 1, issue := { line := line } }
    well := wellOf 518 [r.1, r.2] }
/-- η at the test. -/
def etaAt (k : Core) : W := (etaRule k.ref (k.largest k.ref.roff.toNat k.ref.n) (k.largest k.ref.xoff.toNat k.ref.n)).1
def refOf (k : W32) (rho : W) (hist : List W) : Refine := { itmax := 5, k := k, tau := 0x3FE0000000000000, rho := rho, hist := hist }
theorem room_of (k : Core) (h : ∀ e ∈ [Engine.a, .v, .m], (k.ctx e).outq.length < k.slipw) :
    ∀ e, e ≠ .c → (k.ctx e).outq.length < k.slipw := fun e he => h e (by cases e <;> simp_all)
theorem witness_RefineSequence :
    ((at_ .c (refAt .callFactor 0 0)).sound ∧ (at_ .c (refAt .callFactor 0 0)).core.ref.pc = .callFactor
      ∧ (∀ e, e ≠ .c → ((at_ .c (refAt .callFactor 0 7)).core.ctx e).outq.length < (at_ .c (refAt .callFactor 0 7)).core.slipw))
    ∧ ((at_ .c (refAt .callResid 0 8)).core.ref.pc = .callResid
      ∧ ¬ (∀ e, e ≠ .c → ((at_ .c (refAt .callResid 0 8)).core.ctx e).outq.length < (at_ .c (refAt .callResid 0 8)).core.slipw))
    ∧ (at_ .c (refAt .callSolve 0 0)).core.ref.pc = .callSolve
    ∧ ((at_ .c (refAt .release 0 7)).core.ref.pc = .release ∧ (at_ .c (refAt .release 0 8)).core.ref.pc = .release)
    ∧ ((at_ .c (testAt (0xF0, 0x3F) 0 0 [] 0)).core.ref.pc = .test ∧ (at_ .c (testAt (0xF0, 0x3F) 0 0 [] 0)).core.canTrap) :=
  ⟨⟨sound_at .c _, rfl, room_of _ (by decide)⟩, ⟨rfl, fun h => absurd (h .a (by decide)) (by decide)⟩, rfl, ⟨rfl, rfl⟩, rfl, rfl, by decide⟩
/-- Each class of exit: none, CONV, DIVG by a NaN, DIVG by growth, STAG, IMAX. -/
theorem witness_RefineSequence_eta :
    etaAt (testAt (0xF0, 0x3F) 0 0 [] 0) = 0x3FF0000000000000 ∧ etaAt (testAt (0xE0, 0x3F) 0 0 [] 0) = 0x3FE0000000000000
    ∧ etaAt (testAt (0xF8, 0x7F) 0 0 [] 0) = 0x7FF8000000000000 := by decide +kernel
theorem witness_RefineSequence_classes :
    exitClass (refOf 0 0 []) 0x3FF0000000000000 = 0
    ∧ exitClass (refOf 0 0 []) 0x3FE0000000000000 = 1
    ∧ exitClass (refOf 0 0 []) 0x7FF8000000000000 = 2
    ∧ exitClass (refOf 1 0x3FF0000000000000 [0x3FE8000000000000]) 0x3FF0000000000000 = 2
    ∧ exitClass (refOf 2 0x3FE0000000000000 [0x3FF0000000000000, 0x3FF0000000000000]) 0x3FF0000000000000 = 3
    ∧ exitClass (refOf 5 0x3FF0000000000000 []) 0x3FF0000000000000 = 4 := by
  unfold exitClass; decide +kernel
/-- The actions of class 1: stop at the line after REFINE, the last one included; a branch register; an escalation; a trap. -/
theorem witness_RefineSequence_actions :
    (actionOf (testAt (0xE0, 0x3F) 0 0 [] 4095).ref.act 1 = (0, 0)
      ∧ 4096 ≤ ((testAt (0xE0, 0x3F) 0 0 [] 4095).ref.issue.line.setWidth 13 + 1 : LineIx).toNat
      ∧ ((testAt (0xE0, 0x3F) 0 0 [] 4094).ref.issue.line.setWidth 13 + 1 : LineIx).toNat < 4096)
    ∧ actionOf (testAt (0xE0, 0x3F) 0x1D 0 [] 0).ref.act 1 = (1, 7)
    ∧ ((actionOf (testAt (0xE0, 0x3F) 2 0 [] 0).ref.act 1).1 = 2
      ∧ (testAt (0xE0, 0x3F) 2 0 [] 0).ref.rung < (testAt (0xE0, 0x3F) 2 0 [] 0).ref.rung1)
    ∧ (actionOf (testAt (0xE0, 0x3F) 3 0 [] 0).ref.act 1).1 = 3 := by decide
/-- Every engine stalled on something that does not hold. -/
def stuckCore (n : Nat) : Core :=
  { core0 with
    stall := n, ec := { wait := some (.valEmpty .a) }, ea := { wait := some (.valEmpty .c) }, ev := { ended := true }, em := { ended := true } }
/-- C stalled before lane 1 of line 0, which holds its NOP; and on the token push of lane 3 of line 5, whose queue is full. -/
theorem witness_StallCounter_places :
    (let k := { stuckCore 1 with ec := { lane := 1, wait := some (.valEmpty .a) }, istore := memOf 0 (leBytes 4 0x0FFFFFF0 ++ leBytes 4 0xFC000000) };
      [Engine.c, .a, .v, .m].find? (k.blocked (at_ .c k)) = some .c ∧ (k.ctx .c).pushes.find? (fun p => p.1.2 != 0) = none
        ∧ tagAt (k.lane 0 0) 1 = (engNum .c).toNat ∧ isPfx (k.lane 0 1) = false)
    ∧ (let k := { stuckCore 1 with ec := { lane := 1, wait := some .pushes, pushes := [((5, 3), [.a])] }, tok := Vector.replicate 16 15 };
      [Engine.c, .a, .v, .m].find? (k.blocked (at_ .c k)) = some .c
        ∧ (k.ctx .c).pushes.find? (fun p => p.1.2 != 0) = some ((5, 3), [.a])) := by decide
theorem witness_StallCounter :
    ((at_ .c { core0 with handler := some (handler0 1) }).core.handler ≠ none ∧ (at_ .c core0).core.cell ≠ none
      ∧ (at_ .c core0).core.halted = none)
    ∧ ((at_ .c core0).core.ref.pc ≠ .test ∧ ((at_ .c core0).core.ctx .c).ended = false
      ∧ (at_ .c core0).core.blocked (at_ .c core0) .c = false)
    ∧ (((at_ .c (strmCore { state := .active })).core.stream 2).state ≠ .idle)
    ∧ (∀ j, j < 4 → ((at_ .c (stuckCore 0)).core.stream j).state = .idle)
    ∧ (∀ e, ((at_ .c (stuckCore 0)).core.ctx e).ended = true ∨ (at_ .c (stuckCore 0)).core.blocked (at_ .c (stuckCore 0)) e = true)
    ∧ ((at_ .c (stuckCore 0)).core.stall + (2 ^ 24 - 1) < 2 ^ 24 ∧ 2 ^ 24 ≤ (at_ .c (stuckCore 1)).core.stall + (2 ^ 24 - 1)
      ∧ (at_ .c (stuckCore 1)).core.canTrap
      ∧ [Engine.c, .a, .v, .m].find? ((at_ .c (stuckCore 1)).core.blocked (at_ .c (stuckCore 1))) = some .c)
    ∧ ∀ e p x, ((at_ .c (stuckCore 0)).core.ctx e).wait ≠ some (.bwt p x) := by
  refine ⟨by decide, by decide, by decide, by decide, fun e => ?_, ⟨by decide, by decide, ⟨by decide, by decide⟩, by decide⟩, fun e p x => ?_⟩
  · cases e <;> decide
  · cases e <;> exact fun h => by cases h
/-- Partition 0 of die 0 runs a superstep of queue 3, on core 0 as given. -/
def running (ss : SStep) (w : Work) (k : Core) : State :=
  let s := at_ .c k
  let x : Queue := { q0 with work := some w, pkt := some { typ := 1, flags := 1 }, vec := 9 }
  (s.setPart 0 { s.part 0 with dies := [0], run := some (3, ss) }).setQueue 3 x
def ss1 : SStep := { index := 0, started := true, plan := [{ core := 0, waves := [(1, 17)] }] }
def ssEnd : SStep := { index := 0, started := true, plan := [{ core := 0, waves := [] }] }
def work1 : Work := { kern := kern, begun := true }
def kern2 : Kernel := { kern with levels := [(1, 2), (2, 16)] }
theorem witness_CellStarts :
    let s := running ss1 work1 { kern := some kern, heldOvf := true }
    partOf s 0 = some 0 ∧ (s.part 0).run = some (3, ss1) ∧ (s.queue 3).work = some work1 ∧ ss1.started = true
      ∧ ss1.plan.find? (fun e => e.core == 0) = some { core := 0, waves := [(1, 17)] } ∧ s.core.cell = none
      ∧ (∀ k, (s.queue 3).pkt = some k → k.typ ≠ 2) ∧ placeOf (s.part 0).dies 0 = some (0, 0) :=
  ⟨by decide, by decide, by decide, by decide, by decide, by decide, fun k h => by cases h; decide, by decide⟩
theorem witness_SuperstepEnds :
    (let s := running ssEnd { work1 with kern := kern2 } {};
      (s.part 0).run = some (3, ssEnd) ∧ superstepDone s ssEnd = true ∧ (s.queue 3).work = some { work1 with kern := kern2 }
        ∧ (0 : Nat) + 1 < kern2.supersteps)
    ∧ (let s := running ssEnd { work1 with kern := kern2, sstep := 1 } {};
      superstepDone s ssEnd = true ∧ kern2.supersteps ≤ 1 + 1 ∧ work1.nops ≤ work1.op + 1
        ∧ (s.queue 3).pkt = some { typ := 1, flags := 1 } ∧ (({ typ := 1, flags := 1 } : Packet).flags).getLsbD 0 = true) := by decide
/-- Partition 0 is idle; queue 3 has work, and queue 4 too, of a larger PASS and urgent when `u`. -/
def twoReady (u : Bool) : State :=
  let s := at_ .c core0
  let x : Queue := { q0 with work := some work1 }
  let y : Queue := { q0 with work := some work1, pass := 5, cls := if u then 1 else 0 }
  ((s.setPart 0 { s.part 0 with dies := [0] }).setQueue 3 x).setQueue 4 y
theorem reset_queue (q : BitVec 10) : State.reset.queue q = {} := vget_replicate 1024 q.toNat _
theorem mem_allQueues (q : BitVec 10) : q ∈ allQueues := List.mem_map.mpr ⟨q.toNat, List.mem_range.mpr q.isLt, by simp⟩
theorem ready_twoReady (u : Bool) (q : BitVec 10) : ((twoReady u).queue q).ready 0 = (q == 3 || q == 4) := by
  have h : (at_ .c core0).queue q = {} := reset_queue q
  simp only [twoReady, State.queue_setQueue, State.queue_setPart, h]
  by_cases h4 : (4 : BitVec 10) = q
  · subst h4; rfl
  · by_cases h3 : (3 : BitVec 10) = q
    · subst h3; rfl
    · rw [if_neg (fun e => h4 e.symm), if_neg (fun e => h3 e.symm), beq_false_of_ne (fun e => h3 e.symm), beq_false_of_ne (fun e => h4 e.symm)]
      rfl
theorem readyQueues_twoReady (u : Bool) : readyQueues (twoReady u) 0 = [3, 4] := by
  have h : (fun q => ((twoReady u).queue q).ready 0) = fun q => q == 3 || q == 4 := funext (ready_twoReady u)
  have h2 : (allQueues.filter fun q => q == 3 || q == 4) = [3, 4] := by decide +kernel
  exact (congrArg (fun f => allQueues.filter f) h).trans h2
theorem readyQueues_none : readyQueues (at_ .c core0) 0 = [] :=
  List.filter_eq_nil_iff.mpr (fun q _ => by rw [show (at_ .c core0).queue q = {} from reset_queue q]; decide)
theorem witness_SchedulerChooses :
    (chosenQueue (twoReady false) 0 = some 3 ∧ chosenQueue (twoReady true) 0 = some 4)
    ∧ (((twoReady false).part 0).run = none ∧ ((twoReady false).queue 3).work = some work1 ∧ work1.saved = none ∧ work1.parked = []
      ∧ ((twoReady false).part 0).resident = none)
    ∧ (chosenQueue (at_ .c core0) 0 = none ∧ ((at_ .c core0).part 0).run = none) := by
  refine ⟨⟨?_, ?_⟩, by decide, ?_, by decide⟩
  · simp only [chosenQueue, readyQueues_twoReady]; decide
  · simp only [chosenQueue, readyQueues_twoReady]; decide
  · simp only [chosenQueue, readyQueues_none]; decide
/-- Queue 3's superstep runs at `n` ns; queue 4 is ready when `o`. -/
def sliced (n : Nat) (o : Bool) : State :=
  let s := running ss1 work1 core0
  let s1 := { s with now := n }
  if o then s1.setQueue 4 { q0 with work := some work1 } else s1
theorem witness_TimesliceExpires :
    (((sliced 1999999 true).part 0).run = some (3, ss1) ∧ ss1.started = true ∧ ss1.halted = false
      ∧ ((sliced 1999999 true).queue 3).work = some work1
      ∧ (sliced 1999999 true).now < ((sliced 1999999 true).part 0).sliceFrom + ((sliced 1999999 true).part 0).tslice * 1000)
    ∧ (((sliced 2000000 false).part 0).sliceFrom + ((sliced 2000000 false).part 0).tslice * 1000 ≤ (sliced 2000000 false).now
      ∧ ¬ ∃ r, r ≠ 3 ∧ isRunnable (sliced 2000000 false) 0 r = true)
    ∧ (((sliced 2000000 true).part 0).sliceFrom + ((sliced 2000000 true).part 0).tslice * 1000 ≤ (sliced 2000000 true).now
      ∧ (∃ r, r ≠ 3 ∧ isRunnable (sliced 2000000 true) 0 r = true)
      ∧ ∀ e ∈ ss1.plan, ((sliced 2000000 true).coreAt e.core).vp.busy = false) := by
  refine ⟨by decide, ⟨by decide, ?_⟩, by decide, ⟨4, by decide, by decide⟩, by decide⟩
  rintro ⟨r, h3, hr⟩
  have hq : (sliced 2000000 false).queue r = {} := (State.queue_setQueue _ _ _ _).trans ((if_neg h3).trans (reset_queue r))
  have hp : ((sliced 2000000 false).part 0).run.map (·.1) = some 3 := by decide
  rw [isRunnable, hq, hp, Bool.or_eq_true] at hr
  rcases hr with hr | hr
  · exact absurd (show (({} : Queue).runnable 0) = true from hr) (by decide)
  · exact absurd (Option.some.inj (beq_iff_eq.mp hr)).symm h3
/-- Core 0's stream 2 as given, at its own turn. -/
def strmAt (x : Stream) (k : Core) : State :=
  { at_ .a { k with streams := vset k.streams 2 x } with turn := { eng := .a, stream := 2, what := .stream } }
def frame (i : W32) : LoopFrame := { start := 64, n := 5, i := i, ds := 0, dd := 0, dx := 0 }
def hdr1 : EntHdr := { spD := 1, esz := 2 }
def cmd1 (i : Instr) : Cmd := { entry := i, uid := 7, at_ := 0, index := 0, khead := 0, cell := 0, tag := 0 }
def active (l : List LoopFrame) (c : List Cmd) : Stream := { state := .active, loops := l, completing := c }
theorem witness_ChainControl :
    ((strmAt { queued := [chain0] } core0).str.state = .idle ∧ (strmAt { queued := [chain0] } core0).str.queued = chain0 :: [])
    ∧ ((strmAt (active (List.replicate 3 (frame 0)) []) core0).str.state = .active
      ∧ (strmAt (active (List.replicate 3 (frame 0)) []) core0).str.cmd = none ∧ (1 : W32) ≠ 0
      ∧ (strmAt (active (List.replicate 3 (frame 0)) []) core0).str.loops.length < 4)
    ∧ 4 ≤ (strmAt (active (List.replicate 4 (frame 0)) []) core0).str.loops.length
    ∧ ((strmAt (active [] []) { core0 with well := wellOf 64 [0x21] }).str.loops.length < 4
      ∧ (strmAt (active [] []) { core0 with well := wellOf 64 [0x21] }).poisoned (.well 0)
          ((strmAt (active [] []) { core0 with well := wellOf 64 [0x21] }).str.cur + 64).toNat 64 = false
      ∧ (entByte ((strmAt (active [] []) { core0 with well := wellOf 64 [0x21] }).core.entryAt
          ((strmAt (active [] []) { core0 with well := wellOf 64 [0x21] }).str.cur + 64)) 0).toNat = 0x21
      ∧ (strmAt (active [] []) { core0 with well := wellOf 64 [0x21] }).core.well.pend = [])
    ∧ ((strmAt (active [frame 3] []) core0).str.loops = frame 3 :: [] ∧ (frame 3).i + 1 < (frame 3).n)
    ∧ ¬ (frame 4).i + 1 < (frame 4).n
    ∧ (strmAt (active [] []) core0).str.loops = []
    ∧ ((2 : W32).toNat ≤ (strmAt (active [] []) semCore).core.semCount 8 ∧ (strmAt (active [] []) semCore).core.semCount 8 < (3 : W32).toNat)
    ∧ (strmAt (active [] []) core0).str.completing = []
    ∧ (strmAt (active [] [cmd1 (.fill hdr1 0 1 0)]) core0).str.completing ≠ [] := by decide
/-- A count with no write pending, and one with a write to the byte after it. -/
theorem witness_ChainControl_settled :
    (strmAt (active [] []) semCore).core.settledAt 8
      ∧ ({ semCore with well := { semCore.well with pend := [{ id := 1, cells := [(12, 1)], seen := 0 }] } } : Core).settledAt 8 := by
  unfold Core.settledAt Core.settledOn; decide
theorem witness_DataEntriesBegin : (isDataEntry (.fill hdr1 64 0 5) = true ∧ (strmAt (active [] []) core0).str.state = .active
      ∧ (strmAt (active [] []) core0).str.cmd = none ∧ entCount (.fill hdr1 64 0 5) = 0 ∧ isPref (.fill hdr1 64 0 5) = false)
    ∧ (isDataEntry (.pref {} 0x1000 0x10000) = true ∧ isPref (.pref {} 0x1000 0x10000) = true)
    ∧ entCount (.fill hdr1 64 2 5) = 2 := by decide
/-- Stream 2 in the middle of a command at element 1. -/
def mid (i : Instr) : Stream := { state := .active, cmd := some { cmd1 i with started := true, pos := 1 } }
def fill4 : Instr := .fill hdr1 64 4 5
/-- Two bytes of the well copied to a place that lies apart, at element 1. -/
def copy2 : Instr := .copy { spS := 1, spD := 1 } 0 64 2 1 1 1 0 0 0 0 0 0
theorem reset_core (c : Fin 128) : State.reset.coreAt c = {} := by simp [State.coreAt, State.reset]
theorem coreAt_strmAt (x : Stream) (k : Core) (c : Fin 128) (h : c ≠ 0) : (strmAt x k).coreAt c = {} :=
  (State.coreAt_setCoreAt State.reset 0 c _).trans ((if_neg h).trans (reset_core c))
theorem noPend (x : Stream) (k : Core) (h : k.well.pend = []) (c : Fin 128) : ((strmAt x k).coreAt c).well.pend = [] := by
  by_cases hc : c = 0
  · subst hc; exact h
  · rw [coreAt_strmAt x k c hc]
theorem sound_strmAt (x : Stream) (k : Core) : (strmAt x k).sound :=
  fun p hp => absurd hp (by simp [strmAt, at_, State.reset, State.setCoreAt])
theorem witness_PumpMovesElements :
    (∀ n, n < 4 → ¬ (((strmAt { queued := [chain0] } core0).core.stream n).state = .active))
    ∧ (let s := strmAt (mid fill4) core0;
      (2 : Nat) < 4 ∧ 2 = (s.core.lastServed + 1 + 2) % 4
        ∧ (∀ m, m < 2 → (s.core.stream ((s.core.lastServed + 1 + m) % 4)).state ≠ .active)
        ∧ (s.core.stream 2).state = .active ∧ (s.core.stream 2).cmd ≠ none ∧ (s.core.stream 2).waiting = false
        ∧ (s.core.stream 2).walk = none ∧ (s.core.stream 2).inAtomic = false
        ∧ s.core.waiters = [] ∧ s.hbm.pend = [] ∧ s.host.pend = [] ∧ (s.core.stream 2).early = []
        ∧ (s.core.stream 2).cmd = some { cmd1 fill4 with started := true, pos := 1 } ∧ 1 < entCount fill4
        ∧ (Machine.entHdr fill4).spD = 1 ∧ (Machine.entHdr fill4).norm = false ∧ (Machine.entHdr fill4).post = false)
    ∧ (strmAt (mid fill4) core0).sound ∧ (∀ x, ((strmAt (mid fill4) core0).coreAt x).well.pend = [])
    ∧ (let s := strmAt (mid copy2) core0;
      (s.core.stream 2).cmd = some { cmd1 copy2 with started := true, pos := 1 } ∧ 1 < entCount copy2 ∧ entCount copy2 = 2
        ∧ (Machine.entHdr copy2).spS = 1 ∧ (Machine.entHdr copy2).spD = 1 ∧ (Machine.entHdr copy2).norm = false
        ∧ (Machine.entHdr copy2).post = false) :=
  ⟨by decide, by decide, sound_strmAt _ _, noPend _ _ rfl, by decide⟩
/-- Stream 2 of core 0 at a started command, with the identity map cached and bank 9 its own, so that its next element is at hand. -/
def pumpAt (c : Cmd) : State :=
  let own (o : Nat) : BandOwn := { stream := 2, cmd := c.uid, opnd := o, of := .bank 9, lo := 0, hi := 3 }
  { strmAt { state := .active, cmd := some c } { core0 with lastCtx := some 0, cist := { own := [own 0, own 1] } } with
    tlb1 := [(0, { ctx := 0, level := 2, page := 0, pte := 0x80F })] }
def begun (i : Instr) (pos : Nat) (l : List W) : Cmd := { cmd1 i with started := true, pos := pos, list := l }
/-- The next element has a rule, and its places are at hand. -/
def atHand (c : Cmd) : Bool :=
  let s := pumpAt c
  match elementRule s c with
  | none => false
  | some r => decide (c.pos < entCount c.entry)
      && (r.puts.mapM (fun w => s.spotOf c .write w.sp w.x w.o w.opnd w.bytes.length r.al)).isSome
def requests (c : Cmd) : Bool :=
  let s := pumpAt c
  match atomicRule s c with
  | none => false
  | some (_, acc, v, al) => (s.spotOf c acc (Machine.entHdr c.entry).spD v.1 v.2 0 al al).isSome
def hw (z : BitVec 2) : EntHdr := { spS := 1, spD := 1, spX := 1, spY := 1, esz := z }
/-- Every data command, in the well; COPY from HBM and to the cistern; the per-m post due. -/
theorem witness_PumpMovesElements_commands :
    (atHand (begun copy2 1 []) ∧ atHand (begun (.gath (hw 2) 0 64 128 2 3 8 0) 3 []) ∧ atHand (begun (.scat (hw 2) 0 64 128 2 3 8 1) 5 [])
      ∧ atHand (begun (.xpose (hw 1) 0 64 2 3 8 8) 4 []) ∧ atHand (begun fill4 3 []) ∧ atHand (begun (.mcast (hw 0) 0 0 2 2) 1 [64, 128])
      ∧ atHand (begun (.decomp (hw 2) 0 256 65) 64 []) ∧ atHand (begun (.red (hw 2) 0 64 2 2 0 true 1) 1 [0, 16]))
    ∧ (atHand (begun (.conv (hw 2) 0 256 512 33 600 0 false true 4 3 1) 32 []) ∧ atHand (begun (.conv (hw 1) 0 256 512 3 600 2 true false 0 1 1) 0 [])
      ∧ atHand (begun (.cmprs (hw 2) 0 256 512 600 33 0 1) 32 []))
    ∧ (atHand (begun (.copy { hw 3 with spS := 0 } 0x1000 64 1 1 1 1 0 0 0 0 0 0) 0 [])
      ∧ atHand (begun (.fill { hw 3 with spD := 2 } 0xC00 2 5) 1 []) ∧ atHand (begun (.fill { hw 3 with spD := 0 } 0x1000 2 5) 1 []))
    ∧ (requests (begun (.atom { hw 0 with spD := 0 } 0x1000 5 0 64 6 true) 0 []) ∧ requests (begun (.atom (hw 0) 64 5 0 128 0 false) 0 [])
      ∧ requests (begun (.sempr (hw 0) 64 1) 0 []) ∧ requests (begun (.red { hw 2 with spD := 0 } 0 0x1000 2 2 0 true 0) 1 [0, 16])) := by
  decide +kernel
theorem witness_PumpMovesElements_rest :
    (let h := { hw 2 with post := true, every := 1, cnt := 3, sem := 1024 };
      0 < min 2 (4 - 1) / h.every.toNat - (begun (.fill h 64 4 5) 1 []).posts)
    ∧ (let s := { pumpAt (begun (.flipv {} 3 1 false) 0 []) with regions := vset State.reset.regions 3 { vcnt := 2 } }
      (vget s.regions 3 {}).vcnt ≠ 0 ∧ (vget s.regions 3 {}).ctx.setWidth 12 = s.core.ctxOf ∧ (vget s.regions 3 {}).malformed = false
        ∧ (1 : Byte).toNat < (vget s.regions 3 {}).vcnt.toNat)
    ∧ (isPref (begun (.pref {} 0x1000 0x20000) 0 []).entry = true ∧ (begun (.pref {} 0x1000 0x20000) 0 []).srcOff < (0x20000 : W).toNat
      ∧ (0x20000 : W).toNat ≤ ({ begun (.pref {} 0x1000 0x20000) 0 [] with srcOff := 0x20000 } : Cmd).srcOff) := by decide
/-- R182: element 1 of an XPOSE of two rows comes from row 1 (at 8 + 0), column 0, and goes to place 1 of row 0 of the result. -/
theorem test_xpose_element : (let c := begun (.xpose (hw 0) 0 64 2 3 8 16) 1 []
    let s := pumpAt c
    (elementRule (s.setCoreAt 0 { s.core with well := wellOf 8 [7] }) c).map (fun r => r.puts.map (fun p => (p.x, p.o, p.bytes)))
      = some [(64, 1, [7])]) := by decide +kernel
/-- R187: a BF16 sum over 1 of 2^-8 + 2^-31 rounds once, up from the tie: 0x3F81. -/
theorem test_red_rounds_once : redAcc 1 0 0x3F80 0x3B800002 = 0x3F81 := by decide +kernel
/-- R6: ADDI x5, x0, 7 and C.LI x5, 7. -/
theorem test_firmware_addi : (rvStep { tcm := memOf 0 [0x93, 0x02, 0x70, 0x00] } 0).map (fun f => (vget f.x 5 0, f.pc)) = some (7, 4) := by
  decide +kernel
theorem test_firmware_compressed : (rvStep { tcm := memOf 0 [0x9D, 0x42] } 0).map (fun f => (vget f.x 5 0, f.pc)) = some (7, 2) := by
  decide +kernel
def hdr2 (p : Bool) : EntHdr := { hdr1 with fill := true, ftile := 255, drain := true, dtile := 0, post := p, cnt := 3, sem := 16 }
theorem witness_CommandsComplete :
    let s (p : Bool) := strmAt (active [] [cmd1 (.fill (hdr2 p) 0 1 0)]) core0
    (s true).str.state ≠ .aborting
      ∧ (let s := strmAt { active [] [cmd1 (.fill (hdr2 true) 0 1 0)] with state := .aborting } core0;
        s.str.state = .aborting ∧ s.str.completing = cmd1 (.fill (hdr2 true) 0 1 0) :: [] ∧ s.core.waiters = [])
      ∧ (s true).str.completing = cmd1 (.fill (hdr2 true) 0 1 0) :: [] ∧ 0 < entCount (.fill (hdr2 true) 0 1 0)
      ∧ (s true).core.waiters = [] ∧ (hdr2 true).post = true ∧ (hdr2 false).post = false ∧ (hdr2 false).drain = true
      ∧ (s false).core.waiters = [] ∧ (cmd1 (.fill (hdr2 true) 0 1 0)).writes = []
      ∧ ({ hdr1 with fill := true, ftile := 255 } : EntHdr).fill = true ∧ ({ hdr1 with fill := true, ftile := 255 } : EntHdr).drain = false
      ∧ (hdr2 true).fill = true ∧ (hdr2 true).dtile ≠ (hdr2 true).ftile ∧ ¬ 0 < entCount (.fill (hdr2 true) 0 0 0) := by
  decide
/-! ### AES by tables, each proved equal to the model's function, so that the kernel can run it -/
def tabS : Nat :=
  0x16bb54b00f2d99416842e6bf0d89a18cdf2855cee9871e9b948ed9691198f8e19e1dc186b95735610ef6034866b53e708a8bbd4b1f74dde8c6b4a61c2e2578ba * 2 ^ 1536
    + 0x08ae7a65eaf4566ca94ed58d6d37c8e779e4959162acd3c25c2406490a3a32e0db0b5ede14b8ee4688902a22dc4f816073195d643d7ea7c41744975fec130ccd * 2 ^ 1024
    + 0xd2f3ff1021dab6bcf5389d928f40a351a89f3c507f02f94585334d43fbaaefd0cf584c4a39becb6a5bb1fc20ed00d153842fe329b3d63b52a05a6e1b1a2c8309 * 2 ^ 512
    + 0x75b227ebe28012079a059618c323c7041531d871f1e5a534ccf73f362693fdb7c072a49cafa2d4adf04759fa7dc982ca76abd7fe2b670130c56f6bf27b777c63
def tabSI : Nat :=
  0x7d0c2155631469e126d677ba7e042b17619953833cbbebc8b0f52aae4d3be0a0ef9cc9939f7ae52d0d4ab519a97f51605fec8027591012b131c7078833a8dd1f * 2 ^ 1536
    + 0xf45acd78fec0db9a2079d2c64b3e56fc1bbe18aa0e62b76f89c5291d711af1476edf751ce837f9e28535ade72274ac9673e6b4f0cecff297eadc674f4111913a * 2 ^ 1024
    + 0x6b8a130103bdafc1020f3fca8f1e2cd00645b3b80558e4f70ad3bc8c00abd890849d8da75746155edab9edfd5048706c92b6655dcc5ca4d41698688664f6f872 * 2 ^ 512
    + 0x25d18b6d49a25b76b224d92866a12e084ec3fa420b954cee3d23c2a632947b54cbe9dec444438e3487ff2f9b8239e37cfbd7f3819ea340bf38a53630d56a0952
def tab9 : Nat :=
  0x464f545d626b70790e071c152a233831d6dfc4cdf2fbe0e99e978c85bab3a8a17d746f6659504b42353c272e1118030aede4fff6c9c0dbd2a5acb7be8188939a * 2 ^ 1536
    + 0x3039222b141d060f78716a635c554e47a0a9b2bb848d969fe8e1faf3ccc5ded70b0219102f263d34434a5158676e757c9b928980bfb6ada4d3dac1c8f7fee5ec * 2 ^ 1024
    + 0xaaa3b8b18e879c95e2ebf0f9c6cfd4dd3a3328211e170c05727b6069565f444d9198838ab5bca7aed9d0cbc2fdf4efe60108131a252c373e49405b526d647f76 * 2 ^ 512
    + 0xdcd5cec7f8f1eae3949d868fb0b9a2ab4c455e5768617a73040d161f2029323be7eef5fcc3cad1d8afa6bdb48b829990777e656c535a41483f362d241b120900
def tab11 : Nat :=
  0xa3a8b5be8f849992fbf0ede6d7dcc1ca1318050e3f3429224b405d56676c717ad8d3cec5f4ffe2e9808b969daca7bab168637e75444f5259303b262d1c170a01 * 2 ^ 1536
    + 0x555e434879726f640d061b10212a373ce5eef3f8c9c2dfd4bdb6aba0919a878c2e2538330209141f767d606b5a514c479e958883b2b9a4afc6cdd0dbeae1fcf7 * 2 ^ 1024
    + 0x545f424978736e650c071a11202b363de4eff2f9c8c3ded5bcb7aaa1909b868d2f2439320308151e777c616a5b504d469f948982b3b8a5aec7ccd1daebe0fdf6 * 2 ^ 512
    + 0xa2a9b4bf8e859893faf1ece7d6ddc0cb1219040f3e3528234a415c57666d707bd9d2cfc4f5fee3e8818a979cada6bbb069627f74454e5358313a272c1d160b00
def tab13 : Nat :=
  0x979a8d80a3aeb9b4fff2e5e8cbc6d1dc474a5d50737e69642f2235381b16010c2c21363b1815020f44495e53707d6a67fcf1e6ebc8c5d2df94998e83a0adbab7 * 2 ^ 1536
    + 0xfaf7e0edcec3d4d9929f8885a6abbcb12a27303d1e130409424f5855767b6c61414c5b5675786f622924333e1d10070a919c8b86a5a8bfb2f9f4e3eecdc0d7da * 2 ^ 1024
    + 0x4d40575a7974636e25283f32111c0b069d90878aa9a4b3bef5f8efe2c1ccdbd6f6fbece1c2cfd8d59e938489aaa7b0bd262b3c31121f08054e4354597a77606d * 2 ^ 512
    + 0x202d3a3714190e034845525f7c71666bf0fdeae7c4c9ded39895828faca1b6bb9b96818cafa2b5b8f3fee9e4c7caddd04b46515c7f726568232e3934171a0d00
def tab14 : Nat :=
  0x8d83919fb5bba9a7fdf3e1efc5cbd9d76d63717f555b49471d13010f252b393756584a446e60727c26283a341e10020cb6b8aaa48e80929cc6c8dad4fef0e2ec * 2 ^ 1536
    + 0x202e3c321816040a505e4c426866747ac0cedcd2f8f6e4eab0beaca28886949afbf5e7e9c3cddfd18b859799b3bdafa11b150709232d3f316b657779535d4f41 * 2 ^ 1024
    + 0xccc2d0def4fae8e6bcb2a0ae848a98962c22303e141a08065c52404e646a787617190b052f21333d67697b755f51434df7f9ebe5cfc1d3dd87899b95bfb1a3ad * 2 ^ 512
    + 0x616f7d735957454b111f0d032927353b818f9d93b9b7a5abf1ffede3c9c7d5dbbab4a6a8828c9e90cac4d6d8f2fceee05a544648626c7e702a243638121c0e00
def tab (t : Nat) (a : Byte) : Byte := BitVec.ofNat 8 (t >>> (8 * a.toNat))
theorem of_all_bytes {f g : Byte → Byte} (h : (List.range 256).all (fun n => f (BitVec.ofNat 8 n) == g (BitVec.ofNat 8 n)) = true) : f = g :=
  funext fun a => by
    have := List.all_eq_true.mp h a.toNat (List.mem_range.mpr a.isLt)
    simpa using this
theorem sbox_eq : sbox = tab tabS := of_all_bytes (by decide +kernel)
theorem sboxInv_eq : sboxInv = tab tabSI := of_all_bytes (by decide +kernel)
theorem gmul9_eq : gmul 9 = tab tab9 := of_all_bytes (by decide +kernel)
theorem gmul11_eq : gmul 11 = tab tab11 := of_all_bytes (by decide +kernel)
theorem gmul13_eq : gmul 13 = tab tab13 := of_all_bytes (by decide +kernel)
theorem gmul14_eq : gmul 14 = tab tab14 := of_all_bytes (by decide +kernel)
def keyExpT : Nat → Nat → Byte → List (List Byte) → List (List Byte)
  | 0, _, _, ws => ws
  | n + 1, i, rc, ws =>
    let t := ws.getD 0 []
    let t1 :=
      if i % 8 = 0 then
        match t with
        | [a, b, c, d] => [tab tabS b ^^^ rc, tab tabS c, tab tabS d, tab tabS a]
        | x => x
      else if i % 8 = 4 then t.map (tab tabS) else t
    keyExpT n (i + 1) (if i % 8 = 0 then BitVec.ofNat 8 (xtime rc.toNat) else rc) (xorB (ws.getD 7 []) t1 :: ws)
theorem keyExp_eq (n i : Nat) (rc : Byte) (ws : List (List Byte)) : keyExp n i rc ws = keyExpT n i rc ws := by
  induction n generalizing i rc ws with
  | zero => rfl
  | succ n ih => simp only [keyExp, keyExpT, sbox_eq, ih] <;> rfl
def roundKeysT (key : List Byte) : List (List Byte) :=
  let ws := (keyExpT 52 8 1 (chunks4 8 key).reverse).reverse
  (List.range 15).map (fun r => ((ws.drop (4 * r)).take 4).flatten)
def mixColInvT : List Byte → List Byte
  | [x, y, z, w] =>
    [tab tab14 x ^^^ tab tab11 y ^^^ tab tab13 z ^^^ tab tab9 w, tab tab9 x ^^^ tab tab14 y ^^^ tab tab11 z ^^^ tab tab13 w,
     tab tab13 x ^^^ tab tab9 y ^^^ tab tab14 z ^^^ tab tab11 w, tab tab11 x ^^^ tab tab13 y ^^^ tab tab9 z ^^^ tab tab14 w]
  | q => q
theorem mixColInv_eq (b : List Byte) : mixCol 14 11 13 9 b = mixColInvT b := by
  unfold mixCol mixColInvT; split <;> simp only [gmul9_eq, gmul11_eq, gmul13_eq, gmul14_eq]
/-- Decryption of a block under round keys already made. -/
def aesDecT (rk : List (List Byte)) (blk : List Byte) : List Byte :=
  let s := ((rk.drop 1).take 13).reverse.foldl
    (fun s k => (chunks4 4 (xorB ((shiftRowsInv s).map (tab tabSI)) k)).flatMap mixColInvT) (xorB blk (rk.getD 14 []))
  xorB ((shiftRowsInv s).map (tab tabSI)) (rk.getD 0 [])
theorem roundKeys_eq (key : List Byte) : roundKeys key = roundKeysT key := by simp only [roundKeys, roundKeysT, keyExp_eq]
theorem aesDec_eq (key blk : List Byte) : aesDec key blk = aesDecT (roundKeysT key) blk := by
  have h : mixCol 14 11 13 9 = mixColInvT := funext mixColInv_eq
  simp only [aesDec, aesDecT, roundKeys_eq, mixColsInv, h, sboxInv_eq]
def unwrapT (rk : List (List Byte)) (st : List Byte × List (List Byte)) (t : Nat) : List Byte × List (List Byte) :=
  let i := (t - 1) % 8
  let b := aesDecT rk (xorB st.1 (beBytes 8 t) ++ st.2.getD i [])
  (b.take 8, st.2.set i (b.drop 8))
def bytesOf (n len : Nat) : List Byte := (List.range len).map (fun i => BitVec.ofNat 8 (n >>> (8 * (len - 1 - i))))
/-- FIPS 180-4, the one-block example: the digest of "abc". -/
theorem test_sha256 : sha256 [0x61, 0x62, 0x63] = bytesOf 0xBA7816BF8F01CFEA414140DE5DAE2223B00361A396177A9CB410FF61F20015AD 32 := by
  decide +kernel
/-- FIPS 197, C.3: the block of the AES-256 example deciphers to its plain text. -/
theorem test_aes256 : aesDecT (roundKeysT (bytesOf 0x000102030405060708090A0B0C0D0E0F101112131415161718191A1B1C1D1E1F 32))
    (bytesOf 0x8EA2B7CA516745BFEAFC49904B496089 16) = bytesOf 0x00112233445566778899AABBCCDDEEFF 16 := by decide +kernel
/-- Two keys of bytes 0x11, wrapped under the key that an empty export secret gives. -/
def wrapped0 : List Byte := bytesOf 0x1cfda772779aadbe5fe8c5084d0b31ce88dcf167fd70a67aba190cfe7b8ac45d130953feba906589c9795393159c50a2f61b7236cd37bde02e5c304ced569a8458730fdc9368af1f 72
theorem kek0 : hkdfExpand32 [] wrapInfo = bytesOf 0x5f708799a25cbb5394fef138c06b34116ba38a022c7f13885fe5603e05ab7511 32 := by decide +kernel
theorem unwrap0 : keyUnwrap (hkdfExpand32 [] wrapInfo) wrapped0 = some (List.replicate 64 0x11) := by
  have h : unwrapStep (bytesOf 0x5f708799a25cbb5394fef138c06b34116ba38a022c7f13885fe5603e05ab7511 32) 8 = unwrapT (roundKeysT (bytesOf 0x5f708799a25cbb5394fef138c06b34116ba38a022c7f13885fe5603e05ab7511 32)) := by
    funext st t; simp only [unwrapStep, unwrapT, aesDec_eq]
  have h2 : wrapped0.length / 8 - 1 = 8 := by decide +kernel
  rw [kek0, keyUnwrap, h2, h]
  decide +kernel
/-- Stream 2 waits at semaphore 8 for `m`; or for a walk of `va` in the middle of a command. -/
def waitStr (m : W32) : Stream := { state := .active, waiting := true, waits := some (8, m) }
def walkStr (va : W) : Stream := { mid fill4 with walk := some { va := va, acc := 0 } }
theorem witness_WaitsAndFences :
    ((strmAt (waitStr 2) semCore).str.state = .active ∧ (strmAt (waitStr 2) semCore).str.waiting = true
      ∧ (strmAt (waitStr 2) semCore).str.waits = some (8, 2) ∧ (2 : W32).toNat ≤ (strmAt (waitStr 2) semCore).core.semCount 8)
    ∧ (strmAt (waitStr 3) semCore).core.semCount 8 < (3 : W32).toNat
    ∧ (let s := mapped (strmAt (walkStr 0x12345678) core0) []
      s.str.walk = some { va := 0x12345678, acc := 0 } ∧ s.str.cmd.isSome = true ∧ isPref fill4 = false
        ∧ walk s s.core.ctxOf 0x12345678 = .ok (2, 0x80F))
    ∧ (let s := mapped (strmAt (walkStr 0x0080000000000000) core0) []
      walk s s.core.ctxOf 0x0080000000000000 = .error (1, 3))
    ∧ ((strmAt (active [] []) core0).str.state = .active ∧ (strmAt (active [] []) core0).str.cmd = none
      ∧ (∀ j, j < 4 → ((strmAt (active [] []) core0).core.stream j).inAtomic = false) ∧ (strmAt (active [] []) core0).gathering 0 2 = false)
    ∧ (let s := strmAt (active [] []) { core0 with streams := vset core0.streams 3 { state := .active, inAtomic := true } }
      ∃ j, j < 4 ∧ (s.core.stream j).inAtomic = true) := by
  refine ⟨by decide, by decide, by decide, by decide, by decide, 3, by decide, by decide⟩
/-- A PREF in the middle of a page, one whose page is mapped and one whose is not; another stream that gathers a chunk. -/
theorem witness_WaitsAndFences_pref :
    (let pref (va : W) : Stream := { mid (.pref {} va 0x20000) with walk := some { va := va, acc := 0 } }
      let s := mapped (strmAt (pref 0x12345678) core0) []
      s.str.state = .active ∧ s.str.walk = some { va := 0x12345678, acc := 0 } ∧ walk s s.core.ctxOf 0x12345678 = .ok (2, 0x80F)
        ∧ (s.str.cmd.map (fun c => isPref c.entry)) = some true
        ∧ walk (mapped (strmAt (pref 0x0080000000000000) core0) []) s.core.ctxOf 0x0080000000000000 = .error (1, 3))
    ∧ (let w : PWrite := { id := 5, cells := [(0, 1)], seen := 0, core := 0, stream := 3, cmd := 9 }
      let busy : Stream := { state := .active, cmd := some { cmd1 fill4 with uid := 9 } }
      let s := strmAt (active [] []) { core0 with streams := vset core0.streams 3 busy, well := { pend := [w] } }
      s.gathering 0 2 = true ∧ s.str.state = .active ∧ s.str.cmd = none) := by decide +kernel
def pw (id : Nat) : PWrite := { id := id, cells := [(0, 1)], seen := 0 }
/-- A write of core 0's stream 2, and a window write of it. -/
def mine : PWrite := { pw 5 with core := 0, stream := 2, scope := 2 ^ 131 - 1 }
theorem witness_WaitsAndFences_single :
    (mine.core = (strmAt (active [] []) core0).turn.core.val ∧ mine.stream = (strmAt (active [] []) core0).turn.stream.val
      ∧ mine.stream < 4 ∧ mine.deps = [] ∧ mine.mca = false)
    ∧ (let s : State := { strmAt (active [] []) core0 with hbm := { pend := [mine] } }
      s.hbm.pend = [mine] ∧ s.host.pend = [] ∧ ∀ x, (s.coreAt x).well.pend = [])
    ∧ (let s : State := { strmAt (active [] []) core0 with host := { pend := [mine] } }
      s.hbm.pend = [] ∧ s.host.pend = [mine] ∧ ∀ x, (s.coreAt x).well.pend = [])
    ∧ (let s := strmAt (active [] []) { core0 with well := { pend := [mine] } }
      s.core.waiters = [] ∧ s.hbm.pend = [] ∧ s.host.pend = [] ∧ ∀ x, (s.coreAt x).well.pend = if x = 0 then [mine] else []) := by
  refine ⟨by decide, ⟨rfl, rfl, noPend _ _ rfl⟩, ⟨rfl, rfl, noPend _ _ rfl⟩, rfl, rfl, rfl, fun x => ?_⟩
  by_cases hx : x = 0
  · subst hx; rfl
  · rw [if_neg hx, coreAt_strmAt _ _ x hx]
theorem witness_WritesPerformed :
    ((130 : Nat) < 131 ∧ (pw 5).id = 5 ∧ (pw 5).deps = [] ∧ (pw 5).mca = false
      ∧ ∃ w ∈ ({ at_ .c core0 with hbm := { pend := [pw 5] } } : State).hbm.pend, w.id = 5)
    ∧ (∀ w ∈ (at_ .c core0).hbm.pend, w.id ≠ 5)
    ∧ (let s : State := { strmAt {} core0 with hbm := { pend := [pw 5] } }
      s.hbm.pend = [pw 5] ∧ s.host.pend = [] ∧ ∀ x, (s.coreAt x).well.pend = [])
    ∧ (let s : State := { strmAt {} core0 with host := { pend := [pw 5] } }
      s.hbm.pend = [] ∧ s.host.pend = [pw 5] ∧ ∀ x, (s.coreAt x).well.pend = [])
    ∧ (let s := strmAt {} { core0 with well := { pend := [pw 5] } }
      s.hbm.pend = [] ∧ s.host.pend = [] ∧ (∀ x, (s.coreAt x).well.pend = if x = 0 then [pw 5] else []) ∧ s.turn.core = 0)
    ∧ ((4 : Nat) < 5 ∧ (127 : Nat) < 128
      ∧ ((strmAt {} { core0 with urs := { pend := [pw 5] } }).coreAt 0).urs.pend = [pw 5]
      ∧ ((strmAt {} { core0 with cist := { data := { pend := [pw 5] } } }).coreAt 0).cist.data.pend = [pw 5]) := by
  refine ⟨⟨by decide, rfl, rfl, rfl, pw 5, by decide, rfl⟩, by decide, ⟨rfl, rfl, noPend _ _ rfl⟩, ⟨rfl, rfl, noPend _ _ rfl⟩,
    ⟨rfl, rfl, fun x => ?_, rfl⟩, by decide⟩
  by_cases hx : x = 0
  · subst hx; rfl
  · rw [if_neg hx, coreAt_strmAt _ _ x hx]
/-- A stream's write of one byte of a chunk, one of the whole chunk, and one of its NORM tap. -/
def part0 : PWrite := { pw 5 with core := 0, stream := 2, cmd := 9 }
def whole0 : PWrite := { part0 with cells := (List.range 64).map (fun i => (64 + i, 7)) }
def tap0 : PWrite := { whole0 with tap := true }
/-- Its command runs; after the command, after a per-m post, and for a core's path while the stream waits, the chunk is open. -/
def filling (st : SState) (n : Nat) : State := strmAt { active [] [] with state := st, cmd := some { cmd1 fill4 with uid := 9, landed := n } } core0
theorem witness_WritesPerformed_chunk :
    (filling .active 0).closedTo 4 part0 ∧ (filling .suspended 0).closedTo 2 part0 ∧ (filling .active 0).closedTo 8 tap0
    ∧ ¬ (filling .suspended 0).closedTo 4 part0 ∧ ¬ (filling .active 6).closedTo 4 part0 ∧ ¬ (filling .active 0).closedTo 3 whole0
    ∧ ¬ (strmAt (active [] []) core0).closedTo 4 part0 ∧ ¬ (filling .active 0).closedTo 4 (pw 5) := by
  have part : ¬ ∀ i, i < 64 → ∃ b, (((part0.cells.head?.map (·.1)).getD 0) / 64 * 64 + i, b) ∈ part0.cells := fun h => by
    obtain ⟨b, hb⟩ := h 1 (by omega)
    simp [part0, pw] at hb
  refine ⟨⟨_, rfl, rfl, by decide, .inr part, .inr (.inr ⟨rfl, rfl, by decide⟩)⟩, ⟨_, rfl, rfl, by decide, .inr part, .inl rfl⟩,
    ⟨_, rfl, rfl, by decide, .inl rfl, .inr (.inr ⟨rfl, rfl, by decide⟩)⟩, ?_, ?_, ?_, ?_, fun ⟨_, _, _, h, _⟩ => h rfl⟩
  · rintro ⟨_, _, _, _, _, h | h | h⟩
    · exact absurd h (by decide)
    · exact absurd h (by decide)
    · exact absurd h.1 (by decide)
  · rintro ⟨c, h, _, _, _, h2 | h2 | h2⟩
    · exact absurd h2 (by decide)
    · exact absurd h2 (by decide)
    · cases h
      exact absurd h2.2.2 (by decide)
  · rintro ⟨_, _, _, _, h | h, _⟩
    · exact absurd h (by decide)
    · refine h fun i hi => ⟨7, ?_⟩
      show (64 + i, (7 : Byte)) ∈ (List.range 64).map (fun i => (64 + i, 7))
      exact List.mem_map.mpr ⟨i, List.mem_range.mpr hi, rfl⟩
  · rintro ⟨c, h, _⟩
    cases h
/-- An ATOM of stream 2 waits at engine 0. -/
def atomE : Instr := .atom {} 0x1000 5 0 0 0 false
def req0 : AtomicReq :=
  { eng := 0, core := 0, stream := 2, addr := 2 ^ 39 - 1, target := none, op := .atom 0 false 5 0 0, pte := 0, rel := false }
theorem witness_AtomicEngines :
    let s : State := { strmAt { state := .active, cmd := some (cmd1 atomE), inAtomic := true } core0 with atomics := [req0] }
    nextAtomic s 0 = some req0 ∧ req0.op = .atom 0 false 5 0 0 ∧ req0.target = none ∧ Pte.key req0.pte = 0 ∧ req0.addr < 2 ^ 39
      ∧ ((s.coreAt 0).stream 2).cmd = some (cmd1 atomE) ∧ (cmd1 atomE).pos = 0 ∧ entCount atomE = 1 := by decide
theorem witness_AtomicEngines_rest :
    (let r : AtomicReq := { req0 with target := some 0, addr := 2 ^ 23 - 4, eng := 8 }
      let s : State := { strmAt { state := .active, cmd := some (cmd1 atomE), inAtomic := true } core0 with atomics := [r] }
      nextAtomic s 8 = some r ∧ r.target = some 0 ∧ (s.coreAt 0).well.pend = [] ∧ r.addr + 4 ≤ 2 ^ 23 ∧ r.addr + 4 ≤ 2 ^ 23
        ∧ (Machine.entHdr atomE).post = false)
    ∧ (let r : AtomicReq := { req0 with op := .red 0 1 5 }
      let s : State := { strmAt { state := .active, cmd := some (cmd1 (.red {} 0 0 2 2 0 true 1)), inAtomic := true } core0 with atomics := [r] }
      nextAtomic s 0 = some r ∧ r.target = none ∧ Pte.key r.pte = 0 ∧ r.addr < 2 ^ 39 ∧ (s.coreAt 0).well.pend = [])
    ∧ (let r : AtomicReq := { req0 with op := .sempr 5, target := some 0, addr := 64, eng := 8 }
      let s : State := { strmAt { state := .active, cmd := some (cmd1 (.sempr {} 64 5)), inAtomic := true } core0 with atomics := [r] }
      nextAtomic s 8 = some r ∧ (s.coreAt 0).well.pend = [] ∧ (s.coreAt 0).waiters = [] ∧ (s.coreAt 0).cell.isSome = true) := by decide
/-- A queue whose ring and index block lie in the identity map, unbound, with fields at the ends of their ranges. -/
def qNew : Queue := { q0 with state := .unbound, logm := 20, tickets := 4096, cls := 1 }
def dieOf (s : State) : State := s.setPart 0 { s.part 0 with dies := [0] }
theorem witness_QueueControl :
    (let s := dieOf (queued qNew State.reset);
      (s.queue 3).state = .unbound ∧ (qNew.rbase.toNat % 4096 = 0 ∧ qNew.idxva.toNat % 64 = 0 ∧ qNew.saveva.toNat % 65536 = 0
        ∧ qNew.ctx.toNat < 4096 ∧ 4 ≤ qNew.logm.toNat ∧ qNew.logm.toNat ≤ 20 ∧ qNew.part.toNat ≤ 7
        ∧ (s.part qNew.part.toNat).dies ≠ [] ∧ 1 ≤ qNew.tickets.toNat ∧ qNew.tickets.toNat ≤ 4096 ∧ qNew.cls.toNat ≤ 1)
        ∧ ringRead s (s.queue 3) (s.queue 3).idxva 8 = some [0, 0, 0, 0, 0, 0, 0, 0])
    ∧ isRunnable ((dieOf (queued qNew State.reset)).setQueue 4 { q0 with work := some work1 }) qNew.part.toNat 4 = true
    ∧ (∀ r, r ≠ 3 → isRunnable (dieOf (queued qNew State.reset)) qNew.part.toNat r = false)
    ∧ ¬ 4 ≤ ({ qNew with logm := 3 } : Queue).logm.toNat
    ∧ (State.reset.queue 3).state = .unbound
    ∧ (let s := queued q0 State.reset;
      (s.queue 3).state ≠ .unbound ∧ (s.queue 3).state = .active ∧ (s.queue 3).pub < 16
        ∧ ((16 : W) - (s.queue 3).read).toNat ≤ 2 ^ (s.queue 3).logm.toNat
        ∧ 2 ^ (s.queue 3).logm.toNat < ((17 : W) - (s.queue 3).read).toNat ∧ (0 : W) ≤ (s.queue 3).pub) := by
  refine ⟨by decide, by decide, ?_, by decide, by decide, by decide⟩
  intro r h3
  have hp : ((dieOf (queued qNew State.reset)).part qNew.part.toNat).run.map (·.1) = none := by decide
  rw [isRunnable, hp, show (dieOf (queued qNew State.reset)).queue r = {} from
    (State.queue_setQueue _ _ _ _).trans ((if_neg h3).trans (reset_queue r))]
  rfl
/-- A queue whose superstep runs, discarded with a packet whose status goes to VA 0x700000: RESERVE can be read then, or not. -/
theorem witness_QueueControl_discarded :
    let s (x : Queue) : State := (mapped (running ssEnd work1 {}) []).setQueue 3 { x with pkt := some { typ := 1, statva := 0x700000 }, work := some work1 }
    let bad : Queue := { q0 with idxva := 0x0080000000000000 }
    ((s q0).queue 3).state ≠ .unbound ∧ ((s q0).part 0).run.map (·.1) = some 3
      ∧ (ringRead (((s q0).discard 3).statusWrite 0 0x700000 5) q0 q0.idxva 8).isSome = true
      ∧ ringRead (((s bad).discard 3).statusWrite 0 0x700000 5) bad bad.idxva 8 = none
      ∧ ((queued q0 State.reset).part 0).run.map (·.1) ≠ some 3 ∧ ((queued q0 State.reset).part 0).resident ≠ some 3
      ∧ ((queued q0 State.reset).queue 3).pkt = none
      ∧ ringRead (queued { qNew with idxva := 0x0080000000000000 } State.reset) { qNew with idxva := 0x0080000000000000 } 0x0080000000000000 8
          = none := by decide +kernel
/-- A kernel object with its text at VA 0x500000, one line long, and no levels. -/
def kernelBytes : List Byte := leBytes 4 0x4B595331 ++ leBytes 2 1 ++ leBytes 2 0 ++ leBytes 8 7 ++ leBytes 8 0x500000 ++ leBytes 2 1
  ++ leBytes 2 0 ++ leBytes 2 0 ++ leBytes 2 0 ++ leBytes 4 0 ++ leBytes 4 0x8000 ++ leBytes 4 0x20000 ++ leBytes 4 0x10000
def isOk {ε α : Type} : Except ε α → Bool
  | .ok _ => true
  | .error _ => false
theorem exists_of_isOk {ε α : Type} {e : Except ε α} (h : isOk e = true) : ∃ x, e = .ok x := by
  cases e with
  | ok x => exact ⟨x, rfl⟩
  | error _ => exact absurd h (by simp [isOk])
/-- Queue 3 over the identity map with bytes `m` at VA `a`. -/
def withBytes (x : Queue) (a : Nat) (m : List Byte) : State :=
  let s := (mapped State.reset ((List.range m.length).map (fun j => (a + j, m.getD j 0)))).setQueue 3 x
  dieOf s
def pk (t : Byte) (a : W) : Packet := { typ := t, flags := 1, f20 := a }
def holding (p : Packet) : Queue := { q0 with pkt := some p }
theorem witness_Packets :
    (let s := withBytes { q0 with pub := 1 } 0x100000 [0, 0, 0, 0, 5];
      (s.queue 3).state = .active ∧ (s.queue 3).pkt = none ∧ (s.queue 3).read < (s.queue 3).pub ∧ s.mgmt.upd = false
        ∧ ringRead s (s.queue 3) ((s.queue 3).rbase + 64 * ((s.queue 3).read &&& BitVec.ofNat 64 (2 ^ (s.queue 3).logm.toNat - 1))) 8
            = some [0, 0, 0, 0, 5, 0, 0, 0]
        ∧ field [0, 0, 0, 0, 5, 0, 0, 0] 0 4 = (s.queue 3).read.toNat % 2 ^ 32
        ∧ ringRead s (s.queue 3) ((s.queue 3).rbase + 64 * ((s.queue 3).read &&& BitVec.ofNat 64 (2 ^ (s.queue 3).logm.toNat - 1)) + 8)
            56 = some (List.replicate 56 0)
        ∧ packetOk (packetOf ([0, 0, 0, 0, 5, 0, 0, 0] ++ List.replicate 56 0)) = true
        ∧ packetOk (packetOf ([0, 0, 0, 0, 6, 0, 0, 0] ++ List.replicate 56 0)) = false)
    ∧ (let s := withBytes (holding (pk 1 0x400000)) 0x400000 kernelBytes;
      (s.queue 3).pkt = some (pk 1 0x400000) ∧ (s.queue 3).state = .active ∧ (s.queue 3).work = none
        ∧ ∃ k, readKernel s ((s.queue 3).ctx.setWidth 12) (pk 1 0x400000).f20 (s.part 0).dies.length = .ok k)
    ∧ (∃ e, readKernel (withBytes (holding (pk 1 0)) 0 []) 0 0x600000 1 = .error e)
    ∧ (∃ r, readOpRec (withBytes (holding (pk 2 0x400000)) 0x400000 kernelBytes) 0 0x700000 0 = .ok r)
    ∧ (let s := withBytes { holding (pk 3 0x700000) with checked := true } 0x700000 [2]
      readVA s ((s.queue 3).ctx.setWidth 12) (pk 3 0x700000).f20 8 = .ok [2, 0, 0, 0, 0, 0, 0, 0]
        ∧ (2 : W).toNat ≤ leNat [2, 0, 0, 0, 0, 0, 0, 0] ∧ leNat [2, 0, 0, 0, 0, 0, 0, 0] < (3 : W).toNat
        ∧ (s.queue 3).checked = true ∧ (holding (pk 3 0)).checked = false)
    ∧ (let p : Packet := { typ := 4, sigva := 0x700000, flags := 1 }
      let s := withBytes (holding p) 0 [];
      (s.queue 3).pkt = some p ∧ p.statva = 0 ∧ p.sigva ≠ 0 ∧ p.flags.getLsbD 1 = false ∧ p.flags.getLsbD 0 = true
        ∧ Pte.key 0x80F = 0 ∧ 0x700000 + 8 ≤ 2 ^ 39
        ∧ translate s ((s.queue 3).ctx.setWidth 12) p.sigva .write = .ok (.hbm 0x700000 0x80F)) := by
  refine ⟨by decide, ⟨by decide, by decide, by decide, exists_of_isOk (by decide +kernel)⟩, ⟨2, by decide +kernel⟩,
    exists_of_isOk (by decide +kernel), by decide +kernel, by decide +kernel⟩
theorem exists_of_isErr {ε α : Type} {e : Except ε α} (h : isOk e = false) : ∃ x, e = .error x := by
  cases e with
  | ok _ => exact absurd h (by simp [isOk])
  | error x => exact ⟨x, rfl⟩
/-- Fetch held; a record that cannot be read; a word that cannot; status and signal words in plain HBM, added. -/
theorem witness_Packets_done :
    ({ State.reset.mgmt with fetchHeld := true } : Mgmt).fetchHeld = true
    ∧ (let s := withBytes (holding (pk 2 0x400000)) 0x400000 kernelBytes;
      (∃ k, readKernel s 0 0x400000 1 = .ok k) ∧ ∃ e, readOpRec s 0 0x0080000000000000 0 = .error e)
    ∧ (∃ e, readVA (withBytes (holding (pk 3 0)) 0 []) 0 0x0080000000000000 8 = .error e)
    ∧ (let p : Packet := { typ := 5, statva := 0x700000, sigva := 0x700008, flags := 3 }
      let s := withBytes (holding p) 0x700008 [0xFF]
      let s1 := s.statusWrite 0 p.statva 0
      p.statva ≠ 0 ∧ p.sigva ≠ 0 ∧ p.flags.getLsbD 1 = true ∧ translate s 0 p.statva .write = .ok (.hbm 0x700000 0x80F)
        ∧ translate (s1.releaseCores ((s.queue 3).ran ++ (s.part 0).dies)) 0 p.sigva .rmw = .ok (.hbm 0x700008 0x80F)
        ∧ s.poisoned .hbm 0x700008 8 = false ∧ plainTarget (.hbm 0x700008 0x80F) 8) := by
  refine ⟨rfl, ⟨exists_of_isOk (by decide +kernel), 4, by decide +kernel⟩, exists_of_isErr (by decide +kernel), by decide, by decide, by decide,
    by decide +kernel, by decide +kernel, by decide +kernel, ⟨by decide, by decide⟩⟩
/-- The last superstep of queue 3's packet `p` has ended, over the identity map with bytes `m` at VA `a`. -/
def ending (p : Packet) (w : Work) (a : Nat) (m : List Byte) : State :=
  let s := running ssEnd w {};
  (mapped s ((List.range m.length).map (fun j => (a + j, m.getD j 0)))).setQueue 3 { s.queue 3 with pkt := some p }
theorem witness_SuperstepEnds_words :
    (let p : Packet := { typ := 1, statva := 0x700000 }
      let s := ending p work1 0 [];
      (s.part 0).run = some (3, ssEnd) ∧ superstepDone s ssEnd = true ∧ (s.queue 3).work = some work1 ∧ (s.queue 3).pkt = some p
        ∧ kern.supersteps ≤ work1.sstep + 1 ∧ work1.nops ≤ work1.op + 1 ∧ p.statva ≠ 0 ∧ p.sigva = 0
        ∧ translate s 0 p.statva .write = .ok (.hbm 0x700000 0x80F) ∧ Pte.key 0x80F = 0 ∧ 0x700000 + 8 ≤ 2 ^ 52)
    ∧ (let p : Packet := { typ := 1, sigva := 0x700000, flags := 2 }
      let s := ending p work1 0 []
      let s2 := (s.statusWrite 0 p.statva 0).releaseCores ((s.queue 3).ran ++ (s.part 0).dies)
      p.sigva ≠ 0 ∧ p.flags.getLsbD 1 = true ∧ translate s2 0 p.sigva .rmw = .ok (.hbm 0x700000 0x80F)
        ∧ s.poisoned .hbm 0x700000 8 = false) := by decide +kernel
/-- A record whose argument block is at VA 0x700000, and one whose block is not mapped. -/
theorem witness_SuperstepEnds_chain :
    let p : Packet := { typ := 2, f28 := 0x400000, f30 := 2 }
    let w : Work := { work1 with nops := 2 }
    let rec_ (a : W) : List Byte := List.replicate 24 0 ++ leBytes 8 a.toNat;
    (let s := ending p w 0x400100 (rec_ 0x700000);
      kern.supersteps ≤ w.sstep + 1 ∧ w.op + 1 < w.nops
        ∧ ∃ r, readOpRec s 0 p.f28 (w.op + 1) = .ok r ∧ ∃ bs, feRead s 0 r.argva w.kern.argsz = .ok bs)
    ∧ (∃ r, readOpRec (ending p w 0 []) 0 p.f28 (w.op + 1) = .ok r ∧ r.argva = 0)
    ∧ (∃ e, readOpRec (ending p w 0x400100 [15]) 0 p.f28 (w.op + 1) = .error e)
    ∧ (let w : Work := { w with kern := { kern with argsz := 8 } };
      let s := ending p w 0x400100 (rec_ 0x0080000000000000);
      ∃ r, readOpRec s 0 p.f28 (w.op + 1) = .ok r ∧ ∃ e, feRead s 0 r.argva w.kern.argsz = .error e) := by
  refine ⟨⟨by decide, by decide, { strm := 0, khead := List.replicate 4 0, argva := 0x700000, cfg := [] }, by decide +kernel, [], by decide +kernel⟩,
    ⟨{ strm := 0, khead := List.replicate 4 0, argva := 0, cfg := [] }, by decide +kernel, rfl⟩, ⟨2, by decide +kernel⟩,
    { strm := 0, khead := List.replicate 4 0, argva := 0x0080000000000000, cfg := [] }, by decide +kernel, 4, by decide +kernel⟩
/-- Reset with the management block as `f` makes it. -/
def withM (f : Mgmt → Mgmt) : State := { State.reset with mgmt := f State.reset.mgmt }
def rec0 : Record := List.replicate 64 1
theorem witness_HostAndPeers :
    ((0x8000000000000000 : W).getLsbD 63 = true ∧ State.reset.mgmt.sdBusy = false ∧ (withM (fun m => { m with sdBusy := true })).mgmt.sdBusy = true)
    ∧ (let s := withM (fun m => { m with fqHeld := [rec0], fqlog := 6, fqprod := 63, fqbase := 0x7FFFFFF000 })
      s.mgmt.fqHeld = rec0 :: [] ∧ rec0.length = 64 ∧ 6 ≤ s.mgmt.fqlog ∧ s.mgmt.fqlog ≤ 16
        ∧ s.mgmt.fqprod - s.mgmt.fqcons ≠ BitVec.ofNat 64 (2 ^ s.mgmt.fqlog) ∧ s.mgmt.fqbase.getLsbD 63 = false
        ∧ s.mgmt.fqbase.toNat % 2 ^ 52 + 64 * (s.mgmt.fqprod.toNat % 2 ^ s.mgmt.fqlog) + 64 ≤ 2 ^ 39)
    ∧ ((withM (fun m => { m with boot := .ready })).mgmt.boot = .ready ∧ (0x7FFFFFFFF0 : W).toNat + 16 ≤ 2 ^ 39
      ∧ 2 ^ 39 < (0x7FFFFFFFF1 : W).toNat + 16)
    -- the HDM window's last bytes and past them; FQLOG at its bounds, with records in the ring and with none
    ∧ (let m : Mgmt := { State.reset.mgmt with boot := .ready, cfg := { State.reset.mgmt.cfg with hdmSize := 0x10000000 } }
      (0xFFFFFF8 : W).toNat + 8 ≤ min (2 ^ 39) m.cfg.hdmSize ∧ min (2 ^ 39) m.cfg.hdmSize < (0xFFFFFF9 : W).toNat + 8
        ∧ m.fqprod = m.fqcons ∧ 6 ≤ (6 : W).toNat ∧ (16 : W).toNat ≤ 16 ∧ (5 : W).toNat < 6 ∧ 16 < (17 : W).toNat
        ∧ ({ m with fqprod := 1 } : Mgmt).fqprod ≠ ({ m with fqprod := 1 } : Mgmt).fqcons)
    -- bytes 60 to 63 and 32 to 39 of an entry of a table, and bytes 4 to 7 of one of the context table
    ∧ ((60 < 64 ∧ 60 % 4 = 0) ∧ (32 < 64 ∧ 32 % 8 = 0) ∧ (4 : Nat) < 8 ∧ (dieOf (queued qNew State.reset)).queue 3 = qNew
      ∧ ((queued q0 State.reset).queue 3).state ≠ .unbound)
    ∧ (((16 : Nat) ≠ 4 ∧ (16 : Nat) ≠ 8) ∧ (0x0FFC : BitVec 20).toNat < 0x1000 ∧ 0x40000 ≤ (0x40000 : BitVec 20).toNat ∧ (0x1002 : BitVec 20).toNat % 4 ≠ 0)
    ∧ (let s := mapped (withM (fun m => { m with boot := .ready, cfg := { routes := [(7, .ether false 1 2, 0)] } })) []
      s.mgmt.boot = .ready ∧ s.mgmt.cfg.routes.find? (fun r => r.1 == (8 : BitVec 15).toNat) = none
        ∧ s.mgmt.cfg.routes.find? (fun r => r.1 == (7 : BitVec 15).toNat) = some (7, .ether false 1 2, 0)
        ∧ translate s (BitVec.ofNat 12 0) 0x0080000000000000 .read = .error (1, 3)
        ∧ translate s (BitVec.ofNat 12 0) 0x12345678 .read = .ok (.hbm 0x12345678 0x80F)
        ∧ translate s (BitVec.ofNat 12 0) 0x12345678 .write = .ok (.hbm 0x12345678 0x80F) ∧ Pte.key 0x80F = 0
        ∧ 0x12345678 + 4 ≤ 2 ^ 39) := by decide
theorem witness_Attestation :
    (let s := withM (fun m => { m with boot := .ready });
      s.mgmt.boot = .ready ∧ (0x8000000000000008 : W).getLsbD 63 = true ∧ s.mgmt.mbBusy = false)
    ∧ (let s := withM (fun m => { m with mbBusy := true, mbPend := 1 });
      s.mgmt.mbBusy = true ∧ s.mgmt.mbPend ≠ 0)
    ∧ (let s := withM (fun m => { m with mbBusy := true, mbReply := .other (List.replicate 32760 0) });
      s.mgmt.mbBusy = true ∧ s.mgmt.mbPend = 0 ∧ s.mgmt.mbReply ≠ .none
        ∧ (s.mgmt.mbClass :: List.replicate 7 0 ++ replyBytes s.mgmt.mbReply).length ≤ 32768)
    ∧ (32768 < ((2 : Byte) :: List.replicate 7 0 ++ replyBytes (.other (List.replicate 32761 0))).length)
    ∧ (let s := withM (fun m => { m with boot := .ready, mbBusy := true, mbClass := 1, sigused := 2 ^ 20 - 1 }.setConn .mailbox { negotiated := true });
      served s .mailbox none = true ∧ (s.mgmt.conn .mailbox).ended = false ∧ (s.mgmt.conn .mailbox).negotiated = true ∧ s.mgmt.sigused < 2 ^ 20)
    ∧ (let s := withM (fun m => { m with
          boot := .ready, mbBusy := true, mbClass := 2, mbReq := memOf 8 [7, 0, 0, 0] });
      served s .mailbox (some 7) = true ∧ served s .mailbox (some 8) = false)
    ∧ (let s := withM (fun m => { m with sigused := 2 ^ 20 });
      served s .doe none = true ∧ 2 ^ 20 ≤ s.mgmt.sigused)
    ∧ ((withM (fun m => m.setConn .mctp { ended := true })).mgmt.conn .mctp).ended = true
    ∧ (State.reset.mgmt.conn .doe).negotiated = false := by
  refine ⟨by decide, by decide, ⟨rfl, rfl, fun h => (by cases h), ?_⟩, ?_, by decide, by decide, by decide, by decide, by decide⟩
  · show (_ :: List.replicate 7 0 ++ List.replicate 32760 (0 : Byte)).length ≤ 32768
    simp only [List.length_append, List.length_cons, List.length_replicate]; decide
  · simp only [replyBytes, List.length_append, List.length_cons, List.length_replicate]; decide
/-- An image whose public key is the root that its signature (all zero, height 10, width 8) gives, of the largest security version,
with a record of one partition of die 0. -/
def record0 : List Byte := [0, 0, 1] ++ List.replicate 45 0 ++ [1] ++ List.replicate 55 0
def msg0 : List Byte := leBytes 4 8 ++ leBytes 4 104 ++ List.replicate 8 0xFF ++ record0
def keyHead : List Byte := [0, 0, 0, 6, 0, 0, 0, 4] ++ List.replicate 16 0
def sig0 : List Byte := List.replicate 4 0 ++ [0, 0, 0, 4] ++ List.replicate (32 + 32 * 34) 0 ++ [0, 0, 0, 6] ++ List.replicate 320 0
def imgOf (root : List Byte) : BootImage := { bytes := List.replicate 8 0xFF, recBytes := record0, pub := keyHead ++ root, sig := sig0 }
def root0 : List Byte := lmsCandidate 8 34 0 10 (List.replicate 16 0) sig0 msg0
def img0 : BootImage := imgOf root0
theorem lmsVerify_of (msg root : List Byte) (hl : root.length = 32) (h : lmsCandidate 8 34 0 10 (List.replicate 16 0) sig0 msg = root) :
    lmsVerify (keyHead ++ root) msg sig0 = true := by
  have hp : (keyHead ++ root).length = 56 := by rw [List.length_append, hl]; rfl
  have hr : slice (keyHead ++ root) 24 32 = root := List.take_of_length_le (Nat.le_of_eq hl)
  have h0 : slice (keyHead ++ root) 0 4 = [0, 0, 0, 6] := rfl
  have h4 : slice (keyHead ++ root) 4 4 = [0, 0, 0, 4] := rfl
  have h8 : slice (keyHead ++ root) 8 16 = List.replicate 16 0 := rfl
  have hb : lmsHeight (beNat [0, 0, 0, 6]) = some 10 ∧ lmotsParams (beNat [0, 0, 0, 4]) = some (8, 34, 0) := by decide
  have hs : (sig0.length == lmsSigLen 34 10 && slice sig0 4 4 == [0, 0, 0, 4] && slice sig0 (40 + 32 * 34) 4 == [0, 0, 0, 6]
    && decide (beNat (slice sig0 0 4) < 2 ^ 10)) = true := by decide +kernel
  simp only [Bool.and_eq_true] at hs
  obtain ⟨⟨⟨a, b⟩, c⟩, d⟩ := hs
  unfold lmsVerify
  rw [h0, h4, hb.1, hb.2]
  simp only [hp, hr, h8, h, a, b, c, d, beq_self_eq_true, Bool.and_self]
theorem signed_img0 : imageSigned img0 = msg0 := rfl
theorem lmsVerify_img0 : lmsVerify img0.pub (imageSigned img0) img0.sig = true := by
  rw [signed_img0]; exact lmsVerify_of msg0 root0 (lmsCandidate_length ..) rfl
theorem accepted_of (f : List Byte) (h : sha256 img0.pub = f) : imageAccepted img0 f :=
  ⟨h, lmsVerify_img0, BitVec.le_def.mpr (by
    have := Config.fusedSvn.isLt; rw [show imageSvn img0 = BitVec.allOnes 64 from by unfold img0 imgOf; decide]; simp; omega),
    by unfold img0 imgOf; decide, by unfold img0 imgOf; decide⟩
@[irreducible] def fuse0 : List Byte := sha256 img0.pub
theorem fuse0_eq : sha256 img0.pub = fuse0 := by delta fuse0; exact Eq.refl (sha256 img0.pub)
theorem accepted_img0 : imageAccepted img0 fuse0 := accepted_of _ fuse0_eq
theorem not_accepted : ¬ imageAccepted { img0 with sig := [] } fuse0 := fun h => by
  have h2 := h.2.1
  unfold lmsVerify at h2
  rw [show slice img0.pub 0 4 = [0, 0, 0, 6] from rfl, show slice img0.pub 4 4 = [0, 0, 0, 4] from rfl,
    show lmsHeight (beNat [0, 0, 0, 6]) = some 10 by decide, show lmotsParams (beNat [0, 0, 0, 4]) = some (8, 34, 0) by decide] at h2
  simp [lmsSigLen] at h2
theorem lookup_range (f : Nat → Byte) (a n i : Nat) (h : i < n) :
    List.lookup (a + i) ((List.range n).map (fun j => (a + j, f j))) = some (f i) := by
  induction n with
  | zero => omega
  | succ n ih =>
    rw [List.range_succ, List.map_append, List.lookup_append]
    by_cases hi : i < n
    · rw [ih hi]; rfl
    · have e : i = n := by omega
      subst e
      have hn : List.lookup (a + i) ((List.range i).map (fun j => (a + j, f j))) = none := by
        rw [List.lookup_eq_none_iff]
        intro p hp
        obtain ⟨j, hj, rfl⟩ := List.mem_map.mp hp
        have := List.mem_range.mp hj
        simp; omega
      rw [hn]; simp
/-- The file of the image lies in the staging area. -/
theorem staged_img0 (f : List Byte) (n : Nat) (hn : f.length = n) :
    ({ pend := [{ id := 1, cells := (List.range n).map (fun j => (0x10000 + j, f.getD j 0)), seen := 0 }] } : VMem).latestBytes 0x10000 n
      = f := by
  apply List.ext_getElem (by simp [VMem.latestBytes, hn])
  intro i h1 h2
  have hi : i < n := by omega
  simp only [VMem.latestBytes, List.getElem_map, List.getElem_range, VMem.latest, List.foldl_cons, List.foldl_nil, lookup_range _ _ _ _ hi]
  simp [h2]
theorem file_length (root : List Byte) (h : root.length = 32) : (imageFile (imgOf root)).length = 1628 := by
  simp only [imageFile, imageSigned, imgOf, List.length_append, h]; decide +kernel
theorem file_img0 : (imageFile img0).length = 1628 := file_length root0 (lmsCandidate_length ..)
/-- The parts of a file are read back. -/
theorem parse_file (root : List Byte) (h : root.length = 32) : parseFile (imageFile (imgOf root)) = imgOf root := by
  have e : imageFile (imgOf root) = msg0 ++ ((keyHead ++ root) ++ sig0) := by
    rw [show imageFile (imgOf root) = msg0 ++ (keyHead ++ root) ++ sig0 from rfl, List.append_assoc]
  have f : parseFile (msg0 ++ ((keyHead ++ root) ++ sig0)) = {
      bytes := List.replicate 8 0xFF, recBytes := record0, pub := ((keyHead ++ root) ++ sig0).take 56, sig := ((keyHead ++ root) ++ sig0).drop 56 } := rfl
  have hl : (keyHead ++ root).length = 56 := by rw [List.length_append, h]; rfl
  rw [e, f, List.take_left' hl, List.drop_left' hl]; rfl
theorem parse_img0 : parseFile (imageFile img0) = img0 := parse_file root0 (lmsCandidate_length ..)
/-- A file of no bytes holds no image that the boot ROM accepts. -/
theorem not_accepted_empty (f : List Byte) : ¬ imageAccepted (parseFile []) f := fun h => by
  have h2 := h.2.1
  unfold lmsVerify at h2
  rw [show lmsHeight (beNat (slice (parseFile []).pub 0 4)) = none by decide] at h2
  exact absurd h2 (by simp)
/-- A ready package with session 1 of an empty export secret, a staging area of 64 KiB and slot 0 running. -/
def keyS : State := withM (fun m => { m with
  boot := .ready, fwRunning := true, fuseKey := fuse0, cfg := { staging := (0x10000, 0x10000) } }.setConn .doe { sessions := [(1, [])] })
/-- The same with a file in its staging area. -/
def stagedS (f : List Byte) : State := { keyS with
  hbm := { pend := [{ id := 1, cells := (List.range 1628).map (fun j => (0x10000 + j, f.getD j 0)), seen := 0 }] } }
theorem staged_keyS (f : List Byte) (h : f.length = 1628) : (stagedS f).hbm.latestBytes (stagedS f).mgmt.cfg.staging.1 (1628 : W32).toNat = f :=
  staged_img0 f 1628 h
theorem witness_KeysFirmwarePolicy :
    (served keyS .doe (some 1) = true ∧ (keyS.mgmt.conn .doe).ended = false ∧ List.lookup 1 (keyS.mgmt.conn .doe).sessions = some [] ∧ wrapped0.length = 72
      ∧ 1 ≤ (1023 : BitVec 16).toNat ∧ (1023 : BitVec 16).toNat ≤ 1023 ∧ vget keyS.mgmt.keys 1023 none = none
      ∧ keyUnwrap (hkdfExpand32 [] wrapInfo) wrapped0 = some (List.replicate 64 0x11))
    ∧ 1023 < (1024 : BitVec 16).toNat
    ∧ List.lookup 2 (keyS.mgmt.conn .doe).sessions = none
    ∧ (keyS.mgmt.boot = .ready ∧ (List.replicate 16384 (5 : Byte)).length = (16384 : W32).toNat ∧ 1 ≤ (16384 : W32).toNat
      ∧ (0xC000 : W32).toNat + (16384 : W32).toNat ≤ keyS.mgmt.cfg.staging.2 ∧ keyS.mgmt.cfg.staging.1 + keyS.mgmt.cfg.staging.2 ≤ 2 ^ 39)
    ∧ ((1 : Byte).toNat ≤ 1 ∧ keyS.mgmt.upd = false ∧ (1 : Byte).toNat ≠ (if keyS.mgmt.fwslot then 1 else 0)
      ∧ (0x10000 : W32).toNat ≤ keyS.mgmt.cfg.staging.2
      ∧ (1628 : W32).toNat ≤ keyS.mgmt.cfg.staging.2
      ∧ (let f := imageFile img0
        (stagedS f).hbm.latestBytes (stagedS f).mgmt.cfg.staging.1 (1628 : W32).toNat = f ∧ parseFile f = img0
          ∧ imageAccepted img0 (stagedS f).mgmt.fuseKey)
      ∧ keyS.hbm.latestBytes keyS.mgmt.cfg.staging.1 (0 : W32).toNat = [] ∧ ¬ imageAccepted (parseFile []) keyS.mgmt.fuseKey)
    ∧ (served keyS .doe none = true ∧ ({ keyS with turn := { what := .spdm .doe (some 3) } } : State).turn.what = .spdm .doe (some 3)
      ∧ (3 : BitVec 16).toNat ∉ [1, 2, 0x10, 0x11, 0x12] ∧ keyS.mgmt.stopped = false)
    ∧ (let s := withM (fun m => { m with
          boot := .ready, mbBusy := true, mbClass := 3, fwRunning := true, mbLen := 16,
          mbReq := memOf 8 [1, 0, 0xFF, 3, 0, 0x10, 1, 0] })
      s.mgmt.boot = .ready ∧ s.mgmt.mbBusy = true ∧ s.mgmt.mbPend = 0 ∧ s.mgmt.mbReply = .none ∧ s.mgmt.mbClass = 3
        ∧ s.mgmt.fwRunning = true ∧ s.mgmt.mbLen = 16
        ∧ s.mgmt.mbReq.bytes 8 8 = leBytes 2 1 ++ leBytes 2 (1023 : BitVec 16).toNat ++ leBytes 2 (4096 : BitVec 16).toNat ++ [1, 0]
        ∧ (1023 : BitVec 16).toNat ≤ 1023 ∧ 1 ≤ (4096 : BitVec 16).toNat ∧ (4096 : BitVec 16).toNat ≤ 4096 ∧ (1 : Byte).toNat ≤ 1) :=
  ⟨⟨by decide, by decide, by decide, by decide +kernel, by decide, by decide, by decide, unwrap0⟩, by decide, by decide,
    ⟨by decide, List.length_replicate, by decide, by decide, by decide⟩, ⟨by decide, by decide, by decide, by decide, by decide,
      ⟨staged_keyS _ file_img0, parse_img0, accepted_img0⟩, rfl, not_accepted_empty _⟩,
    by decide, by decide⟩
/-- No partition runs anything; a layout of eight partitions of one die, and one of all eight dies. -/
theorem witness_KeysFirmwarePolicy_layout :
    keyS.mgmt.boot = .ready ∧ keyS.mgmt.stopped = false ∧ (∀ j, j < 8 → (keyS.part j).run = none ∧ (keyS.part j).resident = none) ∧ (∀ x, (keyS.queue x).work = none)
    ∧ (let ds : List (List Nat) := (List.range 8).map (fun d => [d]);
      1 ≤ ds.length ∧ ds.length ≤ 8 ∧ (∀ l ∈ ds, l.length ∈ [1, 2, 4, 8] ∧ ∀ d ∈ l, d < 8) ∧ ds.flatten.Nodup)
    ∧ (let ds : List (List Nat) := [List.range 8];
      1 ≤ ds.length ∧ ds.length ≤ 8 ∧ (∀ l ∈ ds, l.length ∈ [1, 2, 4, 8] ∧ ∀ d ∈ l, d < 8) ∧ ds.flatten.Nodup) :=
  ⟨rfl, rfl, by decide, fun x => by rw [show keyS.queue x = {} from reset_queue x], by decide, by decide⟩
theorem witness_BootErrorsHeat :
    imageAccepted img0 keyS.mgmt.fuseKey ∧ ¬ imageAccepted { img0 with sig := [] } keyS.mgmt.fuseKey
    ∧ (let s : State := { State.reset with turn := { what := .rom } }
      s.turn.what = .rom ∧ s.mgmt.stopped = false ∧ s.mgmt.boot = .rom)
    ∧ ((1 : W) ≠ State.reset.mgmt.hbeat ∧ (withM (fun m => { m with boot := .starting })).mgmt.boot = .starting)
    ∧ (let s : State := { withM (fun m => { m with boot := .ready, updImage := some {} }) with now := 49999999 }
      s.mgmt.boot = .ready ∧ s.mgmt.updImage = some {} ∧ s.now < s.mgmt.updAt + 50000000 ∧ s.mgmt.updImage ≠ none)
    ∧ (let s : State := { withM (fun m => { m with boot := .ready, updImage := some {} }) with now := 50000000 }
      (1 : W) ≠ s.mgmt.hbeat ∧ s.mgmt.boot = .ready ∧ s.mgmt.updImage = some {} ∧ s.mgmt.updAt + 50000000 ≤ s.now)
    ∧ (let s : State := { withM (fun m => { m with boot := .ready }) with now := 99999999 }
      s.mgmt.boot = .ready ∧ s.mgmt.updImage = none ∧ s.now < s.mgmt.beatAt + 100000000)
    ∧ (let s : State := { withM (fun m => { m with boot := .ready }) with now := 100000000 }
      (1 : W) ≠ s.mgmt.hbeat ∧ s.mgmt.boot = .ready ∧ s.mgmt.updImage = none ∧ s.mgmt.beatAt + 100000000 ≤ s.now)
    ∧ ((35 : Fin 36).val ∉ State.reset.mgmt.linksDown ∧ (35 : Fin 36).val ∈ (withM (fun m => { m with linksDown := [35] })).mgmt.linksDown)
    ∧ (let s : State := withM (fun m => { m with stopped := true })
      s.mgmt.stopped = true ∧ s.turn.what = .engine ∧ (∀ img, Instr.vResultLanding ≠ .deviceReset img)) :=
  ⟨accepted_img0, not_accepted, ⟨rfl, rfl, rfl⟩, by decide, by decide, by decide, by decide, by decide, by decide, by decide, by decide, fun _ h => by cases h⟩
/-- Engine A at the last lane of line `l`, in a delay line with target `p` when there is one. -/
def lineCore (l : Line) (p : Option LineIx) : Core := { core0 with ea := { line := l, lane := 8, pend := p, inDelay := p.isSome } }
theorem witness_LinesAdvance :
    (let s := at_ .a (lineCore 198 none);
      (s.core.ctx .a).loop = none ∧ (s.core.ctx .a).seqNext = none ∧ (s.core.ctx .a).lane ≠ 0 ∧ (s.core.ctx .a).inDelay = false
        ∧ s.core.halted = none ∧ 198 + 1 < s.core.textLen ∧ s.poisoned (.istore s.turn.core) (32 * 199) 32 = false
        ∧ ({ s with poison := [(.istore 0, 32 * 199 + 31)] } : State).poisoned (.istore s.turn.core) (32 * 199) 32 = true
        ∧ s.core.handler = none ∧ s.core.trapv ≠ 0
        ∧ lineBad s.core .a 199 (s.core.lane 199 0) false = false ∧ isLb (s.core.lane 199 0) = false)
    ∧ (let s := at_ .a (lineCore 199 none)
      s.core.handler = none ∧ s.core.trapv ≠ 0 ∧ s.core.halted = none ∧ s.core.textLen ≤ 199 + 1)
    ∧ (let s := at_ .a (lineCore 5 (some 0));
      (s.core.ctx .a).loop = none ∧ (s.core.ctx .a).seqNext = none ∧ (s.core.ctx .a).lane ≠ 0 ∧ (s.core.ctx .a).inDelay = true
        ∧ (s.core.ctx .a).pend = some 0 ∧ 0 < s.core.textLen ∧ lineBad s.core .a 0 (s.core.lane 0 0) false = false)
    ∧ (at_ .a (lineCore 5 (some 200))).core.textLen ≤ (200 : LineIx).toNat
    -- a line past TEXTLEN which the store holds, with a header that no line has and with a good one; a line past both
    ∧ (let k := { lineCore 199 none with textLines := 201, istore := memOf (32 * 200) (leBytes 4 0xFFFFFFFF) }
      let s := at_ .a k
      s.core.textLen ≤ 200 ∧ 200 < s.core.textLines ∧ s.poisoned (.istore s.turn.core) (32 * 200) 32 = false
        ∧ lineBad s.core .a 200 (s.core.lane 200 0) false = true
        ∧ lineBad (at_ .a { k with istore := [] }).core .a 200 ((at_ .a { k with istore := [] }).core.lane 200 0) false = false
        ∧ isLb ((at_ .a { k with istore := [] }).core.lane 200 0) = false ∧ s.core.textLines ≤ 201) := by decide
/-- Engine M before lane 1, 6 or 7 of line 0, whose lanes all hold M's NOP but lane 6, an LI with its continuation. -/
def textCore (lane : Nat) : Core := { core0 with
  istore := memOf 0 (leBytes 4 0x0E333333 ++ (List.replicate 5 (leBytes 4 0xFC000000)).flatten ++ leBytes 4 0b10011100010000000000000000000001
    ++ leBytes 4 7)
  em := { lane := lane } }
def chainTurn : State :=
  { strmAt (active [] []) { core0 with well := wellOf 0 [0x26] } with turn := { stream := 2, what := .stream } }
def eventTurn0 (i : Instr) : State := { withM (fun m => { m with boot := .ready }) with turn := { what := .event i } }
theorem witness_StepRunsDecoded :
    (let s := at_ .m (textCore 1)
      let w := s.core.lane 0 1
      s.engineRuns ∧ tagAt (s.core.lane 0 0) 1 = (engNum .m).toNat ∧ isPfx w = false ∧ isLong .m w = false
        ∧ decodeInstr .m w 0 = some .nop ∧ s.core.em.inDelay = false ∧ s.core.em.loop = none ∧ isLoopb .nop = false ∧ isRett .nop = false)
    ∧ (let s := at_ .m (textCore 6)
      let w := s.core.lane 0 6
      s.engineRuns ∧ tagAt (s.core.lane 0 0) 6 = (engNum .m).toNat ∧ isPfx w = false ∧ isLong .m w = true
        ∧ tagAt (s.core.lane 0 0) 7 = 14 ∧ decodeInstr .m w (s.core.lane 0 7) = some (.li 4 0x100000007))
    ∧ (chainTurn.turn.what = .stream ∧ chainTurn.mgmt.stopped = false ∧ chainTurn.str.state = .active ∧ chainTurn.str.cmd = none
      ∧ chainTurn.str.waits = none ∧ chainTurn.str.fence = none ∧ chainTurn.str.walk = none ∧ chainTurn.str.inAtomic = false ∧ chainTurn.str.waiting = false
      ∧ chainTurn.poisoned (.well chainTurn.turn.core) chainTurn.str.cur.toNat 64 = false
      ∧ decodeEntry ((List.range 64).map (fun j =>
          (chainTurn.readEntry chainTurn.str.cur).core.well.get pathP ((chainTurn.str.cur.toNat + j) % 2 ^ 23))) = some .chainEnd
      ∧ chainTurn.str.completing = [] ∧ chainTurn.core.well.pend = [])
    ∧ ((eventTurn0 (.schedulerChoice 7)).turn.what = .event (.schedulerChoice 7) ∧ (eventTurn0 (.schedulerChoice 7)).mgmt.stopped = false
      ∧ isEvent (.schedulerChoice 7) = true ∧ (eventTurn0 (.schedulerChoice 7)).mgmt.boot = .ready) := by
  refine ⟨⟨by unfold State.engineRuns; decide, by decide⟩, ⟨by unfold State.engineRuns; decide, by decide⟩, by decide, by decide⟩
theorem witness_DecodeOfEncode : wellFormed .a (.li 31 0xFFFFFFFFFFFFF) = true ∧ wellFormed .m (.mgo) = true
    ∧ entryOk fill4 = true ∧ entryOk .chainEnd = true := by decide
theorem witness_RangesKept : State.reset.InRange ∧ (∃ t, step State.reset = .next t)
    ∧ (withM (fun m => { m with fqHeld := List.replicate 256 rec0, fqWaiting := [rec0], fqlog := 16, sigused := 2 ^ 20 })).InRange :=
  ⟨by unfold State.InRange; decide, ⟨_, rfl⟩, by unfold State.InRange; decide⟩

end Tests
end Sys2Proof
end

section
/-! PROOFS. The scalar group: each ALU meaning is one scalar result, whose value is that of R127-R131 and R133. -/

namespace Sys2Proof
namespace Machine

/-! ### The words that the scalar meanings compute, as numbers (R127-R131) -/

theorem shl_eq_ofNat (x : W) (n : Nat) : x <<< n = BitVec.ofNat 64 (x.toNat * 2 ^ n) := by
  rw [← Nat.shiftLeft_eq]; rfl

theorem shr_eq_ofNat (x : W) (n : Nat) : x >>> n = BitVec.ofNat 64 (x.toNat / 2 ^ n) := by
  rw [← Nat.shiftRight_eq_div_pow, ← BitVec.toNat_ushiftRight, BitVec.ofNat_toNat, BitVec.setWidth_eq]

theorem sshr_eq_ofInt (x : W) (n : Nat) : x.sshiftRight n = BitVec.ofInt 64 (x.toInt / 2 ^ n) := by
  rw [BitVec.sshiftRight, Int.shiftRight_eq_div_pow]; norm_cast

theorem mul_eq_ofNat (x y : W) : x * y = BitVec.ofNat 64 (x.toNat * y.toNat) := by
  rw [BitVec.ofNat_mul]; simp

/-- The choice that MIN and MAX make in the signed order (R127). -/
theorem ite_slt (x y u v : W) : (if y.slt x then v else u) = if x.toInt ≤ y.toInt then u else v := by
  simp only [BitVec.slt_iff_toInt_lt, ← not_le, ite_not]

/-- The choice that MINW and MAXW make in the unsigned order (R127). -/
theorem ite_ult (x y u v : W) : (if y.ult x then v else u) = if x.toNat ≤ y.toNat then u else v := by
  simp only [BitVec.ult_iff_lt, BitVec.lt_def, ← not_le, ite_not]

theorem divS_eq (x y : W) : divS x y = if y = 0 then BitVec.allOnes 64 else BitVec.ofInt 64 (x.toInt.tdiv y.toInt) := by
  unfold divS
  have h : x.sdiv y = BitVec.ofInt 64 (x.toInt.tdiv y.toInt) :=
    BitVec.eq_of_toInt_eq (by rw [BitVec.toInt_sdiv, BitVec.toInt_ofInt])
  rw [h]

theorem divU_eq (x y : W) : divU x y = if y = 0 then BitVec.allOnes 64 else BitVec.ofNat 64 (x.toNat / y.toNat) := by
  unfold divU
  rw [← BitVec.toNat_udiv, BitVec.ofNat_toNat, BitVec.setWidth_eq]

theorem remS_eq (x y : W) : remS x y = if y = 0 then x else BitVec.ofInt 64 (x.toInt.tmod y.toInt) := by
  unfold remS
  rw [← BitVec.toInt_srem, BitVec.ofInt_toInt]

theorem remU_eq (x y : W) : remU x y = if y = 0 then x else BitVec.ofNat 64 (x.toNat % y.toNat) := by
  unfold remU
  rw [← BitVec.toNat_umod, BitVec.ofNat_toNat, BitVec.setWidth_eq]

theorem ofNat_clz64 (x : W) : BitVec.ofNat 64 (clz64 x) = if x = 0 then 64 else BitVec.ofNat 64 (63 - Nat.log2 x.toNat) := by
  unfold clz64; split <;> rfl

/-- A 20-bit immediate in the upper bits: sign-extended and shifted, it is its value times 2^14 (R129). -/
theorem signExtend_shl_14 (i : BitVec 20) : i.signExtend 64 <<< 14 = BitVec.ofInt 64 (i.toInt * 2 ^ 14) := by
  rw [BitVec.ofInt_mul, BitVec.shiftLeft_eq_mul_twoPow]; rfl

/-- The extracted field, as a number: a quotient and a remainder (R131). -/
theorem shr_and_bfMask (x : W) (p w : BitVec 6) :
    (x >>> p.toNat) &&& bfMask w = BitVec.ofNat 64 (x.toNat / 2 ^ p.toNat % 2 ^ (w.toNat + 1)) := by
  rw [shr_eq_ofNat, bfMask, ← BitVec.ofNat_and, Nat.and_two_pow_sub_one_eq_mod]

/-! ### A compare's one bit (R130) -/

/-- Setting or clearing bit `p` of the destination is replacing that bit. -/
theorem cmpResult_eq (s : State) (d : Reg) (p : BitVec 6) (b : Bool) :
    cmpResult s d p b = scalarResult s d (withBit (s.src d) p.toNat b) := by
  unfold cmpResult withBit
  have hset : ∀ x m : W, x ||| m = (x &&& ~~~m) ||| m := fun x m => by
    ext j hj; by_cases h : m[j] <;> simp [h]
  cases b
  · simp
  · simp only [if_true]; rw [← hset]

/-! ### Every scalar meaning is one scalar result -/

theorem scalarResult_congr {s : State} {d : Reg} {x y : W} {z : Bool} (h : x = y) :
    scalarResult s d x z = scalarResult s d y z := by rw [h]

/-- A scalar instruction does what `scalarResult` does, with the register, the value and the divide-by-zero flag of the rules
(R127-R131, R133). -/
theorem exec_eq_scalarResult (s : State) (i : Instr) (r : Reg × W × Bool) (h : aluResult s.src i = some r) :
    exec i s = scalarResult s r.1 r.2.1 r.2.2 := by
  cases i with
  | add | sub | and | or | xor | sel | popc | mulh | mulhw | addi | andi | ori | xori | li | bins => cases h; rfl
  | shl | shli => cases h; exact scalarResult_congr (shl_eq_ofNat _ _)
  | shr | shri => cases h; exact scalarResult_congr (shr_eq_ofNat _ _)
  | sra | srai => cases h; exact scalarResult_congr (sshr_eq_ofInt _ _)
  | mul => cases h; exact scalarResult_congr (mul_eq_ofNat _ _)
  | min | max => cases h; exact scalarResult_congr (ite_slt _ _ _ _)
  | minw | maxw => cases h; exact scalarResult_congr (ite_ult _ _ _ _)
  | div => cases h; exact scalarResult_congr (divS_eq _ _)
  | divw => cases h; exact scalarResult_congr (divU_eq _ _)
  | rem => cases h; exact scalarResult_congr (remS_eq _ _)
  | remw => cases h; exact scalarResult_congr (remU_eq _ _)
  | clz => cases h; exact scalarResult_congr (ofNat_clz64 _)
  | lui => cases h; exact scalarResult_congr (signExtend_shl_14 _)
  | bext => cases h; exact scalarResult_congr (shr_and_bfMask _ _ _)
  | addr => cases h; simp only [exec_addr, execAddr, shl_eq_ofNat]
  | cmpEq => cases h; simp only [exec_cmpEq, execCmpEq, cmpResult_eq, beq_eq_decide]
  | cmpNe => cases h; simp only [exec_cmpNe, execCmpNe, cmpResult_eq, bne, beq_eq_decide, ← decide_not]
  | cmpLt => cases h; simp only [exec_cmpLt, execCmpLt, cmpResult_eq, BitVec.slt_eq_decide]
  | cmpLtw => cases h; simp only [exec_cmpLtw, execCmpLtw, cmpResult_eq, BitVec.ult_eq_decide]
  | cmpGe => cases h; simp only [exec_cmpGe, execCmpGe, cmpResult_eq, BitVec.slt_eq_decide, ← decide_not, not_lt]
  | cmpGew => cases h; simp only [exec_cmpGew, execCmpGew, cmpResult_eq, BitVec.ult_eq_decide, ← decide_not, not_lt]
  | cmpTst => cases h; simp only [exec_cmpTst, execCmpTst, cmpResult_eq, bne, beq_eq_decide, ← decide_not]
  | cmpTstz => cases h; simp only [exec_cmpTstz, execCmpTstz, cmpResult_eq, beq_eq_decide]
  | _ => cases h

/-! ### How a scalar result leaves the core -/

/-- The flag register that a division by zero sets, outside V (R126, R150). -/
theorem setDz_eq_dzSet (k : Core) (e : Engine) : k.setDz e = { k with csr := dzSet e k.csr } := by
  cases e <;> rfl

/-- A scalar result of C, A or M is written at once, with DZ (R125, R126). -/
theorem scalarResult_done (s : State) (d : Reg) (x : W) (z : Bool) (he : s.eng ≠ .v) :
    ∃ t, scalarResult s d x z = .next t
      ∧ s.Done t s.eng ({ s.core with csr := if z && d != 0 then dzSet s.eng s.core.csr else s.core.csr }.setS s.eng d x) := by
  obtain ⟨t, ht, hd⟩ := onCore_put s id s.eng d x z he rfl
  refine ⟨t, ht, ?_⟩
  have hcsr : ({ s.core with csr := if z && d != 0 then dzSet s.eng s.core.csr else s.core.csr } : Core)
      = if z && d != 0 then s.core.setDz s.eng else s.core := by
    split
    · exact (setDz_eq_dzSet _ _).symm
    · rfl
  rw [hcsr]
  exact hd

/-- A scalar result of V takes flight with its DZ, and lands two slots on (R125, R210). -/
theorem scalarResult_doneV (s : State) (d : Reg) (x : W) (z : Bool) (he : s.eng = .v) :
    ∃ t, scalarResult s d x z = .next t
      ∧ s.Done t .v (s.core.withFlight 2 (.scalar d x) (if z && d != 0 then Flags.dz else 0) s.issue) := by
  unfold scalarResult
  rw [he]
  exact onCore_putV s id d x z rfl

/-- Settles O2: the instruction is a scalar result, and the two laws of scalar results say how it leaves the core. -/
theorem scalarResults : Obligations.ScalarResults := by
  refine ⟨fun s i d x z he _ h => ?_, fun s i d x z he _ h => ?_⟩
  · rw [exec_eq_scalarResult s i _ h]
    exact scalarResult_done s d x z he
  · rw [exec_eq_scalarResult s i _ h]
    exact scalarResult_doneV s d x z he

end Machine
end Sys2Proof
end

section
/-! PROOFS. The A engine's stream and tile instructions: the status and entry words of R159 and R163, and how each instruction leaves
its core (R158-R163). -/

namespace Sys2Proof
namespace Machine

/-! ### The words and codes that the instructions move -/

/-- The status word, a flag's bit as a choice (R159). -/
theorem statusWord_eq (t : Stream) : statusWord t = BitVec.ofNat 64 (t.pos.toNat * 2 ^ 32 + t.entry.toNat * 2 ^ 8
    + (if t.flt then 128 else 0) + t.queued.length * 16 + (if t.waiting then 8 else 0) + stateCode t.state) := by
  cases hf : t.flt <;> cases hw : t.waiting <;> simp [statusWord, bnat, hf, hw]

/-- The entry word of a tile, its HELD bit as a choice (R163). -/
theorem tileWord_eq (x : Tile) : tileWord x = BitVec.ofNat 64 ((if x.held.isSome then 2 ^ 58 else 0)
    + tileCode x.state * 2 ^ 56 + x.len * 2 ^ 32 + x.base.toNat) := by
  cases h : x.held <;> simp [tileWord, bnat, h]

/-- The low six bits of an offset cleared, as a number (R160). -/
theorem toNat_clear_low_six (x : Off) : (x &&& ~~~(63 : Off)).toNat = x.toNat / 64 * 64 := by
  have h : x &&& ~~~(63 : Off) = x >>> 6 <<< 6 := by
    ext i hi
    have h63 : (63 : Off)[i] = decide (i < 6) := by
      rw [← BitVec.getLsbD_eq_getElem, show (63 : Off) = BitVec.ofNat 23 (2 ^ 6 - 1) from rfl, BitVec.getLsbD_ofNat,
        Nat.testBit_two_pow_sub_one]
      simp [hi]
    rw [BitVec.getElem_and, BitVec.getElem_not, h63]
    by_cases h6 : i < 6
    · simp [h6]
    · simp [h6, Nat.add_sub_cancel' (not_lt.mp h6), BitVec.getLsbD_eq_getElem hi]
  have hx := x.isLt
  rw [h, BitVec.toNat_shiftLeft, BitVec.toNat_ushiftRight, Nat.shiftRight_eq_div_pow, Nat.shiftLeft_eq]
  omega

/-! ### How an instruction of A leaves its core -/

/-- An instruction of A that writes a register and completes. -/
theorem onCore_putA (s : State) (f : Core → Core) (r : Reg) (x : W) (he : s.eng = .a)
    (hf : f s.core = s.core.put s.eng s.issue r x) :
    ∃ t, onCore s f = .next t ∧ s.Done t .a (s.core.setS .a r x) := by
  refine onCore_done s f (fun k => k.setS .a r x) .a ?_ (Core.setS_halted _ _ _ _)
  rw [hf, he]
  rfl

/-- A chain is accepted: it is queued on its stream, with its head at the offset of R160 and the resident cell's handle set (R35). -/
theorem Core.acceptChain_eq (k : Core) (n : Nat) (off : Off) :
    ∃ c : Chain, k.acceptChain n off = k.setStream n { k.stream n with queued := (k.stream n).queued ++ [c] }
      ∧ c.khead.toNat = off.toNat / 64 * 64 ∧ c.cell = k.cellId :=
  ⟨_, rfl, toNat_clear_low_six off, rfl⟩

/-- MVX queues a chain where fewer than four are queued (R158, R160). -/
theorem execMvx_done (s : State) (r : Reg) (n : BitVec 2) (he : s.eng = .a) (hq : (s.core.stream n.toNat).queued.length < 4) :
    ∃ t ch, execMvx r n s = .next t
      ∧ s.Done t .a (s.core.setStream n.toNat { s.core.stream n.toNat with queued := (s.core.stream n.toNat).queued ++ [ch] })
      ∧ ch.khead.toNat = (s.src r).toNat % 2 ^ 23 / 64 * 64 ∧ ch.cell = s.core.cellId := by
  obtain ⟨ch, hk, hhead, hcell⟩ := s.core.acceptChain_eq n.toNat ((s.src r).setWidth 23)
  have hdone : ∃ t, execMvx r n s = .next t ∧ s.Done t .a (s.core.acceptChain n.toNat ((s.src r).setWidth 23)) :=
    onCore_done s _ (fun k => k.acceptChain n.toNat _) .a (by rw [← he]; exact if_neg (not_le.mpr hq)) rfl
  rw [hk] at hdone
  obtain ⟨t, ht, hd⟩ := hdone
  exact ⟨t, ch, ht, hd, by rw [hhead, BitVec.toNat_setWidth], hcell⟩

/-- MVX waits while four chains are queued (R158, R160). -/
theorem execMvx_waits (s : State) (r : Reg) (n : BitVec 2) (he : s.eng = .a) (hq : 4 ≤ (s.core.stream n.toNat).queued.length) :
    ∃ t, execMvx r n s = .next t ∧ s.Waits t .a (.streamFull n.toNat) :=
  onCore_waits s _ .a _ (by rw [← he]; exact if_pos hq)

/-- MVQ reads the status word (R161). -/
theorem execMvq_done (s : State) (r : Reg) (n : BitVec 2) (he : s.eng = .a) :
    ∃ t, execMvq r n s = .next t ∧ s.Done t .a (s.core.setS .a r (statusWord (s.core.stream n.toNat))) :=
  onCore_putA s _ r _ he rfl

/-- MVW reads the status word of a stream that has run dry (R161). -/
theorem execMvw_done (s : State) (r : Reg) (n : BitVec 2) (he : s.eng = .a) (hs : (s.core.stream n.toNat).state = .idle)
    (hq : (s.core.stream n.toNat).queued = []) :
    ∃ t, execMvw r n s = .next t ∧ s.Done t .a (s.core.setS .a r (statusWord (s.core.stream n.toNat))) :=
  onCore_putA s _ r _ he (if_pos ⟨hs, List.isEmpty_iff.mpr hq⟩)

/-- MVW waits for a stream that has not run dry (R161). -/
theorem execMvw_waits (s : State) (r : Reg) (n : BitVec 2) (he : s.eng = .a)
    (h : (s.core.stream n.toNat).state ≠ .idle ∨ (s.core.stream n.toNat).queued ≠ []) :
    ∃ t, execMvw r n s = .next t ∧ s.Waits t .a (.streamBusy n.toNat) := by
  refine onCore_waits s _ .a _ ?_
  rw [← he]
  exact if_neg (fun ⟨hs, hq⟩ => h.elim (· hs) (· (List.isEmpty_iff.mp hq)))

section
variable (s : State) (b e l : Reg) (i : BitVec 8) (c : BitVec 2) (he : s.eng = .a)
include he

/-- TDEF sets BASE and LEN of an entry that no command holds (R162). -/
theorem execTdef_done (hh : (s.core.tile (tileIndex (s.src e) i)).held = none) :
    ∃ t, execTdef b e i l s = .next t ∧ s.Done t .a (s.core.setTile (tileIndex (s.src e) i)
      { s.core.tile (tileIndex (s.src e) i) with
        base := (s.src b).setWidth 23, len := if (s.src l).toNat < 2 ^ 23 then (s.src l).toNat else 2 ^ 23 }) := by
  refine onCore_done s _ (fun k => k.setTile _ _) .a ?_ rfl
  rw [← he]
  exact if_neg (Option.not_isSome_iff_eq_none.mpr hh)

/-- TDEF waits while a command holds the entry (R62, R162). -/
theorem execTdef_waits (hh : (s.core.tile (tileIndex (s.src e) i)).held ≠ none) :
    ∃ t, execTdef b e i l s = .next t ∧ s.Waits t .a (.tileHeld (tileIndex (s.src e) i)) :=
  onCore_waits s _ .a _ (by rw [← he]; exact if_pos (Option.isSome_iff_ne_none.mpr hh))

/-- TSET sets STATE of an entry that no command holds (R62, R162). -/
theorem execTset_done (hh : (s.core.tile (tileIndex (s.src e) i)).held = none) :
    ∃ t, execTset e i c s = .next t ∧ s.Done t .a (s.core.setTile (tileIndex (s.src e) i)
      { s.core.tile (tileIndex (s.src e) i) with state := tileOf c }) := by
  refine onCore_done s _ (fun k => k.setTile _ _) .a ?_ rfl
  rw [← he]
  exact if_neg (Option.not_isSome_iff_eq_none.mpr hh)

/-- TSET waits while a command holds the entry (R62, R162). -/
theorem execTset_waits (hh : (s.core.tile (tileIndex (s.src e) i)).held ≠ none) :
    ∃ t, execTset e i c s = .next t ∧ s.Waits t .a (.tileHeld (tileIndex (s.src e) i)) :=
  onCore_waits s _ .a _ (by rw [← he]; exact if_pos (Option.isSome_iff_ne_none.mpr hh))

end

/-- TGET reads the entry word (R162, R163). -/
theorem execTget_done (s : State) (d e : Reg) (i : BitVec 8) (he : s.eng = .a) :
    ∃ t, execTget d e i s = .next t ∧ s.Done t .a (s.core.setS .a d (tileWord (s.core.tile (tileIndex (s.src e) i)))) :=
  onCore_putA s _ d _ he rfl

/-- Settles O19: what each instruction does to its stream or to its tile entry. -/
theorem aInstructions : Obligations.AInstructions := by
  refine ⟨fun s r n he => ?_, fun s b e l d i c he => ?_⟩
  · intro x status
    have hst : status = statusWord x := (statusWord_eq x).symm
    rw [hst]
    exact ⟨execMvx_done s r n he, execMvx_waits s r n he, execMvq_done s r n he, execMvw_done s r n he, execMvw_waits s r n he⟩
  · intro n x
    have hset : tileOf c = match c.toNat with | 0 => .empty | 1 => .filling | 2 => .ready | _ => .draining := by
      revert c; decide
    refine ⟨fun hh => ?_, fun hh => ?_, fun hh => ⟨?_, ?_⟩, ?_⟩
    · rw [min_def_lt]
      exact execTdef_done s b e l i he hh
    · obtain ⟨t, ht, hd⟩ := execTset_done s e i c he hh
      rw [hset] at hd
      exact ⟨t, ht, hd⟩
    · exact execTdef_waits s b e l i he hh
    · exact execTset_waits s e i c he hh
    · obtain ⟨t, ht, hd⟩ := execTget_done s d e i he
      rw [tileWord_eq] at hd
      exact ⟨t, ht, hd⟩

end Machine
end Sys2Proof
end

section
/-! PROOFS. The control entries of a chain: what a control entry makes of its stream, reads of bytes to which no write is pending, and the
record of a malformed entry (R164, R165, R174-R179, R197, R325). -/

namespace Sys2Proof
namespace Machine

/-! ### A meaning within one stream -/

/-- A meaning within the core leaves the core as it computed it. -/
theorem onCore_leaves (s : State) (f : Core → Core) (e : Engine) (k : Core) (hf : f s.core = k) (hh : k.halted = s.core.halted) :
    ∃ t, onCore s f = .next t ∧ s.Left t e k := by
  obtain ⟨t, ht, hl, _⟩ := onCore_left s f e (by rw [hf, hh])
  exact ⟨t, ht, hf ▸ hl⟩

/-- A change of the stream of the turn is all that happens. -/
theorem onStream_is (s : State) (f : Stream → Stream) (x : Stream) (hf : f s.str = x) :
    ∃ u, onStream s f = .next u ∧ s.StreamIs u x :=
  hf ▸ onCore_leaves s _ .a _ rfl rfl

/-- A stream that executes a control entry shows the entry's index (R159). -/
theorem Stream.ctl_active (t : Stream) (f : Stream → Stream) (ha : t.state = .active) (hc : t.cmd = none) :
    t.ctl f = f { t with entry := entryIndex t } :=
  if_pos ⟨ha, Option.isNone_iff_eq_none.mpr hc⟩

/-- A control entry is all that happens. -/
theorem onStream_ctl (s : State) (f : Stream → Stream) (x : Stream) (ha : s.str.state = .active) (hc : s.str.cmd = none)
    (hf : f { s.str with entry := entryIndex s.str } = x) : ∃ u, onStream s (fun t => t.ctl f) = .next u ∧ s.StreamIs u x :=
  onStream_is s _ x ((Stream.ctl_active s.str f ha hc).trans hf)

/-! ### Reads of bytes to which no write is pending -/

/-- A write with none of some bytes of the well does not touch them. -/
theorem Core.not_touches_of_settledOn {k : Core} {a n : Nat} (h : k.settledOn a n) (c : Fin 128) :
    ∀ w ∈ k.well.pend, w.touches (.well c) a n = false := by
  intro w hw
  exact List.any_eq_false.mpr (fun x hx hin => absurd (of_decide_eq_true hin) (not_lt.mpr (h w hw x hx)))

/-- A read of settled bytes of the own well changes nothing. -/
theorem State.pathRead_settled (s : State) (a n : Nat) (h : s.core.settledOn a n) :
    s.pathRead s.turn.core s.turn.stream.val a n = s :=
  State.pathRead_quiet s _ _ _ _ (Core.not_touches_of_settledOn h _)

/-- A read of a settled count changes nothing (R176). -/
theorem State.readCount_settled (s : State) (a : Off) (h : s.core.settledAt a) : s.readCount a = s := by
  have hr : s.semRead s.turn.core s.turn.stream.val a = s := s.pathRead_settled (semAt a) 4 h
  rw [State.readCount, hr, ite_self]

/-- The count that a stream sees, byte by byte. -/
theorem Core.semSeen_eq (k : Core) (a : Off) :
    k.semSeen a = leNat ((List.range 4).map (fun j => k.well.get pathP (a.toNat / 8 * 8 + j))) := rfl

/-- The search for the end of a skipped loop ends at an ENDL that follows at once (R175). -/
theorem skipLoop_endl (fuel : Nat) (s : State) (off : Off) (hp : s.poisoned (.well s.turn.core) off.toNat 64 = false)
    (hs : s.core.settledOn off.toNat 64) (hk : (entByte (s.core.entryAt off) 0).toNat = 0x21) :
    skipLoop (fuel + 1) s off 0 = (s, .found (off + 64)) := by
  have hr : s.readEntry off = s := State.pathRead_settled s _ _ hs
  have hb : s.entryBad off = false := hp
  simp [skipLoop, hb, hr, hk]

/-! ### A malformed entry -/

/-- The record of a pump fault: 64 bytes, of which the first sixteen name the fault (R325). -/
theorem recordBytes_layout (cause : Nat) (ctx : BitVec 12) (core unit level acc : Nat) (va : W) (p entry khead kind seq : Nat)
    (tinfo tline : W) :
    let r := recordBytes 1 cause ctx core unit level acc va p entry khead kind seq tinfo tline
    r.length = 64 ∧ r.take 2 = [1, BitVec.ofNat 8 cause] ∧ r[4]? = some (BitVec.ofNat 8 core) ∧ r[5]? = some (BitVec.ofNat 8 unit)
      ∧ r[6]? = some (BitVec.ofNat 8 level) ∧ r[7]? = some (BitVec.ofNat 8 acc) ∧ (r.drop 8).take 8 = leBytes 8 va.toNat := by
  simp [recordBytes, leBytes]

/-- A record reaches the hub behind those that are there (R325). -/
theorem State.records_postRecord (s : State) (r : Record) :
    (s.postRecord r).mgmt.fqHeld ++ (s.postRecord r).mgmt.fqWaiting = s.mgmt.fqHeld ++ s.mgmt.fqWaiting ++ [r] := by
  unfold State.postRecord
  dsimp only
  split
  · rename_i h
    have hw : s.mgmt.fqWaiting = [] := List.isEmpty_iff.mp (Bool.and_eq_true_iff.mp h).1
    simp [hw]
  · simp

/-- A stream as a fault in reading its entry at `off` leaves it: at position 0 of that entry (R165, R174, R197). -/
def Stream.entrySuspended (t : Stream) (off : Off) : Stream :=
  { t with
    state := .suspended, flt := true, faults := t.faults + 1, pos := 0, entry := entryIndex { t with cur := off }, walk := none,
    waiting := false, early := [] }

/-- A stream replaced twice is replaced by the last. -/
theorem Core.setStream_setStream (k : Core) (n : Nat) (t u : Stream) : (k.setStream n t).setStream n u = k.setStream n u := by
  unfold Core.setStream vset
  simp

/-- A core replaced twice is replaced by the last. -/
theorem State.setCoreAt_setCoreAt (s : State) (c : Fin 128) (k l : Core) : (s.setCoreAt c k).setCoreAt c l = s.setCoreAt c l := by
  simp [State.setCoreAt]

/-- A fault in reading an entry posts one record and suspends the stream of the turn; nothing else of its core changes. -/
theorem State.entryFault_eq (s : State) (off : Off) (cause : Nat) :
    ∃ (ctx : BitVec 12) (p entry khead kind seq : Nat), s.entryFault off cause
      = (s.setCoreAt s.turn.core (s.core.setStream s.turn.stream.val (s.str.entrySuspended off))).postRecord
          (recordBytes 1 cause ctx s.turn.core.val s.turn.stream.val 0xFF 4 0 p entry khead kind seq 0 0) := by
  have hlt := s.turn.stream.isLt
  unfold State.entryFault State.suspendAt
  simp only [State.setCoreAt_coreAt, State.setCoreAt_setCoreAt, Core.setStream_setStream, Core.stream_setStream, hlt, and_self, if_true]
  exact ⟨_, _, _, _, _, _, rfl⟩

/-- A fault in reading an entry is a pump fault at position 0 (R165, R174, R197). -/
theorem State.suspended_entryFault (s : State) (off : Off) (cause : Nat) : s.Suspended (s.entryFault off cause) cause 0xFF 4 0 0 := by
  obtain ⟨ctx, p, entry, khead, kind, seq, h⟩ := s.entryFault_eq off cause
  rw [h]
  generalize hr : recordBytes 1 cause ctx s.turn.core.val s.turn.stream.val 0xFF 4 0 p entry khead kind seq 0 0 = r
  obtain ⟨hlen, hhead, hcore, hunit, hlevel, hacc, hva⟩ :=
    hr ▸ recordBytes_layout cause ctx s.turn.core.val s.turn.stream.val 0xFF 4 0 p entry khead kind seq 0 0
  have hk : ((s.setCoreAt s.turn.core (s.core.setStream s.turn.stream.val (s.str.entrySuspended off))).postRecord r).core
      = s.core.setStream s.turn.stream.val (s.str.entrySuspended off) := by
    rw [State.postRecord_eq]
    exact State.setCoreAt_coreAt s _ _
  have hx : (s.core.setStream s.turn.stream.val (s.str.entrySuspended off)).stream s.turn.stream.val = s.str.entrySuspended off := by
    rw [Core.stream_setStream, if_pos ⟨rfl, s.turn.stream.isLt⟩]
  unfold State.Suspended
  rw [hk, hx]
  refine ⟨rfl, rfl, rfl, rfl, rfl, rfl, rfl, fun m _ hm => ?_, rfl, rfl, ?_, r, State.records_postRecord _ r, hlen, hhead, hcore,
    hunit, hlevel, hacc, hva⟩
  · rw [Core.stream_setStream, if_neg (fun h => hm h.1.symm)]
  · rw [State.postRecord_eq]
    rfl

/-- A malformed entry is a pump fault at position 0 (R174, R372). -/
theorem State.suspended_malformedEntry (s : State) : s.Suspended s.malformedEntry 6 0xFF 4 0 0 :=
  s.suspended_entryFault s.str.cur cEntry

/-! ### The control entries -/

/-- CHAIN_START: a queued chain starts at its head (R160, R164, R179). -/
theorem execChainStart_starts (s : State) (c : Chain) (rest : List Chain) (hi : s.str.state = .idle) (hq : s.str.queued = c :: rest) :
    ∃ u, execChainStart s = .next u ∧ s.StreamIs u { s.str with
      state := .active, chain := some c, queued := rest, cur := c.khead, entry := 0, loops := [], early := []
      readIds := (s.str.readIds ++ c.inherit_).dedup } :=
  onStream_is s _ _ (by simp only [hi, hq])

section
variable (s : State) (ha : s.str.state = .active) (hc : s.str.cmd = none)
include ha hc

/-- The entry that a stream with no command executes is not passed over. -/
theorem State.executes : ¬ (s.str.state ≠ .active ∨ s.str.cmd.isSome = true) := by
  rw [ha, hc]
  exact fun h => h.elim (· rfl) Bool.false_ne_true

/-- LOOP opens a loop of n passes (R175). -/
theorem execLoop_opens (n : W32) (ds dd dx : W) (hn : n ≠ 0) (hl : s.str.loops.length < 4) :
    ∃ u, execLoop n ds dd dx s = .next u ∧ s.StreamIs u { s.str with
      entry := entryIndex s.str, cur := s.str.cur + 64
      loops := { start := s.str.cur + 64, n := n, i := 0, ds := ds, dd := dd, dx := dx } :: s.str.loops } := by
  unfold execLoop
  simp only [s.executes ha hc, not_le.mpr hl, hn, if_false]
  exact onStream_ctl s _ _ ha hc rfl

/-- A fifth LOOP is malformed (R174, R175). -/
theorem execLoop_fifth (n : W32) (ds dd dx : W) (hl : 4 ≤ s.str.loops.length) :
    execLoop n ds dd dx s = .next s.malformedEntry := by
  unfold execLoop
  simp only [s.executes ha hc, hl, if_false, if_true]

/-- A LOOP of no pass goes on after the ENDL that the search finds (R175). -/
theorem execLoop_skips (ds dd dx : W) (off : Off) (hl : s.str.loops.length < 4)
    (hf : skipLoop maxEntries s (s.str.cur + 64) 0 = (s, .found off)) :
    ∃ u, execLoop 0 ds dd dx s = .next u ∧ s.StreamIs u { s.str with entry := entryIndex s.str, cur := off } := by
  unfold execLoop
  simp only [s.executes ha hc, not_le.mpr hl, hf, if_false, if_true]
  exact onStream_ctl s _ _ ha hc rfl

/-- ENDL goes back to the first entry of its loop, or closes it after the last pass (R175). -/
theorem execEndl_loop (l : LoopFrame) (rest : List LoopFrame) (hl : s.str.loops = l :: rest) :
    ∃ u, execEndl s = .next u ∧ s.StreamIs u (if l.i + 1 < l.n
      then { s.str with entry := entryIndex s.str, cur := l.start, loops := { l with i := l.i + 1 } :: rest }
      else { s.str with entry := entryIndex s.str, cur := s.str.cur + 64, loops := rest }) := by
  unfold execEndl
  rw [if_neg (fun ⟨_, _, h⟩ => by simp [hl] at h)]
  exact onStream_ctl s _ _ ha hc (by simp only [hl]; rfl)

/-- An ENDL with no open loop is malformed (R174, R175). -/
theorem execEndl_none (hl : s.str.loops = []) : execEndl s = .next s.malformedEntry := by
  unfold execEndl
  rw [if_pos ⟨ha, Option.isNone_iff_eq_none.mpr hc, List.isEmpty_iff.mpr hl⟩]

/-- IFSEM goes on, or skips n entries when the count is too low (R176). -/
theorem execIfsem_settled (a : Off) (n sk : W32) (h : s.core.settledAt a) :
    ∃ u, execIfsem a n sk s = .next u ∧ s.StreamIs u (if n.toNat ≤ s.core.semSeen a
      then { s.str with entry := entryIndex s.str, cur := s.str.cur + 64, early := [] }
      else { s.str with
        entry := entryIndex s.str, cur := s.str.cur + BitVec.ofNat 23 (64 * (sk.toNat + 1)), early := [] }) := by
  unfold execIfsem
  rw [s.readCount_settled a h]
  exact onStream_ctl s _ _ ha hc rfl

/-- WAITS goes on, or waits while the count is too low (R176). -/
theorem execWaits_settled (a : Off) (n : W32) (h : s.core.settledAt a) :
    ∃ u, execWaits a n s = .next u ∧ s.StreamIs u (if n.toNat ≤ s.core.semSeen a
      then { s.str with entry := entryIndex s.str, cur := s.str.cur + 64, waits := none, waiting := false, early := [] }
      else { s.str with entry := entryIndex s.str, waits := some (a, n), waiting := true }) := by
  unfold execWaits
  rw [s.readCount_settled a h]
  exact onStream_ctl s _ _ ha hc rfl

end

/-- An entry offset as a distance in bytes: 64 times its signed value, modulo the size of the well (R177). -/
theorem setWidth_shl_6 (off : W32) : off.setWidth 23 <<< 6 = BitVec.ofInt 23 (64 * off.toInt) := by
  rw [mul_comm, BitVec.ofInt_mul, BitVec.shiftLeft_eq_mul_twoPow, ← BitVec.signExtend_eq_setWidth_of_le _ (by decide)]
  rfl

/-- JMP goes to its entry (R177). -/
theorem execJmp_goes (s : State) (off : W32) (ha : s.str.state = .active) (hc : s.str.cmd = none) :
    ∃ u, execJmp off s = .next u ∧ s.StreamIs u { s.str with
      entry := entryIndex s.str, cur := s.str.cur + BitVec.ofInt 23 (64 * off.toInt) } := by
  rw [← setWidth_shl_6]
  exact onStream_ctl s _ _ ha hc rfl

/-- END ends the chain once every command has completed (R179). -/
theorem execChainEnd_ends (s : State) (ha : s.str.state = .active) (hc : s.str.cmd = none) (hd : s.str.completing = []) :
    ∃ u, execChainEnd s = .next u ∧ s.Left u .a (s.core.setStream s.turn.stream.val
      { s.str with entry := entryIndex s.str, state := .idle, chain := none, loops := [] }).dropSets :=
  onCore_leaves s _ .a _ (if_pos ⟨ha, Option.isNone_iff_eq_none.mpr hc, List.isEmpty_iff.mpr hd⟩) rfl

/-- END waits while a command has not completed (R179). -/
theorem execChainEnd_waits (s : State) (hd : s.str.completing ≠ []) : ∃ u, execChainEnd s = .next u ∧ s.Left u .a s.core :=
  onCore_leaves s _ .a _ (if_neg (fun ⟨_, _, h⟩ => hd (List.isEmpty_iff.mp h))) rfl

/-- An END that ended its chain changes nothing of its core but the stream of the turn and the handle sets that go with it (R35). -/
theorem State.Left.chainEnded {s u : State} {x : Stream} (h : s.Left u .a (s.core.setStream s.turn.stream.val x).dropSets) :
    s.OnlyCore u ∧ u.core.stream s.turn.stream.val = x
      ∧ (∀ m, m < 4 → m ≠ s.turn.stream.val → u.core.stream m = s.core.stream m)
      ∧ u.core.regs = s.core.regs ∧ u.core.tiles = s.core.tiles ∧ u.core.urs = s.core.urs := by
  have hst : ∀ m, u.core.stream m = (s.core.setStream s.turn.stream.val x).stream m := fun m => by rw [h.rest]; rfl
  refine ⟨h.outside, ?_, fun m _ hm => ?_, by rw [h.rest]; rfl, by rw [h.rest]; rfl, by rw [h.rest]; rfl⟩
  · rw [hst, Core.stream_setStream, if_pos ⟨rfl, s.turn.stream.isLt⟩]
  · rw [hst, Core.stream_setStream, if_neg (fun he => hm he.1.symm)]

/-- Settles O41: each entry is a change of the stream of the turn alone, or a malformed entry. -/
theorem chainControl : Obligations.ChainControl := by
  intro s n sk off ds dd dx a t run count settled
  have hcount : count = s.core.semSeen a := (s.core.semSeen_eq a).symm
  refine ⟨execChainStart_starts s, fun ha hc => ⟨execLoop_opens s ha hc n ds dd dx, fun hl => ?_, fun hn hl hp hs hk => ?_,
    fun l rest hl => ⟨fun hi => ?_, fun hi => ?_⟩, fun hl => ?_, fun hs hle => ⟨?_, ?_⟩, fun hs hlt => ⟨?_, ?_⟩,
    execJmp_goes s off ha hc, fun hd => ?_, execChainEnd_waits s⟩⟩
  · exact ⟨_, execLoop_fifth s ha hc n ds dd dx hl, s.suspended_malformedEntry⟩
  · have hf : skipLoop maxEntries s (t.cur + 64) 0 = (s, .found (t.cur + 128)) := by
      rw [show maxEntries = 131071 + 1 from rfl, skipLoop_endl _ s _ hp hs hk, add_assoc]
      rfl
    subst hn
    exact execLoop_skips s ha hc ds dd dx _ hl hf
  · have h := execEndl_loop s ha hc l rest hl
    rwa [if_pos hi] at h
  · have h := execEndl_loop s ha hc l rest hl
    rwa [if_neg hi] at h
  · exact ⟨_, execEndl_none s ha hc hl, s.suspended_malformedEntry⟩
  · have h := execIfsem_settled s ha hc a n sk hs
    rwa [if_pos (hcount ▸ hle)] at h
  · have h := execWaits_settled s ha hc a n hs
    rwa [if_pos (hcount ▸ hle)] at h
  · have h := execIfsem_settled s ha hc a n sk hs
    rwa [if_neg (not_le.mpr (hcount ▸ hlt))] at h
  · have h := execWaits_settled s ha hc a n hs
    rwa [if_neg (not_le.mpr (hcount ▸ hlt))] at h
  · obtain ⟨u, hu, hl⟩ := execChainEnd_ends s ha hc hd
    exact ⟨u, hu, hl.chainEnded⟩

end Machine
end Sys2Proof
end
